-- ==== Sys2Proof/Word.lean ====
section
/-! DEFINITION. Word.lean: the unit every frame body and value is counted in. -/

namespace Sys2Proof

/-- One byte of a frame or of a stored value. -/
abbrev Byte := BitVec 8

end Sys2Proof
end

