-- ==== Sys2Proof/Stored.lean ====
section
/-! DEFINITION. Stored.lean: the forms the part keeps in flash pages (2.2, 2.3, 8.1, 8.2): entries, page trailers,
headers and catalogue snapshots. -/

namespace Sys2Proof

/-- The two streams of the Write Path (R46). -/
inductive StreamId where
  | host
  | relocate
  deriving DecidableEq, Repr

/-- A key: a space number and an item number (1.1). -/
structure Key where
  space : Nat
  item : Nat
  deriving DecidableEq, Repr

/-- Where an entry lies: segment, page, first cell (Table 1-1). -/
structure Loc where
  seg : Nat
  page : Nat
  cell : Nat
  deriving DecidableEq, Repr

/-- The three kinds of entry of Table 2-1 (R20). -/
inductive Entry where
  | record (key : Key) (seq len : Nat) (check : BitVec 16) (value : List Byte)
  | tombstone (key : Key) (seq : Nat)
  | pad
  deriving DecidableEq, Repr

/-- An entry with the first cell it occupies in its page (R21). -/
structure Placed where
  cell : Nat
  entry : Entry
  deriving DecidableEq, Repr

/-- The page trailer of an entry page (Table 2-2, R22). -/
structure Trailer where
  stream : StreamId
  stamp : Nat
  page : Nat
  count : Nat
  starts : List Nat
  lowest : Option Nat
  highest : Option Nat
  check : BitVec 32
  deriving DecidableEq, Repr

/-- The two catalogue mirrors: A is segment 0 and B is segment 1 (R141). -/
inductive Mirror where
  | a
  | b
  deriving DecidableEq, Repr

/-- The policy of a space, in rising order (R126). -/
inductive Policy where
  | opened
  | writeOnce
  | readOnly
  deriving DecidableEq, Repr

/-- The persistent fields of one space, as a snapshot carries them (Table 8-1, R125). -/
structure SpaceFields where
  policy : Policy
  pinGuard : Bool
  quota : Option Nat
  clearSeq : Nat
  deriving DecidableEq, Repr

/-- A catalogue snapshot (Table 8-1, R142). -/
structure Snapshot where
  gen : Nat
  stamp : Nat
  spaces : List SpaceFields
  retired : List Nat
  check : BitVec 32
  deriving DecidableEq, Repr

/-- What a program writes into a page: an entry page with its trailer (R22), a segment header with its own check (R23), a
mirror header with its header check (R141) or a snapshot (R142). -/
inductive PageData where
  | entries (placed : List Placed) (trailer : Trailer)
  | segHeader (eraseCount strikes stamp : Nat) (check : BitVec 32)
  | mirrorHeader (mirror : Mirror) (eraseCount : Nat) (check : BitVec 32)
  | snapshot (snap : Snapshot)
  deriving DecidableEq, Repr

/-- How far the contents of a page that is not blank can be relied on (DESIGN CHOICE, assumptions 7 and 16). -/
inductive Quality where
  /-- The program completed OK: the page holds the data as sent (R73). -/
  | sound
  /-- A program was cut short: the page is not blank and every check of it fails (R19(5), R84(2)). -/
  | torn
  /-- An erase was cut short: the page is blank or unreadable (R19(5), R84(3)). -/
  | halfErased
  /-- A program or an erase reported FAIL: the page is of unknown content (R73, R74). -/
  | unknown
  deriving DecidableEq, Repr

/-- A page of the array that is not known to be blank. A blank page is not listed (R19). `data` is what was programmed
last; it is absent in a page that was blank when an erase of its segment was cut short or failed. -/
structure StoredPage where
  data : Option PageData
  quality : Quality
  deriving DecidableEq, Repr

end Sys2Proof
end

