-- ==== Sys2Proof/Config.lean ====
section
/-! DEFINITION. Config.lean: the fixed numbers of the part (Table 0-2, R193) and the functions and values the manual
leaves open, each a constant without a body, so that nothing can be proved of its value. -/

namespace Sys2Proof.Config

/-- Number of segments of the array (R19). -/
def segments : Nat := 1024
/-- The first data segment (R19). -/
def firstData : Nat := 2
/-- Pages in a segment (R19). -/
def pages : Nat := 48
/-- The last page of a segment (R19). -/
def lastPage : Nat := 47
/-- Cells in a page (R19). -/
def cells : Nat := 16
/-- Capacity of the Record Index (R1). -/
def indexCapacity : Nat := 16384
/-- Number of spaces (R125). -/
def spaces : Nat := 16
/-- Largest value of a record in bytes (R20). -/
def maxValue : Nat := 1008
/-- Sequence numbers lie below this bound (R45). -/
def seqBound : Nat := 2 ^ 48
/-- Open stamps and generations lie below this bound (R33, R142). -/
def wordBound : Nat := 2 ^ 32
/-- The erase count stays at this value (R40). -/
def eraseCap : Nat := 1000000
/-- The host reserve of free segments (R32). -/
def hostReserve : Nat := 4
/-- Capacity of the retired list (R146). -/
def retiredCapacity : Nat := 96
/-- The gain test: most live cells of a victim taken for space (R94). -/
def gainLimit : Nat := 720
/-- The wear-spread limit (R42). -/
def wearLimit : Nat := 2000
/-- The strike limit (R103). -/
def strikeLimit : Nat := 3
/-- Consecutive failed catalogue programs that fail the catalogue (R150). -/
def failureLimit : Nat := 3
/-- Suspensions of one erase (R81). -/
def suspendLimit : Nat := 6
/-- Slots of the Request Table (R178). -/
def slots : Nat := 8
/-- Places of the immediate reply list (R177). -/
def immediatePlaces : Nat := 4
/-- Largest frame body in bytes (R173). -/
def maxBody : Nat := 1040
/-- Largest quota in cells (R130). -/
def maxQuota : Nat := 768544
/-- Link counters and notice counts stay at this value (R175, R197). -/
def countCap : Nat := 65535

/-- The 16-bit value check of a RECORD (R20). The manual gives its width and not its function (DESIGN CHOICE, assumption
9). -/
opaque valueCheck : List Byte → BitVec 16

/-- The 32-bit page check over page data and trailer (R22), of which the manual gives the width only: a function of the
entries, the stream, the open stamp and the page number (DESIGN CHOICE, assumption 9). -/
opaque pageCheck : List Placed → StreamId → Nat → Nat → BitVec 32

/-- The 32-bit snapshot check over the other fields of a snapshot (R142), of which the manual gives the width only
(DESIGN CHOICE, assumption 9). -/
opaque snapshotCheck : Nat → Nat → List SpaceFields → List Nat → BitVec 32

/-- The check a segment header carries over its three fields, of which the manual gives neither width nor function (R23;
DESIGN CHOICE, assumption 9). -/
opaque segHeaderCheck : Nat → Nat → Nat → BitVec 32

/-- The header check of a mirror header over the mirror's name and erase count, of which the manual gives neither width nor
function (R141(3); DESIGN CHOICE, assumption 9). -/
opaque mirrorHeaderCheck : Mirror → Nat → BitVec 32

/-- The next sequence after 2^48 - 1 has been given, the n-th time that happens: the manual states none (R45; DESIGN CHOICE,
assumption 5). -/
opaque sequenceAfterLast : Nat → BitVec 48

/-- The format stamp in a header that FORMAT writes when no generation is left for its final snapshot, a new one for each
header: the manual states none (R43(1), R152(3), R151(3); DESIGN CHOICE, assumption 54). -/
opaque stampAfterLast : Nat → BitVec 32

/-- Which mirror becomes current at mount when both hold the newest generation and their highest non-blank pages are
equal: R153(2) decides by the lower page and says nothing of equal ones (DESIGN CHOICE, assumption 14). True stands for mirror
A. -/
opaque mirrorTie : Bool

end Sys2Proof.Config
end

