-- ==== Sys2Proof/Syntax.lean ====
section
/-! DEFINITION. Syntax.lean: the commands of the block, one constructor per row of spec/opcode_table.json. A command is
an event outside the part (a line, a frame, the end of an array operation, a timer) or one whole internal step of the
part (the Request Engine takes a request, a waiting entry is placed). -/

namespace Sys2Proof

/-- The corrected counts of the four codewords of a page read (R71); `none` stands for UNCORRECTABLE. -/
structure Codewords where
  c0 : Option Nat
  c1 : Option Nat
  c2 : Option Nat
  c3 : Option Nat
  deriving DecidableEq, Repr

/-- What the array reports at the end of a page read (R71). `trailer` says whether the trailer's own protection held,
`check` whether the page check (of an entry page) or the form's own check (of a header or snapshot) was found to pass,
`mismatch` lists the first cells whose entry header or value check is found not to match although every codeword of the
entry was corrected (R115). -/
inductive ReadReport where
  | blank
  | written (codewords : Codewords) (trailer check : Bool) (mismatch : List Nat)
  deriving DecidableEq, Repr

/-- The fields of a received frame after its start marker (R173, Table 11-5). -/
structure RxFrame where
  length : BitVec 16
  type : Byte
  tag : Byte
  body : List Byte
  check : BitVec 16
  deriving DecidableEq, Repr

/-- The commands, in the order of spec/opcode_table.json. -/
inductive Instr where
  | powerOn
  | powerLoss
  | rstAsserted
  | rstDeasserted
  | wpChanged (asserted : Bool)
  | pfwAsserted
  | pfwDeasserted
  | lengthError
  | frameCheckFailed
  | receiverTimeout
  | frameReceived (frame : RxFrame)
  | identify (tag : Byte)
  | status (tag : Byte)
  | cancel (tag target : Byte)
  | reset (tag : Byte)
  | resetReplyBuilt
  | put
  | delete
  | get
  | list
  | sync
  | compact
  | segmentInfo
  | spaceInfo
  | setParam
  | freeze
  | setPolicy
  | setQuota
  | clearSpace
  | format
  | formatEmptying
  | frameSent
  | commitWindowExpiry
  | patrolTimerExpiry
  | arrayOperationTimeout
  | eraseSuspendTimeout
  | readCompletion (report : ReadReport)
  | programCompletion (ok : Bool)
  | eraseCompletion (ok : Bool)
  | eraseSuspended
  | waitingEntryPlaced (stream : StreamId)
  | heldRequestProceeds
  | evacuationEnd
  | frameStartMarker
  deriving DecidableEq, Repr

end Sys2Proof
end

