-- ==== Sys2Proof/Decode.lean ====
section
/-! DEFINITION. Decode.lean: the commands the opcode table spells by bits. No row of spec/opcode_table.json gives bits:
every command is an event outside the part or one of its own steps, so no word spells one
(DESIGN CHOICE, assumption 38). -/

namespace Sys2Proof

/-- The command a word spells by the table's bits: none, since the table gives no row any bits. -/
def decodeTableWord (_nbits _w : Nat) : Option Instr := none

end Sys2Proof
end

