-- ==== Sys2Proof/Machine/State.lean ====
section
/-! DEFINITION. Machine/State.lean: the whole state of the part as plain data, block by block, the reasons a step can
stop, and the state after reset. -/

namespace Sys2Proof.Machine

/-! ## Record Index (chapter 1) -/

/-- An index entry: the fields of Table 1-1 that its state has (R2). -/
inductive IndexEntry where
  | live (seq len cells : Nat) (loc : Loc) (programmed : Bool)
  | tombstone (seq : Nat) (loc : Loc) (programmed : Bool)
  | lost (seq len : Nat)
  deriving DecidableEq, Repr

/-! ## Segment Table (chapter 2) -/

/-- The states of a data segment (R25). -/
inductive SegState where
  | free
  | opened
  | full
  | evacuating
  | erasing
  | condemned
  | retired
  deriving DecidableEq, Repr

/-- The refresh reasons of Table 5-1 (R87). -/
inductive RefreshReason where
  | wear
  | threshold
  | uncorrectable
  | programFault
  deriving DecidableEq, Repr

/-- The condemn causes of Table 2-3 (R39, R40). -/
inductive CondemnCause where
  | uncorrectable
  | programFault
  | strikes
  | eraseFault
  deriving DecidableEq, Repr

/-- A read outcome as worst health keeps it (R28). -/
inductive Health where
  | bits (n : Nat)
  | uncorrectable
  deriving DecidableEq, Repr

/-- A segment record (Table 2-3, R24). -/
structure SegRec where
  state : SegState
  stream : Option StreamId
  eraseCount : Nat
  strikes : Nat
  openStamp : Option Nat
  nextPage : Option Nat
  live : Nat
  lowestSeq : Option Nat
  worst : Health
  reason : Option RefreshReason
  cause : Option CondemnCause
  deriving DecidableEq, Repr

/-! ## Write Path (chapter 3) -/

/-- A stream's page whose program is claimed or running (R46). -/
structure InFlight where
  seg : Nat
  page : Nat
  placed : List Placed
  trailer : Trailer
  deriving DecidableEq, Repr

/-- An entry that could not be placed yet (R49). A HOST entry has no sequence while it waits (R47); `value` is absent
for a DELETE. A copy carries the location of its source (R11). -/
inductive WaitingEntry where
  | host (slot : Nat) (key : Key) (value : Option (List Byte))
  | copy (entry : Entry) (source : Loc)
  deriving DecidableEq, Repr

/-- A stream of the Write Path (Table 3-1). `strandedDest` is the page a stranded buffer was destined for (R61). -/
structure Stream where
  openSeg : Option Nat
  buffer : List Placed
  cellsUsed : Nat
  ended : Bool
  commitRequested : Bool
  finalPage : Bool
  inFlight : Option InFlight
  stranded : Bool
  strandedDest : Option (Nat × Nat)
  waiting : Option WaitingEntry
  deriving DecidableEq, Repr

/-- The mark of a SYNC that waits (R58). -/
structure SyncMark where
  slot : Nat
  mark : Nat
  deriving DecidableEq, Repr

/-! ## Array Controller (chapter 4) -/

/-- The claim classes (R75). -/
inductive ClaimClass where
  | catalogue
  | host
  | relocate
  | patrol
  deriving DecidableEq, Repr

/-- The originators of Table 4-2. -/
inductive Originator where
  | writer
  | startup
  | requestEngine
  | hostStream
  | compaction
  | relocStream
  | patrolUnit
  deriving DecidableEq, Repr

/-- What a claim asks for (R75). A read made for a GET names the key (R83). -/
inductive ClaimOp where
  | read (seg page : Nat)
  | readKey (key : Key)
  | program (seg page : Nat) (data : PageData)
  | erase (seg : Nat)
  deriving DecidableEq, Repr

/-- A claim (R75). -/
structure Claim where
  cls : ClaimClass
  origin : Originator
  op : ClaimOp
  deriving DecidableEq, Repr

/-- The fields that go with a GET's read, taken at its grant (R83). -/
structure GetTaken where
  key : Key
  seq : Nat
  len : Nat
  loc : Loc
  cells : Nat
  deriving DecidableEq, Repr

/-- A page read that runs. -/
structure ReadRun where
  origin : Originator
  seg : Nat
  page : Nat
  get : Option GetTaken
  deriving DecidableEq, Repr

/-- An erase that runs or is suspended, with its suspension count (R82). -/
structure EraseRun where
  origin : Originator
  seg : Nat
  suspensions : Nat
  deriving DecidableEq, Repr

/-- The array operation that runs. -/
inductive ArrayOp where
  | read (run : ReadRun)
  | program (origin : Originator) (seg page : Nat) (data : PageData)
  | erase (run : EraseRun)
  deriving DecidableEq, Repr

/-- The Array Controller: the operation running, a suspended erase, the four claim places, the claims waiting outside
them in the order made, and the starvation guard count (R75, R76, R79, R82). -/
structure ArrayCtl where
  op : Option ArrayOp
  suspended : Option EraseRun
  catPlace : Option Claim
  hostPlace : Option Claim
  relPlace : Option Claim
  patPlace : Option Claim
  outside : List Claim
  guardCount : Nat
  deriving DecidableEq, Repr

/-- A written read outcome as its originator receives it (R71). `data` is what the page delivers: only the bytes of
codewords that are not UNCORRECTABLE are taken from it. -/
structure Written where
  codewords : Codewords
  trailer : Option Trailer
  pageCheck : Bool
  ownCheck : Bool
  data : Option PageData
  mismatch : List Nat
  deriving DecidableEq, Repr

/-- The outcome of a page read (R71). -/
inductive ReadOutcome where
  | blank
  | written (w : Written)
  deriving DecidableEq, Repr

/-! ## Compaction Engine (chapter 5) -/

/-- The phases of a victim (Table 5-2). -/
inductive Phase where
  | reading
  | copying
  | draining
  | erasing
  | header
  deriving DecidableEq, Repr

/-- An entry of the victim still to handle: one whose header was read, one whose first codeword is UNCORRECTABLE
(R97), or one the final sweep found in the index (R100). -/
inductive CopyItem where
  | entry (loc : Loc) (entry : Entry)
  | unreadable (loc : Loc)
  | sweep (key : Key)
  deriving DecidableEq, Repr

/-- The evacuation context (R90). `nextPage` is 48 when no further page is to be read; `sweeping` marks the final
sweep. -/
structure Victim where
  seg : Nat
  phase : Phase
  nextPage : Nat
  todo : List CopyItem
  sweeping : Bool
  deriving DecidableEq, Repr

/-- A COMPACT that waits (R93). -/
structure CompactWait where
  slot : Nat
  target : Nat
  deriving DecidableEq, Repr

/-- The Compaction Engine (R90). `running` is the run state. -/
structure Compaction where
  running : Bool
  victim : Option Victim
  paused : Bool
  noGain : Bool
  compacts : List CompactWait
  deriving DecidableEq, Repr

/-! ## Patrol Unit (chapter 6) and parameters (Table 11-3) -/

/-- The patrol cursor and timer (R120); `timer` is the interval it runs with, absent when it is stopped. -/
structure Patrol where
  seg : Nat
  page : Nat
  timer : Option Nat
  deriving DecidableEq, Repr

/-- The volatile parameters (Table 11-3). -/
structure Params where
  commitWindow : Nat
  patrolInterval : Nat
  threshold : Nat
  compactStart : Nat
  compactStop : Nat
  deriving DecidableEq, Repr

/-! ## Space Table (chapter 7) -/

/-- A space record (Table 7-1, R125). -/
structure SpaceRec where
  policy : Policy
  pinGuard : Bool
  frozen : Bool
  quota : Option Nat
  usage : Nat
  keyCount : Nat
  clearSeq : Nat
  deriving DecidableEq, Repr

/-! ## Catalogue Writer (chapter 8) -/

/-- The step of a write in flight (Table 8-2). -/
inductive WriteStep where
  | erase
  | header
  | program
  deriving DecidableEq, Repr

/-- A snapshot being written (R144). -/
structure CatWrite where
  snap : Snapshot
  page : Nat
  step : WriteStep
  deriving DecidableEq, Repr

/-- Who waits for a snapshot: a barrier request's slot or a condemned segment (R144). -/
inductive WaiterWho where
  | slot (n : Nat)
  | segment (n : Nat)
  deriving DecidableEq, Repr

/-- A waiter and the generation it needs (R145). -/
structure Waiter where
  who : WaiterWho
  needed : Nat
  deriving DecidableEq, Repr

/-- A mirror record (R141). Which mirror is current stands in `Catalogue.current`. -/
structure MirrorRec where
  eraseCount : Nat
  gen : Option Nat
  deriving DecidableEq, Repr

/-- The Catalogue Writer (Table 8-2). `completedStamp` is the format stamp of the completed generation, kept so that a
failed FORMAT snapshot can give it back (R151). -/
structure Catalogue where
  current : Mirror
  nextPage : Option Nat
  completed : Nat
  begun : Nat
  write : Option CatWrite
  dirty : Bool
  waiters : List Waiter
  retired : List Nat
  formatStamp : Nat
  completedStamp : Nat
  failures : Nat
  failed : Bool
  mirrorA : MirrorRec
  mirrorB : MirrorRec
  deriving DecidableEq, Repr

/-! ## Start-up Controller (chapter 9) -/

/-- The device modes (Table 9-1). -/
inductive Mode where
  | mounting
  | unformatted
  | formatting
  | ready
  | readOnly
  deriving DecidableEq, Repr

/-- The READ_ONLY causes (Table 9-2). -/
inductive Cause where
  | retiredListFull
  | catalogueFailed
  | noSpaceForRetry
  | noSpaceForRelocation
  | indexOverflow
  deriving DecidableEq, Repr

/-- The phases of mount (R159). -/
inductive MountPhase where
  | catalogue
  | scan
  | build
  | states
  | finish
  deriving DecidableEq, Repr

/-- An entry taken in the scan (R159). `len` is absent for a TOMBSTONE. -/
structure Candidate where
  key : Key
  seq : Nat
  len : Option Nat
  cells : Nat
  loc : Loc
  stamp : Nat
  deriving DecidableEq, Repr

/-- The four cases of a segment header at mount (R161). -/
inductive HeaderCase where
  | matching
  | foreign
  | blank
  | unreadable
  deriving DecidableEq, Repr

/-- The marks of the scan for one data segment (R159, R161, R162). -/
structure ScanMark where
  header : HeaderCase
  eraseCount : Nat
  strikes : Nat
  hasPages : Bool
  lowestSeq : Option Nat
  openStamp : Option Nat
  worst : Health
  reason : Option RefreshReason
  deriving DecidableEq, Repr

/-- A valid snapshot found in a mirror, and whether a codeword of its page was MARGINAL (R153). -/
structure FoundSnapshot where
  snap : Snapshot
  marginal : Bool
  deriving DecidableEq, Repr

/-- What the catalogue phase has read of one mirror (R160): its highest non-blank page, the erase count of a readable
header, and its valid snapshots, newest page first. -/
structure MirrorScan where
  top : Nat
  eraseCount : Option Nat
  found : List FoundSnapshot
  deriving DecidableEq, Repr

/-- A segment mount has marked for erasing (R161, R166). -/
structure EraseMark where
  seg : Nat
  eraseCount : Nat
  strikes : Nat
  worst : Health
  deriving DecidableEq, Repr

/-- The mount progress (R159). `suspect` is a page whose check failed and of which it is not yet known whether a
written page follows (R162). -/
structure Mount where
  phase : MountPhase
  seg : Nat
  page : Nat
  scanA : MirrorScan
  scanB : MirrorScan
  candidates : List Candidate
  highestErase : Nat
  highestSeq : Nat
  highestStamp : Nat
  torn : Nat
  damaged : Nat
  unreadable : Nat
  marks : List (Nat × ScanMark)
  suspect : Option (Nat × Written)
  toErase : List EraseMark
  deriving DecidableEq, Repr

/-- Where a FORMAT stands (R170, R171). -/
inductive FormatPhase where
  | resting
  | header (seg : Nat)
  | erasing (seg : Nat)
  | rewriting (seg : Nat)
  | snapshot
  deriving DecidableEq, Repr

/-- The progress of a FORMAT: its slot (absent after a soft reset, R172), the header's counts in hand, the highest
erase count among the headers read, and the pending retirement set (R43, R171). -/
structure Format where
  phase : FormatPhase
  slot : Option Nat
  fromUnformatted : Bool
  eraseCount : Nat
  strikes : Nat
  highestHeader : Nat
  pendingRetire : List Nat
  retiring : Nat
  deriving DecidableEq, Repr

/-- The Start-up Controller (R155, R159). -/
structure Startup where
  mode : Mode
  cause : Option Cause
  pendingCause : Option Cause
  mount : Option Mount
  format : Option Format
  deriving DecidableEq, Repr

/-! ## Host Link and Request Engine (chapters 10 and 11) -/

/-- A queued request as its body reads (Table 11-7). SET_POLICY and SET_QUOTA keep the raw values, which their own
checks test (R134, R135). The slot keeps the body so, not as bytes (DEDUCED, assumption 15). -/
inductive Request where
  | put (key : Key) (durable : Bool) (expected : Option Nat) (value : List Byte)
  | delete (key : Key) (durable : Bool) (expected : Option Nat)
  | get (key : Key)
  | list (space : Nat) (after : Option Nat) (maximum : Nat)
  | sync
  | compact (target : Option Nat)
  | segmentInfo (seg : Nat)
  | spaceInfo (space : Nat)
  | setParam (code value : Nat)
  | freeze (space : Nat)
  | setPolicy (space policy pinGuard : Nat)
  | setQuota (space quota : Nat)
  | clearSpace (space : Nat)
  | format
  deriving DecidableEq, Repr

/-- The status codes (Table 11-2). -/
inductive Status where
  | ok
  | cancelled
  | tooLate
  | unknownTag
  | tagInUse
  | badTag
  | queueFull
  | badRequest
  | badParam
  | notReady
  | unformatted
  | readOnlyMode
  | powerLow
  | notFound
  | lost
  | exists
  | seqMismatch
  | quotaExceeded
  | quotaBelowUsage
  | indexFull
  | tooLarge
  | mediaFull
  | mediaFault
  | noGain
  | frozen
  | readOnlySpace
  | writeProtected
  | downgrade
  | permanentSpaces
  deriving DecidableEq, Repr

/-- One element of a LIST reply (R190). -/
structure ListItem where
  item : Nat
  lost : Bool
  len : Nat
  seq : Nat
  deriving DecidableEq, Repr

/-- The four link counters (R175). -/
structure Counters where
  checkErrors : Nat
  lengthErrors : Nat
  timeouts : Nat
  refusalsDropped : Nat
  deriving DecidableEq, Repr

/-- The data of a STATUS reply (R196). -/
structure StatusData where
  mode : Mode
  cause : Option Cause
  segCounts : List Nat
  entries : Nat
  outstanding : Nat
  nextSeq : Nat
  wp : Bool
  pfw : Bool
  counters : Counters
  overflow : Bool
  deriving DecidableEq, Repr

/-- The data of a reply (R187 to R196). -/
inductive ReplyData where
  | none
  | sequence (seq : Nat)
  | lostRecord (seq len : Nat)
  | freeCount (n : Nat)
  | value (seq len corrected : Nat) (bytes : List Byte)
  | listing (more : Bool) (items : List ListItem)
  | status (d : StatusData)
  | identity
  | segment (r : SegRec)
  | mirror (eraseCount : Nat) (current : Bool) (nextPage gen : Nat)
  | space (r : SpaceRec)
  | generation (gen : Nat)
  | cleared (clearSeq gen : Nat)
  | formatted (gen retired : Nat)
  deriving DecidableEq, Repr

/-- The states of a slot (Table 10-2). -/
inductive SlotState where
  | queued
  | active
  | held
  | awaitingCommit
  | awaitingCatalogue
  | awaitingCompaction
  | replyReady
  deriving DecidableEq, Repr

/-- What a durable request waits for: the page its entry is destined for and the sequence given (R57). -/
structure PageWait where
  seg : Nat
  page : Nat
  seq : Nat
  deriving DecidableEq, Repr

/-- An occupied slot of the Request Table (R178). -/
structure Slot where
  tag : Byte
  request : Request
  arrival : Nat
  state : SlotState
  wait : Option PageWait
  reply : Option (Status × ReplyData)
  deriving DecidableEq, Repr

/-- An answer of the immediate reply list (R177). `now` asks for STATUS data when the frame is built (R182). -/
structure Answer where
  type : Byte
  tag : Byte
  status : Status
  data : ReplyData
  now : Bool
  deriving DecidableEq, Repr

/-- The notices of Table 11-4. -/
inductive Notice where
  | mounted (mode : Mode) (keys torn damaged unreadable : Nat)
  | modeChanged (mode : Mode) (cause : Option Cause)
  | recordLost (space item seq : Nat)
  | segmentRetired (seg : Nat) (cause : Option CondemnCause)
  | spaceLow (freeCount : Nat)
  | overflow (count : Nat)
  deriving DecidableEq, Repr

/-- A frame of the part as it is built (R173, R185). `slot` is the slot whose reply it is. -/
inductive TxFrame where
  | reply (type tag : Byte) (status : Status) (credit : Nat) (data : ReplyData) (slot : Option Nat)
  | notice (n : Notice)
  deriving DecidableEq, Repr

/-- A soft reset in progress: the tag of the RESET and the generation of the snapshot in flight at its arrival
(R184). -/
structure SoftReset where
  tag : Byte
  snapshot : Option Nat
  deriving DecidableEq, Repr

/-- The Host Link (chapter 10). `inside` is the receiver's state; slots are listed by slot number; `sending` is the
frame on TXD; `resetReplies` are the RESET replies that are to be sent next, in the
order they were built (R184(4)). -/
structure Link where
  inside : Bool
  counters : Counters
  slots : List (Nat × Slot)
  immediate : List Answer
  replyOrder : List Nat
  notices : List Notice
  noticeGuard : Nat
  sending : Option TxFrame
  resetReplies : List TxFrame
  softReset : Option SoftReset
  deriving DecidableEq, Repr

/-- The Request Engine (R181). -/
structure Engine where
  active : Option Nat
  discard : Bool
  deriving DecidableEq, Repr

/-! ## The machine -/

/-- The state of the part. Tables are lists of pairs in rising key order: the array by segment * 48 + page, blank pages
not listed; the Record Index by `Key.code`; the Segment Table and the Space Table by number, empty while they hold no
valid record. `pending` is the queue of commands waiting, `freeDraws` counts the free values drawn; both are the
model's own (DESIGN CHOICE, assumptions 24 and 36). -/
structure State where
  powered : Bool
  rst : Bool
  wp : Bool
  pfw : Bool
  flash : List (Nat × StoredPage)
  index : List (Nat × IndexEntry)
  segs : List (Nat × SegRec)
  freeCount : Nat
  lowFree : Bool
  urgent : List Nat
  ordinary : List Nat
  spaces : List (Nat × SpaceRec)
  nextSeq : Option Nat
  nextStamp : Option Nat
  host : Stream
  reloc : Stream
  commitTimer : Option Nat
  syncMarks : List SyncMark
  arr : ArrayCtl
  comp : Compaction
  patrol : Patrol
  params : Params
  cat : Catalogue
  startup : Startup
  link : Link
  engine : Engine
  freeDraws : Nat
  pending : List Instr
  deriving DecidableEq, Repr

/-- Why a step faults. No meaning of this model raises a fault: the manual describes no event that stops the part. The
constructor stands for a command that carries nothing the part could act on; nobody raises it. Safe. -/
inductive Fault where
  /-- Raised by nobody. Safe: a fault only stops the model. -/
  | noSuchEvent
  deriving DecidableEq, Repr

/-- Why a step is refused. -/
inductive Refusal where
  /-- A command with no meaning yet, named by its mnemonic; raised by no arm of this model. Safe. -/
  | notModelled (mnemonic : String)
  deriving DecidableEq, Repr

/-! ## Values after power-on and RST -/

/-- A stream after power-on and RST (R68). -/
def Stream.empty : Stream where
  openSeg := none
  buffer := []
  cellsUsed := 0
  ended := false
  commitRequested := false
  finalPage := false
  inFlight := none
  stranded := false
  strandedDest := none
  waiting := none

/-- The Array Controller after power-on and RST (R84). -/
def ArrayCtl.idle : ArrayCtl where
  op := none
  suspended := none
  catPlace := none
  hostPlace := none
  relPlace := none
  patPlace := none
  outside := []
  guardCount := 0

/-- The default parameters (R158). -/
def Params.default : Params where
  commitWindow := 4
  patrolInterval := 500
  threshold := 8
  compactStart := 16
  compactStop := 24

/-- The Catalogue Writer before mount sets it: idle, an empty waiters list, no claim (R153). The other fields have the
values R153 gives for a mount that finds no snapshot (DESIGN CHOICE, assumption 3). -/
def Catalogue.empty : Catalogue where
  current := .b
  nextPage := none
  completed := 0
  begun := 0
  write := none
  dirty := false
  waiters := []
  retired := []
  formatStamp := 0
  completedStamp := 0
  failures := 0
  failed := false
  mirrorA := ⟨0, none⟩
  mirrorB := ⟨0, none⟩

/-- Nothing read of a mirror yet. -/
def MirrorScan.unread : MirrorScan where
  top := 0
  eraseCount := none
  found := []

/-- Mount as it begins: phase CATALOGUE, mirror A, page 0, every count 0 (R159, R160). -/
def Mount.start : Mount where
  phase := .catalogue
  seg := 0
  page := 0
  scanA := MirrorScan.unread
  scanB := MirrorScan.unread
  candidates := []
  highestErase := 0
  highestSeq := 0
  highestStamp := 0
  torn := 0
  damaged := 0
  unreadable := 0
  marks := []
  suspect := none
  toErase := []

/-- The Host Link after power-on and RST (R174 to R186). -/
def Link.empty : Link where
  inside := false
  counters := ⟨0, 0, 0, 0⟩
  slots := []
  immediate := []
  replyOrder := []
  notices := []
  noticeGuard := 0
  sending := none
  resetReplies := []
  softReset := none

/-- The part held by RST: every block has its power-on value and the mode is MOUNTING (R158). The array, the lines, the
queue of commands and the count of free values are kept from `s`; the pause mark follows PFW (R110). With no valid record
the free count is 0 and the part is not in the low-free condition (R44; DESIGN CHOICE, assumption 41). -/
def State.held (s : State) : State where
  powered := s.powered
  rst := s.rst
  wp := s.wp
  pfw := s.pfw
  flash := s.flash
  index := []
  segs := []
  freeCount := 0
  lowFree := false
  urgent := []
  ordinary := []
  spaces := []
  nextSeq := none
  nextStamp := none
  host := Stream.empty
  reloc := Stream.empty
  commitTimer := none
  syncMarks := []
  arr := ArrayCtl.idle
  comp := { running := false, victim := none, paused := s.pfw, noGain := false, compacts := [] }
  patrol := { seg := 2, page := 1, timer := some 500 }
  params := Params.default
  cat := Catalogue.empty
  startup := { mode := .mounting, cause := none, pendingCause := none, mount := none, format := none }
  link := Link.empty
  engine := { active := none, discard := false }
  freeDraws := s.freeDraws
  pending := s.pending

/-- The part right after reset: supplied, RST deasserted, mode MOUNTING, with mount in its CATALOGUE phase reading page
0 of mirror A (R158, R160). The array is blank, WP and PFW are deasserted and the part is not in the low-free condition
(DESIGN CHOICE, assumptions 1, 2 and 41). -/
def State.reset : State where
  powered := true
  rst := false
  wp := false
  pfw := false
  flash := []
  index := []
  segs := []
  freeCount := 0
  lowFree := false
  urgent := []
  ordinary := []
  spaces := []
  nextSeq := none
  nextStamp := none
  host := Stream.empty
  reloc := Stream.empty
  commitTimer := none
  syncMarks := []
  arr := { ArrayCtl.idle with op := some (.read { origin := .startup, seg := 0, page := 0, get := none }) }
  comp := { running := false, victim := none, paused := false, noGain := false, compacts := [] }
  patrol := { seg := 2, page := 1, timer := some 500 }
  params := Params.default
  cat := Catalogue.empty
  startup := { mode := .mounting, cause := none, pendingCause := none, mount := some Mount.start, format := none }
  link := Link.empty
  engine := { active := none, discard := false }
  freeDraws := 0
  pending := []

end Sys2Proof.Machine
end

