-- ==== Sys2Proof/Machine/Bytes.lean ====
section
/-! DEFINITION. Machine/Bytes.lean: the byte order of the link and the frame check (R198). -/

namespace Sys2Proof.Machine

/-- `n` bytes of `v`, least significant byte first (R198). -/
def leBytes : Nat → Nat → List Byte
  | 0, _ => []
  | n + 1, v => BitVec.ofNat 8 v :: leBytes n (v / 256)

/-- The number a field of bytes holds, least significant byte first (R198). -/
def leNat : List Byte → Nat
  | [] => 0
  | b :: bs => b.toNat + 256 * leNat bs

/-- One bit of the frame check: the generator polynomial 1021H, most significant bit first (R198). -/
def crcBit (r : BitVec 16) : BitVec 16 :=
  if r.msb then (r <<< 1) ^^^ 0x1021#16 else r <<< 1

/-- `n` bits of the frame check. -/
def crcBits : Nat → BitVec 16 → BitVec 16
  | 0, r => r
  | n + 1, r => crcBits n (crcBit r)

/-- One byte of the frame check (R198). -/
def crcByte (r : BitVec 16) (b : Byte) : BitVec 16 :=
  crcBits 8 (r ^^^ (b.zeroExtend 16 <<< 8))

/-- The frame check over `bytes`: the register starts at FFFFH, with no reversal and no final inversion (R198). -/
def frameCheck (bytes : List Byte) : BitVec 16 :=
  bytes.foldl crcByte 0xFFFF#16

/-- The bytes of a received frame that its check covers: length, type, tag and body (R173). -/
def RxFrame.covered (f : RxFrame) : List Byte :=
  leBytes 2 f.length.toNat ++ f.type :: f.tag :: f.body

/-- The check of a received frame is the one computed over its bytes (R174). -/
def RxFrame.checkPasses (f : RxFrame) : Bool :=
  frameCheck (RxFrame.covered f) == f.check

/-- The frame of a type, tag and body, with the right length and check: what a host sends. -/
def RxFrame.make (type tag : Byte) (body : List Byte) : RxFrame :=
  let f : RxFrame := ⟨BitVec.ofNat 16 body.length, type, tag, body, 0#16⟩
  { f with check := frameCheck (RxFrame.covered f) }

end Sys2Proof.Machine
end

