-- ==== Sys2Proof/Machine/Bodies.lean ====
section
/-! DEFINITION. Machine/Bodies.lean: request bodies as bytes (Table 11-7 and the list after it) and what a well-formed
body asks for (R176, R188 to R196). -/

namespace Sys2Proof.Machine

/-- The position of a key in the order of the Record Index: ascending by space, then by item (R1). -/
def Key.code (k : Key) : Nat := k.space * 65536 + k.item

/-- The key at a position of the index order. -/
def Key.ofCode (n : Nat) : Key := ⟨n / 65536, n % 65536⟩

/-- Splits off an expected sequence when the flags say that one is present (Table 11-7). -/
def splitExpected (present : Bool) (rest : List Byte) : Option (Option Nat × List Byte) :=
  if present then
    if 6 ≤ rest.length then some (some (leNat (rest.take 6)), rest.drop 6) else none
  else some (none, rest)

/-- The body of a PUT (R188): a value length above 1,008 is no malformation, a length that does not match is. -/
def parsePut (body : List Byte) : Option Request :=
  match body with
  | sp :: i0 :: i1 :: fl :: rest =>
    if 4 ≤ fl.toNat then none
    else
      match splitExpected (2 ≤ fl.toNat) rest with
      | some (exp, l0 :: l1 :: value) =>
        if value.length = leNat [l0, l1] then
          some (.put ⟨sp.toNat, leNat [i0, i1]⟩ (fl.toNat % 2 == 1) exp value)
        else none
      | _ => none
  | _ => none

/-- The body of a DELETE (R188). -/
def parseDelete (body : List Byte) : Option Request :=
  match body with
  | sp :: i0 :: i1 :: fl :: rest =>
    if 4 ≤ fl.toNat then none
    else
      match splitExpected (2 ≤ fl.toNat) rest with
      | some (exp, []) => some (.delete ⟨sp.toNat, leNat [i0, i1]⟩ (fl.toNat % 2 == 1) exp)
      | _ => none
  | _ => none

/-- The maximum count of a LIST is 1 to 64 (R190). -/
def listOf (space : Byte) (after : Option Nat) (m : Byte) : Option Request :=
  if 1 ≤ m.toNat ∧ m.toNat ≤ 64 then some (.list space.toNat after m.toNat) else none

/-- The body of a LIST (R190). -/
def parseList (body : List Byte) : Option Request :=
  match body with
  | [sp, fl, m] => if fl = 0#8 then listOf sp none m else none
  | [sp, fl, a0, a1, m] => if fl = 1#8 then listOf sp (some (leNat [a0, a1])) m else none
  | _ => none

/-- The body of a COMPACT: empty, or a target of 1 to 96 (R191). -/
def parseCompact (body : List Byte) : Option Request :=
  match body with
  | [] => some (.compact none)
  | [t] => if 1 ≤ t.toNat ∧ t.toNat ≤ 96 then some (.compact (some t.toNat)) else none
  | _ => none

/-- A well-formed request that takes a slot, by its type code (Table 11-6); absent when the type is no such kind or the
body is malformed (R176). -/
def parseQueued (type : Byte) (body : List Byte) : Option Request :=
  match type.toNat, body with
  | 0x10, b => parsePut b
  | 0x11, [sp, i0, i1] => some (.get ⟨sp.toNat, leNat [i0, i1]⟩)
  | 0x12, b => parseDelete b
  | 0x13, b => parseList b
  | 0x14, [] => some .sync
  | 0x15, b => parseCompact b
  | 0x16, [s0, s1] => some (.segmentInfo (leNat [s0, s1]))
  | 0x17, [sp] => some (.spaceInfo sp.toNat)
  | 0x18, [c, v0, v1] => some (.setParam c.toNat (leNat [v0, v1]))
  | 0x19, [sp] => some (.freeze sp.toNat)
  | 0x1A, [sp, p, g] => some (.setPolicy sp.toNat p.toNat g.toNat)
  | 0x1B, [sp, q0, q1, q2, q3] => some (.setQuota sp.toNat (leNat [q0, q1, q2, q3]))
  | 0x1C, [sp] => some (.clearSpace sp.toNat)
  | 0x1D, [] => some .format
  | _, _ => none

/-- The immediate requests (R176 test 3). -/
inductive Immediate where
  | identify
  | status
  | cancel (target : Byte)
  | reset
  deriving DecidableEq, Repr

/-- A well-formed immediate request. A CANCEL target of 0 is malformed (R196). -/
def parseImmediate (type : Byte) (body : List Byte) : Option Immediate :=
  match type.toNat, body with
  | 1, [] => some .identify
  | 2, [] => some .status
  | 3, [t] => if t = 0#8 then none else some (.cancel t)
  | 4, [] => some .reset
  | _, _ => none

/-- The type codes that are request kinds (Table 11-6). -/
def isRequestKind (type : Byte) : Bool :=
  (1 ≤ type.toNat && type.toNat ≤ 4) || (0x10 ≤ type.toNat && type.toNat ≤ 0x1D)

/-- The type of a reply: the request's type with 80H added, or FFH for a type that is no request kind (R199). -/
def replyType (type : Byte) : Byte :=
  if isRequestKind type then type + 0x80#8 else 0xFF#8

/-- The type code of a queued request (Table 11-6). -/
def Request.type : Request → Byte
  | .put .. => 0x10#8
  | .get .. => 0x11#8
  | .delete .. => 0x12#8
  | .list .. => 0x13#8
  | .sync => 0x14#8
  | .compact _ => 0x15#8
  | .segmentInfo _ => 0x16#8
  | .spaceInfo _ => 0x17#8
  | .setParam .. => 0x18#8
  | .freeze _ => 0x19#8
  | .setPolicy .. => 0x1A#8
  | .setQuota .. => 0x1B#8
  | .clearSpace _ => 0x1C#8
  | .format => 0x1D#8

end Sys2Proof.Machine
end

