-- ==== Sys2Proof/Machine/Store.lean ====
section
/-! DEFINITION. Machine/Store.lean: tables as lists of (number, value) pairs in strictly rising order of the numbers, so
that equal tables are equal lists, and the few list helpers the model needs, all structurally recursive. -/

namespace Sys2Proof.Machine.Store

variable {α β : Type}

/-- The value listed under `k`. -/
def get (k : Nat) : List (Nat × α) → Option α
  | [] => none
  | (j, v) :: rest => if j = k then some v else get k rest

/-- The table with `v` under `k`. -/
def put (k : Nat) (v : α) : List (Nat × α) → List (Nat × α)
  | [] => [(k, v)]
  | (j, w) :: rest =>
    if k < j then (k, v) :: (j, w) :: rest
    else if j = k then (k, v) :: rest
    else (j, w) :: put k v rest

/-- The table with nothing under `k`. -/
def del (k : Nat) : List (Nat × α) → List (Nat × α)
  | [] => []
  | (j, w) :: rest => if j = k then rest else (j, w) :: del k rest

/-- The table with the value under `k`, if any, changed by `f`. -/
def modify (k : Nat) (f : α → α) : List (Nat × α) → List (Nat × α)
  | [] => []
  | (j, w) :: rest => if j = k then (j, f w) :: rest else (j, w) :: modify k f rest

/-- Every value changed by `f`, which also sees its number. -/
def mapVals (f : Nat → α → β) (m : List (Nat × α)) : List (Nat × β) :=
  m.map (fun p => (p.1, f p.1 p.2))

/-- The canonical form: numbers strictly rising. -/
abbrev Canonical (m : List (Nat × α)) : Prop :=
  (m.map Prod.fst).Pairwise (· < ·)

/-- Inserts into a list kept in rising order of `rank`, after equal ranks. -/
def insertBy (rank : α → Nat) (x : α) : List α → List α
  | [] => [x]
  | y :: ys => if rank x < rank y then x :: y :: ys else y :: insertBy rank x ys

/-- The list in rising order of `rank`; equal ranks keep their order. -/
def sortBy (rank : α → Nat) (l : List α) : List α :=
  l.foldl (fun acc x => insertBy rank x acc) []

/-- The list without its first element that satisfies `p`. -/
def dropFirst (p : α → Bool) : List α → List α
  | [] => []
  | x :: xs => if p x then xs else x :: dropFirst p xs

/-- Inserts a number into an ascending list without duplicates. -/
def insertNat (n : Nat) : List Nat → List Nat
  | [] => [n]
  | m :: ms => if n < m then n :: m :: ms else if n = m then m :: ms else m :: insertNat n ms

/-- The first of the numbers `from, from + 1, …` (`count` of them) that satisfies `p`. -/
def firstFrom (p : Nat → Bool) : Nat → Nat → Option Nat
  | 0, _ => none
  | count + 1, n => if p n then some n else firstFrom p count (n + 1)

end Sys2Proof.Machine.Store
end

