-- ==== Sys2Proof/Machine/Ops.lean ====
section
/-! DEFINITION. Machine/Ops.lean: reading and changing one block's tables: notices, slots and answers of the Host Link,
segment and space records, the two streams, pages of the array. -/

namespace Sys2Proof.Machine

/-- The part is held: no supply, or RST asserted (R158). -/
def isHeld (s : State) : Bool := !s.powered || s.rst

/-! ## Notice Queue (R186) -/

/-- An OVERFLOW notice. -/
def Notice.isOverflow : Notice → Bool
  | .overflow _ => true
  | _ => false

/-- The count of a waiting OVERFLOW notice rises by one, up to 65,535 (R186(3)). -/
def Notice.countLost : Notice → Notice
  | .overflow c => .overflow (min (c + 1) Config.countCap)
  | n => n

/-- The Notice Queue after a producer queues `n` (R186). -/
def pushNotice (n : Notice) (q : List Notice) : List Notice :=
  if q.any Notice.isOverflow then q.map Notice.countLost
  else if q.length ≤ 10 then q ++ [n]
  else q ++ [.overflow 1]

/-- A producer queues a notice (R186). -/
def queueNotice (n : Notice) (s : State) : State :=
  { s with link := { s.link with notices := pushNotice n s.link.notices } }

/-! ## Request Table (R178, R179) -/

/-- The slot with a number. -/
def slotAt (n : Nat) (s : State) : Option Slot := Store.get n s.link.slots

/-- Changes a slot. -/
def modSlot (n : Nat) (f : Slot → Slot) (s : State) : State :=
  { s with link := { s.link with slots := Store.modify n f s.link.slots } }

/-- A slot with its answer (R179). -/
def Slot.answered (status : Status) (data : ReplyData) (sl : Slot) : Slot :=
  { sl with state := .replyReady, wait := none, reply := some (status, data) }

/-- The Request Engine lets go of slot `n` when it is the active one (R181). -/
def Engine.release (n : Nat) (e : Engine) : Engine :=
  if e.active = some n then { e with active := none } else e

/-- A request is answered: its slot goes REPLY_READY with the answer, and the Request Engine lets it go (R179, R181). Its
place in the reply order is taken when the step ends (`orderReplies`). -/
def answer (n : Nat) (status : Status) (data : ReplyData) (s : State) : State :=
  let t := modSlot n (Slot.answered status data) s
  { t with engine := s.engine.release n }

/-- The numbers of the slots that satisfy `p`. -/
def slotsWhere (p : Slot → Bool) (s : State) : List Nat :=
  (s.link.slots.filter (fun e => p e.2)).map Prod.fst

/-- Answers every slot of a list alike. -/
def answerAll (ns : List Nat) (status : Status) (data : ReplyData) (s : State) : State :=
  ns.foldl (fun t n => answer n status data t) s

/-- The Request Table after a slot is freed: younger slots move up by one (R178). -/
def freeSlot (n : Nat) (slots : List (Nat × Slot)) : List (Nat × Slot) :=
  match Store.get n slots with
  | none => slots
  | some gone =>
    Store.mapVals (fun _ sl => if gone.arrival < sl.arrival then { sl with arrival := sl.arrival - 1 } else sl)
      (Store.del n slots)

/-- Number of free slots (R180). -/
def freeSlots (s : State) : Nat := Config.slots - s.link.slots.length

/-- The slot that is HELD, if any (R105). -/
def heldSlot (s : State) : Option Nat := (slotsWhere (fun sl => sl.state == .held) s).head?

/-! ## Segment Table and Space Table -/

/-- The record of a data segment. -/
def segAt (g : Nat) (s : State) : Option SegRec := Store.get g s.segs

/-- Changes a segment record as one whole (R24). -/
def modSeg (g : Nat) (f : SegRec → SegRec) (s : State) : State :=
  { s with segs := Store.modify g f s.segs }

/-- The state of a data segment. -/
def segState (g : Nat) (s : State) : Option SegState := (segAt g s).map SegRec.state

/-- A space record as FORMAT leaves it (R140). -/
def SpaceRec.fresh (frozen : Bool) : SpaceRec where
  policy := .opened
  pinGuard := false
  frozen := frozen
  quota := none
  usage := 0
  keyCount := 0
  clearSeq := 0

/-- The record of a space. Spaces 0 to 15 have one in READY and READ_ONLY (R125, R140). -/
def spaceAt (n : Nat) (s : State) : SpaceRec := (Store.get n s.spaces).getD (SpaceRec.fresh false)

/-- Changes a space record. -/
def modSpace (n : Nat) (f : SpaceRec → SpaceRec) (s : State) : State :=
  { s with spaces := Store.modify n f s.spaces }

/-! ## Streams -/

/-- A stream of the Write Path (R46). -/
def streamOf (id : StreamId) (s : State) : Stream :=
  match id with
  | .host => s.host
  | .relocate => s.reloc

/-- Changes a stream. -/
def modStream (id : StreamId) (f : Stream → Stream) (s : State) : State :=
  match id with
  | .host => { s with host := f s.host }
  | .relocate => { s with reloc := f s.reloc }

/-- The claim class of a stream's programs (R51). -/
def streamClass : StreamId → ClaimClass
  | .host => .host
  | .relocate => .relocate

/-- The originator a stream is at the Array Controller (Table 4-2). -/
def streamOrigin : StreamId → Originator
  | .host => .hostStream
  | .relocate => .relocStream

/-- The sequence of an entry; a PAD has none (R20). -/
def Entry.seq? : Entry → Option Nat
  | .record _ seq _ _ _ => some seq
  | .tombstone _ seq => some seq
  | .pad => none

/-- The key of an entry. -/
def Entry.key? : Entry → Option Key
  | .record k _ _ _ _ => some k
  | .tombstone k _ => some k
  | .pad => none

/-- The smallest number of cells that holds a 16-byte header and a value (R2, R20). -/
def cellsOf (len : Nat) : Nat := (len + 16 + 255) / 256

/-- The cells an entry occupies; a PAD is counted where it is placed (R20). -/
def Entry.cells : Entry → Nat
  | .record _ _ len _ _ => cellsOf len
  | .tombstone _ _ => 1
  | .pad => 0

/-- The sequences of a list of placed entries. -/
def seqsOf (l : List Placed) : List Nat := l.filterMap (fun p => Entry.seq? p.entry)

/-- The lowest of some numbers. -/
def lowestOf : List Nat → Option Nat
  | [] => none
  | n :: ns => match lowestOf ns with
    | none => some n
    | some m => some (min n m)

/-- The highest of some numbers. -/
def highestOf : List Nat → Option Nat
  | [] => none
  | n :: ns => match highestOf ns with
    | none => some n
    | some m => some (max n m)

/-- The entries a stream holds that are not programmed: in flight, then in the buffer (R62). -/
def Stream.pendingEntries (st : Stream) : List Placed :=
  (st.inFlight.map InFlight.placed).getD [] ++ st.buffer

/-- The page the buffer of a stream is destined for (R46): the open segment's next page, or, stranded, the page it was
destined for when its program failed. -/
def bufferDest (id : StreamId) (s : State) : Option (Nat × Nat) :=
  let st := streamOf id s
  if st.stranded then st.strandedDest
  else match st.openSeg with
    | none => none
    | some g => match segAt g s with
      | none => none
      | some r => r.nextPage.map (fun p => (g, p))

/-! ## Pages of the array (R19) -/

/-- The number a page is listed under. -/
def pageAddr (seg page : Nat) : Nat := seg * Config.pages + page

/-- What the array holds in a page; absent for a blank page. -/
def pageAt (seg page : Nat) (s : State) : Option StoredPage := Store.get (pageAddr seg page) s.flash

/-- A page programmed with some quality (R73). -/
def setPage (seg page : Nat) (data : PageData) (q : Quality) (s : State) : State :=
  { s with flash := Store.put (pageAddr seg page) ⟨some data, q⟩ s.flash }

/-- The segment header a program writes, with its own check (R23). -/
def segHeader (eraseCount strikes stamp : Nat) : PageData :=
  .segHeader eraseCount strikes stamp (Config.segHeaderCheck eraseCount strikes stamp)

/-- The mirror header a program writes, with its header check (R141). -/
def mirrorHeader (m : Mirror) (eraseCount : Nat) : PageData :=
  .mirrorHeader m eraseCount (Config.mirrorHeaderCheck m eraseCount)

/-- The page number `a` belongs to a segment. -/
def inSegment (seg a : Nat) : Bool := a / Config.pages == seg

/-- Every page of a segment made blank (R74). -/
def blankSegment (seg : Nat) (s : State) : State :=
  { s with flash := s.flash.filter (fun p => !inSegment seg p.1) }

/-- The quality of a written page after an erase that reported FAIL: old contents that could be relied on may be kept or
not, contents whose checks failed are not mended (R74(2)). -/
def Quality.eraseFailed : Quality → Quality
  | .sound => .unknown
  | .unknown => .unknown
  | .torn => .halfErased
  | .halfErased => .halfErased

/-- What an erase that failed or was cut short leaves of a page: written contents with the quality `f` gives, and of a
blank page one that may be read blank or unreadable (R74(2), R84(3); DEDUCED, assumption 16). -/
def spoiled (f : Quality → Quality) (page : Option StoredPage) : StoredPage :=
  match page with
  | none => ⟨none, .halfErased⟩
  | some p => { p with quality := f p.quality }

/-- One page of a listing left by an erase that failed or was cut short. -/
def spoilPage (seg : Nat) (f : Quality → Quality) (m : List (Nat × StoredPage)) (page : Nat) :
    List (Nat × StoredPage) :=
  Store.put (pageAddr seg page) (spoiled f (Store.get (pageAddr seg page) m)) m

/-- Every page of a segment left by an erase that failed or was cut short (R74, R84). -/
def spoilSegment (seg : Nat) (f : Quality → Quality) (s : State) : State :=
  { s with flash := (List.range Config.pages).foldl (spoilPage seg f) s.flash }

end Sys2Proof.Machine
end

