-- ==== Sys2Proof/Machine/Array.lean ====
section
/-! DEFINITION. Machine/Array.lean: the claim places of the Array Controller, the grant order, and what a read delivers
(chapter 4). -/

namespace Sys2Proof.Machine

/-- The claim place of a class (R75). -/
def ArrayCtl.place (a : ArrayCtl) : ClaimClass → Option Claim
  | .catalogue => a.catPlace
  | .host => a.hostPlace
  | .relocate => a.relPlace
  | .patrol => a.patPlace

/-- Fills or empties a claim place. -/
def ArrayCtl.setPlace (a : ArrayCtl) (cls : ClaimClass) (c : Option Claim) : ArrayCtl :=
  match cls with
  | .catalogue => { a with catPlace := c }
  | .host => { a with hostPlace := c }
  | .relocate => { a with relPlace := c }
  | .patrol => { a with patPlace := c }

/-- A claim is made: it enters its class's place when that is empty, and otherwise waits outside in the order made
(R76). -/
def ArrayCtl.claim (a : ArrayCtl) (c : Claim) : ArrayCtl :=
  match a.place c.cls with
  | none => a.setPlace c.cls (some c)
  | some _ => { a with outside := a.outside ++ [c] }

/-- When a place has emptied, the oldest claim of its class waiting outside enters it (R76). -/
def ArrayCtl.refill (a : ArrayCtl) (cls : ClaimClass) : ArrayCtl :=
  match a.place cls with
  | some _ => a
  | none =>
    match a.outside.find? (fun c => c.cls == cls) with
    | none => a
    | some c => { a.setPlace cls (some c) with outside := Store.dropFirst (fun d => d.cls == cls) a.outside }

/-- Empties a place and lets the next claim of the class enter (R76). -/
def ArrayCtl.leave (a : ArrayCtl) (cls : ClaimClass) : ArrayCtl :=
  (a.setPlace cls none).refill cls

/-- Empties a place whose claim satisfies `p`. -/
def ArrayCtl.leaveIf (a : ArrayCtl) (cls : ClaimClass) (p : Claim → Bool) : ArrayCtl :=
  match a.place cls with
  | none => a
  | some c => if p c then a.leave cls else a

/-- Withdraws the claims of a class that satisfy `p`, in the place or outside it (R77); when the RELOCATE place is left
empty the starvation guard count becomes 0, as R79(4) says and R77(1) does not (DEDUCED, assumption 42). -/
def ArrayCtl.withdraw (a : ArrayCtl) (cls : ClaimClass) (p : Claim → Bool) : ArrayCtl :=
  let b := { a with outside := a.outside.filter (fun c => !(c.cls == cls && p c)) }.leaveIf cls p
  if cls = .relocate ∧ a.relPlace.isSome ∧ b.relPlace = none then { b with guardCount := 0 } else b

/-- An originator makes a claim (R75, R76). -/
def makeClaim (cls : ClaimClass) (origin : Originator) (op : ClaimOp) (s : State) : State :=
  { s with arr := s.arr.claim ⟨cls, origin, op⟩ }

/-- The array is idle: no operation runs and no erase is suspended (R78). -/
def ArrayCtl.isIdle (a : ArrayCtl) : Bool := a.op.isNone && a.suspended.isNone

/-- A claim is a read made for a GET. -/
def Claim.isGetRead (c : Claim) : Bool :=
  match c.op with
  | .readKey _ => true
  | _ => false

/-- A read made for a GET stands in the HOST place. -/
def ArrayCtl.getWaiting (a : ArrayCtl) : Bool :=
  match a.hostPlace with
  | none => false
  | some c => c.isGetRead

/-- A suspension of the running erase is requested: a GET's read stands in the HOST place while an erase runs with fewer
than 6 suspensions made (R81; DESIGN CHOICE, assumption 37). -/
def ArrayCtl.suspendRequested (a : ArrayCtl) : Bool :=
  match a.op with
  | some (.erase e) => a.getWaiting && decide (e.suspensions < Config.suspendLimit)
  | _ => false

/-- The grant order of Table 4-3. -/
def grantOrder (lowFree : Bool) : List ClaimClass :=
  if lowFree then [.catalogue, .relocate, .host, .patrol] else [.catalogue, .host, .relocate, .patrol]

/-- The class granted next: RELOCATE when the starvation guard is due, otherwise the first of the grant order with a
claim in its place (R78, R79). -/
def ArrayCtl.nextClass (a : ArrayCtl) (lowFree : Bool) : Option ClaimClass :=
  if a.guardCount = 4 ∧ a.relPlace.isSome then some .relocate
  else (grantOrder lowFree).find? (fun cls => (a.place cls).isSome)

/-- The starvation guard count after a grant made under R78, seen with the place of the granted class emptied (R79). -/
def ArrayCtl.guardAfter (a : ArrayCtl) (cls : ClaimClass) : Nat :=
  match cls with
  | .host => if a.relPlace.isSome then min (a.guardCount + 1) 4 else 0
  | _ => 0

/-! ## Read outcomes (R71, R72) -/

/-- The corrected count of codeword `i`; `none` stands for UNCORRECTABLE, as does a count above 12 (Table 6-1; DEDUCED,
assumption 40). -/
def Codewords.countAt (c : Codewords) (i : Nat) : Option Nat :=
  let n := match i with
    | 0 => c.c0
    | 1 => c.c1
    | 2 => c.c2
    | _ => c.c3
  match n with
  | none => none
  | some k => if k ≤ 12 then some k else none

/-- The counts of the four codewords in order. -/
def Codewords.counts (c : Codewords) : List (Option Nat) := [0, 1, 2, 3].map (Codewords.countAt c)

/-- No codeword is UNCORRECTABLE. -/
def Codewords.allReadable (c : Codewords) : Bool := (Codewords.counts c).all Option.isSome

/-- Number of UNCORRECTABLE codewords. -/
def Codewords.lostCount (c : Codewords) : Nat := ((Codewords.counts c).filter Option.isNone).length

/-- The codeword a cell lies in (R19). -/
def codewordOf (cell : Nat) : Nat := cell / 4

/-- The worst outcome of a read (R28): its highest corrected count, or UNCORRECTABLE. -/
def Codewords.worst (c : Codewords) : Health :=
  if Codewords.allReadable c then .bits ((highestOf ((Codewords.counts c).filterMap id)).getD 0) else .uncorrectable

/-- Every check of a page fails when its program or an erase of it was cut short, or when nothing was written there
(R19). -/
def StoredPage.canPass : Option StoredPage → Bool
  | none => false
  | some p => p.quality != .torn && p.quality != .halfErased

/-- The array can report so of a page (R19(4), (5), R71): a blank page is reported blank and nothing else, and a page
torn by a program cut short is never reported blank. A written page may have lost its contents (R118(1)). -/
def canReport (page : Option StoredPage) (report : ReadReport) : Bool :=
  match page, report with
  | none, .blank => true
  | none, .written _ _ _ _ => false
  | some p, .blank => p.quality != .torn
  | some _, .written _ _ _ _ => true

/-- The trailer a page holds. -/
def PageData.trailer? : PageData → Option Trailer
  | .entries _ t => some t
  | _ => none

/-- What a read delivers when the array reports `report` for a page that holds `page` (R71): the trailer when its
protection held, and a page check that fails whenever a codeword is UNCORRECTABLE or the trailer is unreadable. A page
that passes its check has no mismatch (R115). DESIGN CHOICE: the report says how the read went, the state says what the
page holds (assumption 7). -/
def deliver (page : Option StoredPage) (report : ReadReport) : ReadOutcome :=
  match report with
  | .blank => .blank
  | .written cws trailer check mismatch =>
    let ok := check && Codewords.allReadable cws && StoredPage.canPass page
    .written {
      codewords := cws
      trailer := if trailer then (page.bind StoredPage.data).bind PageData.trailer? else none
      pageCheck := ok && trailer
      ownCheck := ok
      data := page.bind StoredPage.data
      mismatch := if ok && trailer then [] else mismatch }

/-- A failed read: four UNCORRECTABLE codewords, the trailer unreadable, the page check failed, no page data (R72). -/
def failedRead : ReadOutcome :=
  .written ⟨⟨none, none, none, none⟩, none, false, false, none, []⟩

/-- The entry delivered at a first cell, if the codeword of that cell is readable. -/
def Written.entryAt (w : Written) (cell : Nat) : Option Entry :=
  match Codewords.countAt w.codewords (codewordOf cell), w.data with
  | some _, some (.entries placed _) => (placed.find? (fun p => p.cell == cell)).map Placed.entry
  | _, _ => none

/-- The cells from `cell` on, `n` of them. -/
def cellRange (cell n : Nat) : List Nat := (List.range n).map (cell + ·)

/-- Every cell lies in a readable codeword (R115(1)). -/
def Written.cellsReadable (w : Written) (cell n : Nat) : Bool :=
  (cellRange cell n).all (fun c => (Codewords.countAt w.codewords (codewordOf c)).isSome)

/-- The highest corrected count among the codewords the cells lie in (R115). -/
def Written.correctedOf (w : Written) (cell n : Nat) : Nat :=
  (highestOf ((cellRange cell n).filterMap (fun c => Codewords.countAt w.codewords (codewordOf c)))).getD 0

end Sys2Proof.Machine
end

