-- ==== Sys2Proof/Machine/Index.lean ====
section
/-! DEFINITION. Machine/Index.lean: changes of the Record Index with their accounting (chapter 1), the Allocator
(2.5), the commit of a buffer (3.4) and arrivals at the Refresh Queue (5.1). -/

namespace Sys2Proof.Machine

/-! ## The Record Index -/

/-- The index entry of a key. -/
def lookup (k : Key) (s : State) : Option IndexEntry := Store.get (Key.code k) s.index

/-- The sequence of an index entry. -/
def IndexEntry.seq : IndexEntry → Nat
  | .live seq _ _ _ _ => seq
  | .tombstone seq _ _ => seq
  | .lost seq _ => seq

/-- The location of an index entry; a LOST entry has none (R3). -/
def IndexEntry.loc? : IndexEntry → Option Loc
  | .live _ _ _ loc _ => some loc
  | .tombstone _ loc _ => some loc
  | .lost _ _ => none

/-- The cells of an index entry; a TOMBSTONE has 1 (Table 1-1). -/
def IndexEntry.cells : IndexEntry → Nat
  | .live _ _ cells _ _ => cells
  | .tombstone _ _ _ => 1
  | .lost _ _ => 0

/-- The cells an index entry adds to its space's usage: those of a LIVE entry (R4, R129). -/
def IndexEntry.usage : IndexEntry → Nat
  | .live _ _ cells _ _ => cells
  | _ => 0

/-- LIVE or LOST (R5). -/
def IndexEntry.present : IndexEntry → Bool
  | .tombstone _ _ _ => false
  | _ => true

/-- The programmed field; a LOST entry has none and counts as programmed. -/
def IndexEntry.programmed : IndexEntry → Bool
  | .live _ _ _ _ p => p
  | .tombstone _ _ p => p
  | .lost _ _ => true

/-- The entry with another location, not programmed (R10, R11). -/
def IndexEntry.movedTo (loc : Loc) : IndexEntry → IndexEntry
  | .live seq len cells _ _ => .live seq len cells loc false
  | .tombstone seq _ _ => .tombstone seq loc false
  | e => e

/-- The entry set to programmed = yes (R10). -/
def IndexEntry.setProgrammed : IndexEntry → IndexEntry
  | .live seq len cells loc _ => .live seq len cells loc true
  | .tombstone seq loc _ => .tombstone seq loc true
  | e => e

/-- A key is present to the host: its entry is LIVE or LOST (R5). -/
def isPresent (e : Option IndexEntry) : Bool :=
  match e with
  | none => false
  | some e => e.present

/-- The entry lies in a page. -/
def IndexEntry.inPage (seg page : Nat) (e : IndexEntry) : Bool :=
  match e.loc? with
  | none => false
  | some l => l.seg == seg && l.page == page

/-- The entry lies in a segment. -/
def IndexEntry.inSeg (seg : Nat) (e : IndexEntry) : Bool :=
  match e.loc? with
  | none => false
  | some l => l.seg == seg

/-- Live cells of a segment fall. When the segment is FULL that clears the no-gain mark (R4, R106(1)). -/
def dropLive (g n : Nat) (s : State) : State :=
  let t := modSeg g (fun r => { r with live := r.live - n }) s
  if segState g s = some .full ∧ 0 < n then { t with comp := { s.comp with noGain := false } } else t

/-- Live cells of a segment rise (R4). -/
def addLive (g n : Nat) (s : State) : State :=
  modSeg g (fun r => { r with live := r.live + n }) s

/-- The old entry's cells leave its segment (Table 1-2). -/
def uncountOld (e : Option IndexEntry) (s : State) : State :=
  match e with
  | none => s
  | some e => match e.loc? with
    | none => s
    | some l => dropLive l.seg e.cells s

/-- The new entry's cells enter its segment (Table 1-2). -/
def countNew (e : Option IndexEntry) (s : State) : State :=
  match e with
  | none => s
  | some e => match e.loc? with
    | none => s
    | some l => addLive l.seg e.cells s

/-- The usage an entry, if any, brings to its space. -/
def usageOf (e : Option IndexEntry) : Nat := (e.map IndexEntry.usage).getD 0

/-- A space record after a key's entry changes from `old` to `new` (Table 1-2). -/
def SpaceRec.recount (old new : Option IndexEntry) (r : SpaceRec) : SpaceRec :=
  { r with
    usage := r.usage - usageOf old + usageOf new
    keyCount := r.keyCount - (if isPresent old then 1 else 0) + (if isPresent new then 1 else 0) }

/-- The index with a key's entry set or removed. -/
def setEntry (k : Key) (new : Option IndexEntry) (index : List (Nat × IndexEntry)) : List (Nat × IndexEntry) :=
  match new with
  | none => Store.del (Key.code k) index
  | some e => Store.put (Key.code k) e index

/-- One change of a key's index entry, applied whole with the adjustments of Table 1-2 (R4). -/
def changeEntry (k : Key) (new : Option IndexEntry) (s : State) : State :=
  let old := lookup k s
  let t := countNew new (uncountOld old s)
  modSpace k.space (SpaceRec.recount old new) { t with index := setEntry k new s.index }

/-! ## The Allocator (2.5) -/

/-- The segment with the lowest erase count among FREE segments, the lowest number among equals (R31). -/
def leastWornFree : List (Nat × SegRec) → Option (Nat × SegRec)
  | [] => none
  | (g, r) :: rest =>
    match leastWornFree rest with
    | none => if r.state = .free then some (g, r) else none
    | some best => if r.state = .free ∧ r.eraseCount ≤ best.2.eraseCount then some (g, r) else some best

/-- An ask is allowed: for RELOCATE and for the retry after a program fault whenever a segment is FREE, for HOST while 5
or more are (R32). -/
def askAllowed (id : StreamId) (retry : Bool) (freeCount : Nat) : Bool :=
  match id with
  | .relocate => true
  | .host => retry || decide (Config.hostReserve < freeCount)

/-- The free count falls by one; from 5 to 4 the part enters the low-free condition and a SPACE_LOW notice is queued
(R30). -/
def freeCountFalls (s : State) : State :=
  let t := { s with freeCount := s.freeCount - 1 }
  if s.freeCount - 1 ≤ Config.hostReserve ∧ s.lowFree = false then
    queueNotice (.spaceLow (s.freeCount - 1)) { t with lowFree := true }
  else t

/-- The open stamp counter after one has been taken; past 2^32 - 1 it holds no value (R33). -/
def stampAfter (n : Nat) : Option Nat := if n + 1 < Config.wordBound then some (n + 1) else none

/-- A stream asks the Allocator for a segment; absent when the ask is refused, no segment is FREE or the open stamp
counter holds no value (R31 to R34). -/
def openSegment (id : StreamId) (retry : Bool) (s : State) : Option State :=
  match s.nextStamp, leastWornFree s.segs with
  | some stamp, some (g, _) =>
    if askAllowed id retry s.freeCount then
      let t := modSeg g (fun r => { r with
        state := .opened, stream := some id, openStamp := some stamp, nextPage := some 1 }) s
      let u := { t with nextStamp := stampAfter stamp }
      some (freeCountFalls (modStream id (fun st => { st with openSeg := some g }) u))
    else none
  | _, _ => none

/-- A segment becomes FULL: its stream and next page become absent, which clears the no-gain mark (R35, R36, R37,
R106(2)). So does a victim that returns to FULL (DEDUCED, assumption 39). -/
def fillSegment (g : Nat) (s : State) : State :=
  let t := modSeg g (fun r => { r with state := .full, stream := none, nextPage := none }) s
  { t with comp := { s.comp with noGain := false } }

/-- A stream lets go of its open segment, which becomes FULL. -/
def closeOpen (id : StreamId) (s : State) : State :=
  match (streamOf id s).openSeg with
  | none => s
  | some g => fillSegment g (modStream id (fun st => { st with openSeg := none }) s)

/-! ## Commit (3.4) -/

/-- The entries of a buffer with the unused cells filled by a PAD, if it is not already ended (R51(a)). -/
def Stream.padded (st : Stream) : List Placed :=
  if st.ended ∨ Config.cells ≤ st.cellsUsed then st.buffer else st.buffer ++ [⟨st.cellsUsed, .pad⟩]

/-- The RECORDs and TOMBSTONEs of a page. -/
def withoutPads (l : List Placed) : List Placed := l.filter (fun p => p.entry != .pad)

/-- The trailer of a page (R51(b), Table 2-2). -/
def buildTrailer (id : StreamId) (stamp page : Nat) (placed : List Placed) : Trailer where
  stream := id
  stamp := stamp
  page := page
  count := (withoutPads placed).length
  starts := (withoutPads placed).map Placed.cell
  lowest := lowestOf (seqsOf placed)
  highest := highestOf (seqsOf placed)
  check := Config.pageCheck placed id stamp page

/-- The open stamp of a segment; 0 stands for an absent one. -/
def stampOf (g : Nat) (s : State) : Nat := ((segAt g s).bind SegRec.openStamp).getD 0

/-- A stream claims the program of its page in flight, in its own class (R51). -/
def claimProgram (id : StreamId) (f : InFlight) (s : State) : State :=
  makeClaim (streamClass id) (streamOrigin id) (.program f.seg f.page (.entries f.placed f.trailer)) s

/-- The stream once its buffer has become the page in flight (R51(c), (d)). -/
def Stream.committed (f : InFlight) (st : Stream) : Stream :=
  { st with
    buffer := [], cellsUsed := 0, ended := false, commitRequested := false, finalPage := false
    inFlight := some f }

/-- The commit window timer stops when the HOST buffer is committed (R51(f)). -/
def stopTimer (id : StreamId) (s : State) : State :=
  match id with
  | .host => { s with commitTimer := none }
  | .relocate => s

/-- The segment advances to its next page, or becomes FULL at page 47 or at a final page (R35, R36). -/
def advancePage (id : StreamId) (g page : Nat) (final : Bool) (s : State) : State :=
  if final ∨ page = Config.lastPage then closeOpen id s
  else modSeg g (fun r => { r with nextPage := some (page + 1) }) s

/-- The buffer of a stream is committed (R51(a) to (f)). -/
def commitNow (id : StreamId) (s : State) : State :=
  match bufferDest id s with
  | none => s
  | some (g, page) =>
    let st := streamOf id s
    let f : InFlight := ⟨g, page, st.padded, buildTrailer id (stampOf g s) page st.padded⟩
    claimProgram id f
      (stopTimer id (advancePage id g page st.finalPage (modStream id (Stream.committed f) s)))

/-- A commit cause arises for a stream (R51): no effect on an empty buffer or a stranded stream, a commit when no page is
in flight, a mark otherwise. -/
def commitCause (id : StreamId) (s : State) : State :=
  let st := streamOf id s
  if st.stranded ∨ st.buffer = [] then s
  else if st.inFlight.isNone then commitNow id s
  else modStream id (fun st => { st with commitRequested := true }) s

/-! ## Refresh Queue (5.1) -/

/-- The rank of a refresh reason: WEAR, THRESHOLD, then the two urgent reasons alike (R88). -/
def RefreshReason.rank : RefreshReason → Nat
  | .wear => 0
  | .threshold => 1
  | .uncorrectable => 2
  | .programFault => 2

/-- The urgent reasons (R87). -/
def RefreshReason.urgent (r : RefreshReason) : Bool := r.rank == 2

/-- The stream whose open segment is `g`. -/
def streamHolding (g : Nat) (s : State) : Option StreamId :=
  if s.host.openSeg = some g then some .host
  else if s.reloc.openSeg = some g then some .relocate
  else none

/-- An OPEN segment has gained a refresh reason: with an empty buffer it becomes FULL at once, otherwise the buffer is
marked final, which is a commit cause (R36, R55). So it is in READ_ONLY too, where R66 says that the open segment of an idle
stream stays OPEN (DEDUCED, assumption 50). -/
def closeForRefresh (g : Nat) (s : State) : State :=
  match streamHolding g s with
  | none => s
  | some id =>
    if (streamOf id s).buffer = [] then closeOpen id s
    else commitCause id (modStream id (fun st => { st with finalPage := true }) s)

/-- A segment joins the end of the part its reason belongs to (R87). -/
def joinQueue (g : Nat) (r : RefreshReason) (s : State) : State :=
  if r.urgent then { s with urgent := s.urgent ++ [g] } else { s with ordinary := s.ordinary ++ [g] }

/-- The refresh reason of a segment's record is set (R29). -/
def setReason (g : Nat) (r : RefreshReason) (s : State) : State :=
  modSeg g (fun rec => { rec with reason := some r }) s

/-- A reason arrives for a segment that is already a member (R88). -/
def upgradeReason (g : Nat) (old new : RefreshReason) (s : State) : State :=
  if new.rank ≤ old.rank then s
  else if new.urgent then
    setReason g new { s with ordinary := s.ordinary.filter (· != g), urgent := s.urgent ++ [g] }
  else setReason g new s

/-- A refresh reason arrives for a segment. It is applied only while the segment is OPEN, FULL or EVACUATING (R87, R88,
R29). -/
def refreshArrival (g : Nat) (reason : RefreshReason) (s : State) : State :=
  match segAt g s with
  | none => s
  | some r =>
    match r.reason with
    | some old =>
      if r.state = .opened ∨ r.state = .full ∨ r.state = .evacuating then upgradeReason g old reason s else s
    | none =>
      if r.state = .opened then closeForRefresh g (joinQueue g reason (setReason g reason s))
      else if r.state = .full ∨ r.state = .evacuating then joinQueue g reason (setReason g reason s)
      else s

/-- A segment leaves the Refresh Queue, its reason becoming none (R29, R89). -/
def leaveQueue (g : Nat) (s : State) : State :=
  let t := modSeg g (fun r => { r with reason := none }) s
  { t with urgent := s.urgent.filter (· != g), ordinary := s.ordinary.filter (· != g) }

/-! ## Lost records (R14, R116) -/

/-- A record is reported unreadable: when the key's entry is LIVE with that sequence and location it becomes LOST and a
RECORD_LOST notice is queued (R14, R116). -/
def markLost (k : Key) (seq : Nat) (loc : Loc) (s : State) : State :=
  match lookup k s with
  | some (.live q len _ l _) =>
    if q = seq ∧ l = loc then
      queueNotice (.recordLost k.space k.item seq) (changeEntry k (some (.lost q len)) s)
    else s
  | _ => s

end Sys2Proof.Machine
end

