-- ==== Sys2Proof/Machine/Modes.lean ====
section
/-! DEFINITION. Machine/Modes.lean: the device mode and what the blocks do when it becomes READ_ONLY (9.1, R66, R107,
R109, R123). -/

namespace Sys2Proof.Machine

/-- The mode and its cause change and a MODE_CHANGED notice is queued (R156). -/
def changeMode (m : Mode) (c : Option Cause) (s : State) : State :=
  queueNotice (.modeChanged m c) { s with startup := { s.startup with mode := m, cause := c } }

/-- The claims of one originator are withdrawn (R77). -/
def withdrawOf (cls : ClaimClass) (o : Originator) (s : State) : State :=
  { s with arr := s.arr.withdraw cls (fun c => c.origin == o) }

/-- A claim of the Compaction Engine that PFW withdraws: a read or an erase, not a header program (R108(1), (3)). -/
def Claim.isEngineReadOrErase (c : Claim) : Bool :=
  c.origin == .compaction &&
    (match c.op with
    | .read _ _ => true
    | .erase _ => true
    | _ => false)

/-- The Compaction Engine's read or erase claim is withdrawn (R108). -/
def withdrawEngineWork (s : State) : State :=
  { s with arr := s.arr.withdraw .relocate Claim.isEngineReadOrErase }

/-- The Patrol Unit's waiting claim is withdrawn (R123). -/
def withdrawPatrol (s : State) : State := withdrawOf .patrol .patrolUnit s

/-- A victim that is being evacuated, as opposed to erased. -/
def Victim.evacuating (v : Victim) : Bool :=
  match v.phase with
  | .reading => true
  | .copying => true
  | .draining => true
  | _ => false

/-- An evacuation in progress is abandoned: the victim returns to FULL, a copy waiting to be placed is discarded, the
context is emptied, the run state becomes IDLE and the engine's claim is withdrawn (R107(a) to (c)). A victim in ERASING
is carried to its end (R109(1)). -/
def abandonEvacuation (s : State) : State :=
  match s.comp.victim with
  | none => s
  | some v =>
    if v.evacuating then
      let t := withdrawOf .relocate .compaction (fillSegment v.seg s)
      modStream .relocate (fun st => { st with waiting := none })
        { t with comp := { t.comp with running := false, victim := none } }
    else s

/-- A HOST entry that waits for room is not placed: its request is answered READ_ONLY_MODE (R66, R61(2)). -/
def dropHostWaiting (s : State) : State :=
  match s.host.waiting with
  | some (.host n _ _) =>
    answer n .readOnlyMode .none (modStream .host (fun st => { st with waiting := none }) s)
  | _ => s

/-- The held request, if any, is answered (R105). -/
def answerHeld (status : Status) (s : State) : State :=
  match heldSlot s with
  | none => s
  | some n => answer n status .none s

/-- Every COMPACT in the list is answered with the free count and removed (R93). -/
def answerCompacts (status : Status) (s : State) : State :=
  let t := answerAll (s.comp.compacts.map CompactWait.slot) status (.freeCount s.freeCount) s
  { t with comp := { t.comp with compacts := [] } }

/-- What the blocks do at entry into READ_ONLY (R66, R109(1), R123(3)). -/
def readOnlyEffects (s : State) : State :=
  withdrawPatrol (answerCompacts .readOnlyMode (answerHeld .readOnlyMode
    (commitCause .relocate (abandonEvacuation (dropHostWaiting s)))))

/-- The mode becomes READ_ONLY with a cause (R156). -/
def enterReadOnly (c : Cause) (s : State) : State :=
  readOnlyEffects (changeMode .readOnly (some c) s)

/-- A READ_ONLY cause is reported (R156): at once in READY, pending in MOUNTING and FORMATTING if none is, without effect
elsewhere. -/
def reportCause (c : Cause) (s : State) : State :=
  match s.startup.mode with
  | .ready => enterReadOnly c s
  | .mounting | .formatting =>
    if s.startup.pendingCause.isNone then
      { s with startup := { s.startup with pendingCause := some c } }
    else s
  | _ => s

/-- A slot that may have been emptied is answered. -/
def answerOpt (n : Option Nat) (status : Status) (data : ReplyData) (s : State) : State :=
  match n with
  | none => s
  | some n => answer n status data s

/-- A failure ends FORMAT: it is answered MEDIA_FAULT and the mode becomes READ_ONLY with the failure's cause at once
(R170, R171, R156). A pending cause is dropped (DEDUCED, assumption 27). -/
def endFormatFailed (c : Cause) (s : State) : State :=
  match s.startup.format with
  | none => s
  | some f =>
    let t := answerOpt f.slot .mediaFault .none s
    enterReadOnly c { t with startup := { t.startup with format := none, pendingCause := none } }

/-- A cause whose report ends a FORMAT in progress, and is reported as any other otherwise (R156). -/
def reportEnding (c : Cause) (s : State) : State :=
  if s.startup.format.isSome then endFormatFailed c s else reportCause c s

end Sys2Proof.Machine
end

