-- ==== Sys2Proof/Machine/WritePath.lean ====
section
/-! DEFINITION. Machine/WritePath.lean: placing entries, and what the end of a stream's program brings (3.3 to 3.7). -/

namespace Sys2Proof.Machine

/-! ## Placement (3.3) -/

/-- Whether an entry can be placed now (R48 to R50). -/
inductive Room where
  /-- The stream has an open segment and room in its buffer. -/
  | ready (s : State)
  /-- The buffer cannot take the entry (R49). -/
  | full
  /-- The stream has no open segment and its ask failed (R50). -/
  | noSegment

/-- Looks for room for an entry of `n` cells; a stream with no open segment asks for one (R48, R50). -/
def roomFor (id : StreamId) (n : Nat) (s : State) : Room :=
  let st := streamOf id s
  match st.openSeg with
  | some _ => if st.ended ∨ Config.cells < st.cellsUsed + n then .full else .ready s
  | none =>
    match openSegment id false s with
    | none => .noSegment
    | some t => .ready t

/-- An entry that does not fit ends the buffer with a PAD and becomes the waiting entry, which is a commit cause (R49).
A buffer of 16 cells needs no PAD. The cells the PAD fills do not count as cells used (DESIGN CHOICE, assumption 51). -/
def endBuffer (id : StreamId) (w : WaitingEntry) (s : State) : State :=
  commitCause id (modStream id (fun st => { st with
    buffer := if st.ended then st.buffer else st.padded
    ended := st.ended || decide (st.cellsUsed < Config.cells)
    waiting := some w }) s)

/-- Where the next entry of a stream is placed: the buffer's page and its first free cell (R48). -/
def placeLoc (id : StreamId) (s : State) : Loc :=
  match bufferDest id s with
  | some (g, p) => ⟨g, p, (streamOf id s).cellsUsed⟩
  | none => ⟨0, 0, 0⟩

/-- The lowest sequence of a segment takes in a sequence (R27). -/
def SegRec.takeSeq (seq : Nat) (r : SegRec) : SegRec :=
  { r with lowestSeq := some (match r.lowestSeq with
    | none => seq
    | some m => min m seq) }

/-- An entry is put into the buffer at the first free cell and the segment's lowest sequence takes its sequence (R48,
R27). -/
def pushEntry (id : StreamId) (e : Entry) (s : State) : State :=
  let loc := placeLoc id s
  let t := modStream id (fun st => { st with
    buffer := st.buffer ++ [⟨loc.cell, e⟩], cellsUsed := st.cellsUsed + Entry.cells e }) s
  match Entry.seq? e with
  | none => t
  | some q => modSeg loc.seg (SegRec.takeSeq q) t

/-- The next sequence of the Write Path. It has a value in every mode that places an entry (R45); 1 stands for an
absent one (DESIGN CHOICE, assumption 31). -/
def nextSeqOf (s : State) : Nat := s.nextSeq.getD 1

/-- A sequence drawn when the manual states none: any of 1 to 2^48 - 1 (R45, assumption 5). -/
def drawnSeq (n : Nat) : Nat := 1 + (Config.sequenceAfterLast n).toNat % (Config.seqBound - 1)

/-- The next sequence rises by one (R45). -/
def advanceSeq (s : State) : State :=
  if nextSeqOf s + 1 < Config.seqBound then { s with nextSeq := some (nextSeqOf s + 1) }
  else { s with nextSeq := some (drawnSeq s.freeDraws), freeDraws := s.freeDraws + 1 }

/-- The entry built for a PUT (with its value) or a DELETE (without one) (R47). -/
def hostEntry (k : Key) (value : Option (List Byte)) (seq : Nat) : Entry :=
  match value with
  | some v => .record k seq v.length (Config.valueCheck v) v
  | none => .tombstone k seq

/-- The index entry of a placed PUT (R7) or DELETE (R9). -/
def hostIndexEntry (value : Option (List Byte)) (seq : Nat) (loc : Loc) : IndexEntry :=
  match value with
  | some v => .live seq v.length (cellsOf v.length) loc false
  | none => .tombstone seq loc false

/-- The cells of the entry of a PUT or DELETE (R47). -/
def hostCells (value : Option (List Byte)) : Nat :=
  match value with
  | some v => cellsOf v.length
  | none => 1

/-- A HOST entry is placed: it takes the next sequence, the index changes with it, and the next sequence rises (R48, R7,
R9, R45). -/
def placeHost (k : Key) (value : Option (List Byte)) (s : State) : State :=
  let seq := nextSeqOf s
  let loc := placeLoc .host s
  advanceSeq (changeEntry k (some (hostIndexEntry value seq loc)) (pushEntry .host (hostEntry k value seq) s))

/-- The commit window timer starts when an entry enters the empty HOST buffer. It does not run while PFW is asserted, and
a window of 0 is a commit cause at once instead (R52, R64; DEDUCED, assumption 25). -/
def startTimer (wasEmpty : Bool) (s : State) : State :=
  if wasEmpty ∧ s.pfw = false ∧ s.params.commitWindow ≠ 0 then
    { s with commitTimer := some s.params.commitWindow }
  else s

/-- A placement in the HOST buffer is a commit cause when it fills the buffer, while PFW is asserted, and at a commit
window of 0 in the empty buffer (R48, R64, R52). -/
def hostPlacementCauses (wasEmpty : Bool) (s : State) : State :=
  if Config.cells ≤ s.host.cellsUsed ∨ s.pfw ∨ (wasEmpty ∧ s.params.commitWindow = 0) then commitCause .host s
  else s

/-- The request asks for a durable answer (R57). -/
def Request.durable : Request → Bool
  | .put _ d _ _ => d
  | .delete _ d _ => d
  | _ => false

/-- A placed request is acted on by its DURABLE flag: answered OK with its sequence, or left AWAITING_COMMIT with the
page its entry is destined for (R57). -/
def afterPlacement (n : Nat) (loc : Loc) (seq : Nat) (s : State) : State :=
  match slotAt n s with
  | none => s
  | some sl =>
    if Request.durable sl.request then
      let t := modSlot n (fun sl => { sl with state := .awaitingCommit, wait := some ⟨loc.seg, loc.page, seq⟩ }) s
      { t with engine := t.engine.release n }
    else answer n .ok (.sequence seq) s

/-- The entry of slot `n` is placed, its request acted on, the timer started, and the commit causes of a placement
arise (R48, R57, R52, R51). -/
def placeFor (n : Nat) (k : Key) (value : Option (List Byte)) (s : State) : State :=
  let wasEmpty := s.host.buffer.isEmpty
  hostPlacementCauses wasEmpty
    (startTimer wasEmpty (afterPlacement n (placeLoc .host s) (nextSeqOf s) (placeHost k value s)))

/-- An entry needs a HOST segment and the ask is refused: the request is made HELD, or answered MEDIA_FULL while the
no-gain mark is set (R50, R105). -/
def holdRequest (n : Nat) (s : State) : State :=
  if s.comp.noGain then answer n .mediaFull .none s
  else modSlot n (fun sl => { sl with state := .held }) s

/-- The entry of slot `n` goes to the Write Path: placed, waiting for room, or held for want of a segment (R48 to
R50). -/
def storeFor (n : Nat) (k : Key) (value : Option (List Byte)) (s : State) : State :=
  match roomFor .host (hostCells value) s with
  | .ready t => placeFor n k value t
  | .full => endBuffer .host (.host n k value) s
  | .noSegment => holdRequest n s

/-! ## Relocated copies (R11) -/

/-- The index still speaks for a copy: the key's entry is LIVE or TOMBSTONE with the copy's sequence at the source
location (R11). -/
def copyHolds (e : Entry) (source : Loc) (s : State) : Bool :=
  match Entry.key? e, Entry.seq? e with
  | some k, some q =>
    match lookup k s with
    | some ie => ie.loc? == some source && ie.seq == q
    | none => false
  | _, _ => false

/-- The compare-and-update of a copy (R11): when it holds, the entry moves to the destination, not programmed. -/
def relocateEntry (e : Entry) (source dest : Loc) (s : State) : State :=
  if copyHolds e source s then
    match Entry.key? e with
    | some k => changeEntry k ((lookup k s).map (IndexEntry.movedTo dest)) s
    | none => s
  else s

/-- A copy is placed in the RELOCATE buffer, with its compare-and-update in the same change; 16 cells used is a commit
cause (R48, R11, R56). -/
def placeCopy (e : Entry) (source : Loc) (s : State) : State :=
  let dest := placeLoc .relocate s
  let t := relocateEntry e source dest (pushEntry .relocate e s)
  if Config.cells ≤ t.reloc.cellsUsed then commitCause .relocate t else t

/-! ## Program completion (3.6) -/

/-- Every pending index entry located in a page is set to programmed (R10(1)). -/
def programPage (seg page : Nat) (s : State) : State :=
  { s with index := Store.mapVals (fun _ e => if e.inPage seg page then e.setProgrammed else e) s.index }

/-- The slots that wait for a page (R57). -/
def slotsWaitingFor (seg page : Nat) (s : State) : List Nat :=
  slotsWhere (fun sl => sl.state == .awaitingCommit &&
    (match sl.wait with
    | some w => w.seg == seg && w.page == page
    | none => false)) s

/-- A slot whose page is programmed is answered OK with its sequence (R59(3)). -/
def answerDurable (n : Nat) (s : State) : State :=
  match (slotAt n s).bind Slot.wait with
  | some w => answer n .ok (.sequence w.seq) s
  | none => s

/-- A SYNC mark is satisfied: no pending HOST entry has a sequence at or below it (R58). -/
def markSatisfied (s : State) (m : SyncMark) : Bool :=
  (seqsOf s.host.pendingEntries).all (fun q => decide (m.mark < q))

/-- Every satisfied SYNC mark is removed and its SYNC answered OK (R58). -/
def answerSyncs (s : State) : State :=
  let done := s.syncMarks.filter (markSatisfied s)
  answerAll (done.map SyncMark.slot) .ok .none
    { s with syncMarks := s.syncMarks.filter (fun m => !markSatisfied s m) }

/-- The HOST stream's part of a program completion (R59(3)). -/
def answerProgrammed (id : StreamId) (seg page : Nat) (s : State) : State :=
  match id with
  | .host => answerSyncs ((slotsWaitingFor seg page s).foldl (fun t n => answerDurable n t) s)
  | .relocate => s

/-- The program of a stream's page completes OK (R59): its entries become programmed, its copy is released, waiting
requests are answered, and a buffer marked commit requested or ended is committed. A waiting entry is placed by the step
WAITING_ENTRY_PLACED (assumption 8). -/
def pageProgrammed (id : StreamId) (s : State) : State :=
  match (streamOf id s).inFlight with
  | none => s
  | some f =>
    let t := answerProgrammed id f.seg f.page
      (modStream id (fun st => { st with inFlight := none }) (programPage f.seg f.page s))
    if (streamOf id t).commitRequested ∨ (streamOf id t).ended then commitCause id t else t

/-! ## Program failure (3.7) -/

/-- Pending index entries located in one page move to another, keeping their cells, with their live cells (R10(2),
R4). -/
def retargetEntries (seg page toSeg toPage : Nat) (s : State) : State :=
  let moving := s.index.filter (fun p => p.2.inPage seg page && !p.2.programmed)
  moving.foldl (fun t p =>
    match p.2.loc? with
    | some l => changeEntry (Key.ofCode p.1) (some (p.2.movedTo ⟨toSeg, toPage, l.cell⟩)) t
    | none => t) s

/-- The slots waiting for one page wait for another (R60(g)). -/
def retargetSlots (seg page toSeg toPage : Nat) (s : State) : State :=
  let move (sl : Slot) : Slot :=
    match sl.wait with
    | some w => if w.seg = seg ∧ w.page = page then { sl with wait := some { w with seg := toSeg, page := toPage } } else sl
    | none => sl
  { s with link := { s.link with slots := Store.mapVals (fun _ sl => move sl) s.link.slots } }

/-- Index entries and waiting slots of a page follow it to another page (R60(c), (g)). -/
def retargetPage (seg page toSeg toPage : Nat) (s : State) : State :=
  retargetSlots seg page toSeg toPage (retargetEntries seg page toSeg toPage s)

/-- The buffer's page follows to page 2 of the retarget segment (R60(b)). -/
def retargetBuffer (dest : Option (Nat × Nat)) (g : Nat) (s : State) : State :=
  match dest with
  | none => s
  | some (bg, bp) => retargetPage bg bp g 2 s

/-- The lowest sequence of the retarget segment takes the sequences of the pages moved there (R27, R60(c)). -/
def takeSeqs (g : Nat) (seqs : List Nat) (s : State) : State :=
  seqs.foldl (fun t q => modSeg g (SegRec.takeSeq q) t) s

/-- The page in flight and the buffer of a stream are retargeted to segment `g` (R60(a) to (g)); `dest` is the page the
buffer was destined for. The program of page 1 is claimed. -/
def retarget (id : StreamId) (f : InFlight) (dest : Option (Nat × Nat)) (g : Nat) (s : State) : State :=
  let t := retargetPage f.seg f.page g 1 (retargetBuffer dest g s)
  let u := takeSeqs g (seqsOf (streamOf id t).pendingEntries) t
  let f' : InFlight := ⟨g, 1, f.placed, buildTrailer id (stampOf g u) 1 f.placed⟩
  let v := modSeg g (fun r => { r with nextPage := some 2 }) u
  claimProgram id f' (modStream id (fun st => { st with inFlight := some f', finalPage := false }) v)

/-- The SYNC marks that cover a stranded entry are answered MEDIA_FAULT (R61(1)). -/
def faultSyncs (s : State) : State :=
  match lowestOf (seqsOf s.host.pendingEntries) with
  | none => s
  | some low =>
    let lost := s.syncMarks.filter (fun m => decide (low ≤ m.mark))
    answerAll (lost.map SyncMark.slot) .mediaFault .none
      { s with syncMarks := s.syncMarks.filter (fun m => decide (m.mark < low)) }

/-- The slots that wait for a page are answered MEDIA_FAULT (R61(1)). -/
def faultPage (page : Option (Nat × Nat)) (s : State) : State :=
  match page with
  | none => s
  | some (g, p) => answerAll (slotsWaitingFor g p s) .mediaFault .none s

/-- What stranding answers: the HOST stream's slots and marks (R61(1)), and its waiting entry (R61(2)). The timer
stops. -/
def strandAnswers (id : StreamId) (f : InFlight) (dest : Option (Nat × Nat)) (s : State) : State :=
  match id with
  | .host =>
    dropHostWaiting (faultSyncs (faultPage dest (faultPage (some (f.seg, f.page)) { s with commitTimer := none })))
  | .relocate => s

/-- No segment is FREE for the retry: the stream is stranded and the part goes READ_ONLY with cause NO_SPACE_FOR_RETRY;
a FORMAT in progress ends (R61, R69). -/
def strand (id : StreamId) (f : InFlight) (dest : Option (Nat × Nat)) (s : State) : State :=
  reportEnding .noSpaceForRetry
    (strandAnswers id f dest
      (modStream id (fun st => { st with stranded := true, strandedDest := dest }) s))

/-- The failed segment becomes FULL if it was still OPEN, and is queued urgent with PROGRAM_FAULT (R37, R60). -/
def failSegment (id : StreamId) (g : Nat) (s : State) : State :=
  refreshArrival g .programFault (if (streamOf id s).openSeg = some g then closeOpen id s else s)

/-- The program of a stream's page fails (R60, R61). -/
def pageFailed (id : StreamId) (s : State) : State :=
  match (streamOf id s).inFlight with
  | none => s
  | some f =>
    let dest := bufferDest id s
    let t := failSegment id f.seg s
    match (streamOf id t).openSeg with
    | some g => retarget id f dest g t
    | none =>
      match openSegment id true t with
      | some u =>
        match (streamOf id u).openSeg with
        | some g => retarget id f dest g u
        | none => u
      | none => strand id f dest t

end Sys2Proof.Machine
end

