-- ==== Sys2Proof/Machine/Catalogue.lean ====
section
/-! DEFINITION. Machine/Catalogue.lean: snapshots, their waiters and their failures (chapter 8). -/

namespace Sys2Proof.Machine

/-- Changes the Catalogue Writer's state. -/
def modCat (f : Catalogue → Catalogue) (s : State) : State := { s with cat := f s.cat }

/-- The system segment of a mirror (R141). -/
def Mirror.seg : Mirror → Nat
  | .a => 0
  | .b => 1

/-- The other mirror. -/
def Mirror.other : Mirror → Mirror
  | .a => .b
  | .b => .a

/-- A mirror's record (R141). -/
def Catalogue.mirror (c : Catalogue) : Mirror → MirrorRec
  | .a => c.mirrorA
  | .b => c.mirrorB

/-- Changes a mirror's record. -/
def Catalogue.modMirror (c : Catalogue) (m : Mirror) (f : MirrorRec → MirrorRec) : Catalogue :=
  match m with
  | .a => { c with mirrorA := f c.mirrorA }
  | .b => { c with mirrorB := f c.mirrorB }

/-- A change that the catalogue must carry: the dirty flag becomes yes and a waiter needing the generation after the
begun one joins the list (R145). The snapshot is begun by `snapshotTest` when the step ends. -/
def addWaiter (who : WaiterWho) (s : State) : State :=
  modCat (fun c => { c with dirty := true, waiters := c.waiters ++ [⟨who, c.begun + 1⟩] }) s

/-- The condemned segments among the waiters (R146). -/
def Catalogue.condemnedWaiters (c : Catalogue) : List Nat :=
  c.waiters.filterMap (fun w => match w.who with
    | .segment g => some g
    | .slot _ => none)

/-- A CONDEMNED segment is reported to the writer (R146): accepted as a waiter while the retired list and the condemned
waiters number fewer than 96, refused with RETIRED_LIST_FULL otherwise, also by a failed writer (DEDUCED, assumption 49).
A failed writer accepts none (R151). -/
def reportCondemned (g : Nat) (s : State) : State :=
  if g ∈ s.cat.retired ∨ g ∈ s.cat.condemnedWaiters then s
  else if s.cat.retired.length + s.cat.condemnedWaiters.length < Config.retiredCapacity then
    if s.cat.failed then s else addWaiter (.segment g) s
  else reportCause .retiredListFull s

/-- A barrier slot in the waiters list is answered MEDIA_FAULT; a FORMAT's slot is answered where FORMAT ends (R151). -/
def faultWaiter (s : State) (w : Waiter) : State :=
  match w.who with
  | .slot n => if s.startup.format.isSome then s else answer n .mediaFault .none s
  | .segment _ => s

/-- The catalogue fails (R151): the write in flight is discarded, every waiter is removed, barrier slots are answered
MEDIA_FAULT, the format stamp becomes that of the completed generation, and the part goes READ_ONLY with cause
CATALOGUE_FAILED, which ends a FORMAT in progress. -/
def catalogueFails (s : State) : State :=
  let t := s.cat.waiters.foldl faultWaiter s
  reportEnding .catalogueFailed
    (modCat (fun c => { c with
      failed := true, write := none, waiters := [], formatStamp := c.completedStamp }) t)

/-- A snapshot is claimed at a page of the current mirror; the next page rises by one, or becomes none after page 47
(R147(a), R150(2)). -/
def claimSnapshot (snap : Snapshot) (page : Nat) (s : State) : State :=
  makeClaim .catalogue .writer (.program (Mirror.seg s.cat.current) page (.snapshot snap))
    (modCat (fun c => { c with
      write := some ⟨snap, page, .program⟩
      nextPage := if page < Config.lastPage then some (page + 1) else none }) s)

/-- The mirror switch begins: the erase of the other mirror is claimed (R148(1)). R144 names no target page until page 1 is
claimed; 0 stands for it, also while the header is written (DESIGN CHOICE, assumption 45). -/
def beginSwitch (snap : Snapshot) (s : State) : State :=
  makeClaim .catalogue .writer (.erase (Mirror.seg (Mirror.other s.cat.current)))
    (modCat (fun c => { c with write := some ⟨snap, 0, .erase⟩ }) s)

/-- A snapshot goes to the next page, or through a mirror switch when there is none (R147, R150). -/
def writeSnapshot (snap : Snapshot) (s : State) : State :=
  match s.cat.nextPage with
  | some p => claimSnapshot snap p s
  | none => beginSwitch snap s

/-- The persistent fields of a space (R125). -/
def SpaceRec.fields (r : SpaceRec) : SpaceFields := ⟨r.policy, r.pinGuard, r.quota, r.clearSeq⟩

/-- The persistent fields of the 16 spaces in space order (Table 8-1). -/
def spaceFields (s : State) : List SpaceFields :=
  (List.range Config.spaces).map (fun n => SpaceRec.fields (spaceAt n s))

/-- The union of the writer's retired list and the condemned waiters, ascending (R146). -/
def Catalogue.unionRetired (c : Catalogue) : List Nat :=
  c.condemnedWaiters.foldl (fun l g => Store.insertNat g l) c.retired

/-- The contents of a snapshot as they are captured (R142). FORMAT's snapshot carries its own generation as its format
stamp (R152). -/
def capture (forFormat : Bool) (s : State) : Snapshot :=
  let gen := s.cat.begun + 1
  let stamp := if forFormat then gen else s.cat.formatStamp
  ⟨gen, stamp, spaceFields s, s.cat.unionRetired, Config.snapshotCheck gen stamp (spaceFields s) s.cat.unionRetired⟩

/-- A snapshot is begun (R147): the begun generation rises by one, the contents are captured and the dirty flag becomes
no. A generation above 2^32 - 1 fails the catalogue (R151(3)). -/
def beginSnapshot (forFormat : Bool) (s : State) : State :=
  if Config.wordBound ≤ s.cat.begun + 1 then catalogueFails s
  else
    let snap := capture forFormat s
    writeSnapshot snap
      (modCat (fun c => { c with begun := snap.gen, dirty := false, formatStamp := snap.stamp }) s)

/-- The conditions for beginning a snapshot (R147(1) to (4)). -/
def snapshotDue (s : State) : Bool :=
  s.cat.write.isNone && s.cat.dirty && !s.cat.failed &&
    (s.startup.mode == .ready || s.startup.mode == .readOnly)

/-- The writer begins a snapshot when the conditions hold (R147). -/
def snapshotTest (s : State) : State := if snapshotDue s then beginSnapshot false s else s

/-- The reply data of a barrier request answered by the snapshot with generation `gen` (R136(1), R194). -/
def barrierData (r : Request) (gen : Nat) (s : State) : ReplyData :=
  match r with
  | .clearSpace n => .cleared (spaceAt n s).clearSeq gen
  | _ => .generation gen

/-- A CONDEMNED segment becomes RETIRED and a SEGMENT_RETIRED notice is queued (R41). -/
def retireSegment (g : Nat) (s : State) : State :=
  queueNotice (.segmentRetired g ((segAt g s).bind SegRec.cause))
    (modSeg g (fun r => { r with state := .retired, openStamp := none, lowestSeq := none }) s)

/-- A waiter is released by a completed generation (R149(3)): a barrier slot is answered, a condemned segment becomes
RETIRED. FORMAT's slot is answered with the number of segments its snapshot retired (R171(1)). -/
def releaseWaiter (gen : Nat) (s : State) (w : Waiter) : State :=
  match w.who with
  | .segment g => retireSegment g s
  | .slot n =>
    match slotAt n s with
    | none => s
    | some sl =>
      match s.startup.format with
      | some f => answer n .ok (.formatted gen f.retiring) s
      | none => answer n .ok (barrierData sl.request gen s) s

/-- FORMAT ends when its snapshot completes (R171(2)): READY, or READ_ONLY with the pending cause. -/
def endFormat (s : State) : State :=
  let t := { s with startup := { s.startup with format := none, pendingCause := none } }
  match s.startup.pendingCause with
  | none => changeMode .ready none t
  | some c => enterReadOnly c t

/-- FORMAT waits for its snapshot. -/
def formatAwaitsSnapshot (s : State) : Bool :=
  match s.startup.format with
  | some f => f.phase == .snapshot
  | none => false

/-- The program of the snapshot in flight completes OK (R149). -/
def snapshotCompleted (w : CatWrite) (s : State) : State :=
  let gen := w.snap.gen
  let released := s.cat.waiters.filter (fun x => decide (x.needed ≤ gen))
  let t := modCat (fun c => { (c.modMirror c.current (fun m => { m with gen := some gen })) with
    completed := gen
    failures := 0
    write := none
    retired := w.snap.retired
    formatStamp := w.snap.stamp
    completedStamp := w.snap.stamp
    waiters := c.waiters.filter (fun x => decide (gen < x.needed)) }) s
  let u := released.foldl (releaseWaiter gen) t
  if formatAwaitsSnapshot s then endFormat u else u

/-- A catalogue program fails: the failure count rises, and the third in a row fails the catalogue; otherwise `next`
goes on (R148(3), R150). -/
def countFailure (next : State → State) (s : State) : State :=
  let t := modCat (fun c => { c with failures := c.failures + 1 }) s
  if Config.failureLimit ≤ s.cat.failures + 1 then catalogueFails t else next t

/-- The mirror erase of a switch completes OK: the other mirror becomes current and its header is claimed (R148(2),
R141). -/
def mirrorErased (snap : Snapshot) (s : State) : State :=
  let m := Mirror.other s.cat.current
  let count := min ((s.cat.mirror m).eraseCount + 1) Config.eraseCap
  makeClaim .catalogue .writer (.program (Mirror.seg m) 0 (mirrorHeader m count))
    (modCat (fun c => { (c.modMirror m (fun _ => ⟨count, none⟩)) with
      current := m, nextPage := some 1, write := some ⟨snap, 0, .header⟩ }) s)

/-- The Catalogue Writer's program ends (R148(3), R149, R150). -/
def writerProgrammed (ok : Bool) (s : State) : State :=
  match s.cat.write with
  | none => s
  | some w =>
    match w.step with
    | .header =>
      if ok then claimSnapshot w.snap 1 (modCat (fun c => { c with failures := 0 }) s)
      else countFailure (claimSnapshot w.snap 1) s
    | .program => if ok then snapshotCompleted w s else countFailure (writeSnapshot w.snap) s
    | .erase => s

/-- The Catalogue Writer's erase ends (R148(2), (4)). -/
def writerErased (ok : Bool) (s : State) : State :=
  match s.cat.write with
  | none => s
  | some w => if ok then mirrorErased w.snap s else catalogueFails s

end Sys2Proof.Machine
end

