-- ==== Sys2Proof/Machine/Compaction.lean ====
section
/-! DEFINITION. Machine/Compaction.lean: victims, evacuation, fates and runs of the Compaction Engine (chapter 5), with
the Segment Table's part in them (2.6.3 to 2.7). -/

namespace Sys2Proof.Machine

/-- Changes the Compaction Engine's state. -/
def modComp (f : Compaction → Compaction) (s : State) : State := { s with comp := f s.comp }

/-- Changes the evacuation context. -/
def modVictim (f : Victim → Victim) (s : State) : State :=
  modComp (fun c => { c with victim := c.victim.map f }) s

/-- The run ends. -/
def endRun (s : State) : State := modComp (fun c => { c with running := false, victim := none }) s

/-! ## Free segments (R30, R40, R42, R93) -/

/-- COMPACTs whose target the free count reaches are removed and answered OK with it (R93). -/
def answerReached (s : State) : State :=
  let reached := s.comp.compacts.filter (fun c => decide (c.target ≤ s.freeCount))
  answerAll (reached.map CompactWait.slot) .ok (.freeCount s.freeCount)
    (modComp (fun c => { c with compacts := c.compacts.filter (fun x => decide (s.freeCount < x.target)) }) s)

/-- The free count rises by one; at 5 the low-free condition ends (R30). -/
def freeCountRises (s : State) : State :=
  answerReached { s with
    freeCount := s.freeCount + 1
    lowFree := s.lowFree && decide (s.freeCount + 1 ≤ Config.hostReserve) }

/-- The highest erase count among FREE and FULL segments (R42). -/
def highestWear (s : State) : Nat :=
  (highestOf ((s.segs.filter (fun p => p.2.state == .free || p.2.state == .full)).map (fun p => p.2.eraseCount))).getD 0

/-- The first of some segments that no later one goes before; `before` says that a record is taken rather than another,
equals included. -/
def leastBy (before : SegRec → SegRec → Bool) : List (Nat × SegRec) → Option (Nat × SegRec)
  | [] => none
  | p :: rest =>
    match leastBy before rest with
    | none => some p
    | some best => if before p.2 best.2 then some p else some best

/-- A record has no higher erase count than another (R42). -/
def SegRec.lessWorn (a b : SegRec) : Bool := decide (a.eraseCount ≤ b.eraseCount)

/-- A record has fewer live cells than another, or as many and no higher open stamp (R94(2)). -/
def SegRec.lessLive (a b : SegRec) : Bool :=
  decide (a.live < b.live) || (a.live == b.live && decide (a.openStamp.getD 0 ≤ b.openStamp.getD 0))

/-- The FULL segments. -/
def fullSegs (s : State) : List (Nat × SegRec) := s.segs.filter (fun p => p.2.state == .full)

/-- The wear-spread check (R42): when the spread exceeds 2,000, the FULL segment with the lowest erase count and number
is queued with WEAR, unless it is already a member. It does not run during FORMAT (R43), and so not for a victim that FORMAT
lets come to its end (DEDUCED, assumption 55). -/
def wearSpreadCheck (s : State) : State :=
  if s.startup.mode = .formatting then s
  else match leastBy SegRec.lessWorn (fullSegs s) with
    | none => s
    | some (g, r) =>
      if Config.wearLimit < highestWear s - r.eraseCount ∧ r.reason = none then refreshArrival g .wear s else s

/-- A record that becomes FREE after its erase and header (R40(2)). -/
def SegRec.freed (r : SegRec) : SegRec :=
  { r with
    state := .free, openStamp := none, lowestSeq := none, live := 0, worst := .bits 0, cause := none }

/-- A segment becomes FREE: the free count rises, the no-gain mark is cleared and the wear-spread check runs (R40(2),
R106(3), R42). -/
def segmentFreed (g : Nat) (s : State) : State :=
  wearSpreadCheck (modComp (fun c => { c with noGain := false }) (freeCountRises (modSeg g SegRec.freed s)))

/-! ## Choosing a victim (5.3) -/

/-- A stream has a page destined for the segment that is not programmed (R89). -/
def hasPendingPage (g : Nat) (s : State) : Bool :=
  [s.host, s.reloc].any (fun st => match st.inFlight with
    | some f => f.seg == g
    | none => false)

/-- A member of the Refresh Queue is eligible: FULL, with no stream page pending for it (R89). -/
def eligible (s : State) (g : Nat) : Bool := segState g s == some .full && !hasPendingPage g s

/-- The first eligible member, the urgent part first (R94(1)). -/
def firstMember (s : State) : Option Nat := (s.urgent ++ s.ordinary).find? (eligible s)

/-- The segment taken for space: FULL, no member, no page pending, the fewest live cells, then the lowest open stamp; it
passes the gain test at 720 or fewer (R94(2)). Among equals in both, the lowest segment number is taken (DESIGN CHOICE,
assumption 44). -/
def gainVictim (s : State) : Option Nat :=
  match leastBy SegRec.lessLive
      ((fullSegs s).filter (fun p => p.2.reason.isNone && !hasPendingPage p.1 s)) with
  | none => none
  | some (g, r) => if r.live ≤ Config.gainLimit then some g else none

/-- An evacuation may begin: the victim is empty, a segment is FREE, or the RELOCATE stream has one open (R95). -/
def canBegin (g : Nat) (s : State) : Bool :=
  decide (((segAt g s).map SegRec.live).getD 0 = 0) || (leastWornFree s.segs).isSome || s.reloc.openSeg.isSome

/-- The Patrol Unit's waiting claim is withdrawn when the segment it names leaves FULL (R123(1)). -/
def withdrawPatrolOf (g : Nat) (s : State) : State :=
  { s with arr := s.arr.withdraw .patrol (fun c => match c.op with
    | .read h _ => h == g
    | _ => false) }

/-- The chosen victim becomes EVACUATING and its context is set (R95, R38). A victim that cannot begin stays FULL and the
engine acts as on abandonment (R95, R107(2)). -/
def beginEvacuation (g : Nat) (s : State) : State :=
  if canBegin g s then
    withdrawPatrolOf g (modComp (fun c => { c with
      running := true, victim := some ⟨g, .reading, 1, [], false⟩ })
      (modSeg g (fun r => { r with state := .evacuating }) s))
  else reportCause .noSpaceForRelocation (endRun s)

/-- A run's end with no gain answers the held request MEDIA_FULL (R105(2)). Only when the low-free condition has ended in
the same change, so that the HOST stream's ask is granted, does the request stay held, to proceed under R105(1) (DEDUCED,
assumption 26). -/
def heldMediaFull (s : State) : State :=
  if (openSegment .host false s).isSome then s else answerHeld .mediaFull s

/-- A run ends with no gain: the held request is answered MEDIA_FULL, every COMPACT NO_GAIN, and the no-gain mark is set
(R92(3), R105(2), R106). -/
def endNoGain (s : State) : State :=
  modComp (fun c => { c with noGain := true }) (answerCompacts .noGain (heldMediaFull (endRun s)))

/-- The decision whether a run goes on (R92); also made when a run starts (R91). Outside READY the engine goes IDLE
(R109). -/
def runDecision (s : State) : State :=
  if s.startup.mode ≠ .ready then endRun s
  else match firstMember s with
    | some g => beginEvacuation g s
    | none =>
      if s.params.compactStop ≤ s.freeCount ∧ s.comp.compacts.all (fun c => decide (c.target ≤ s.freeCount)) then
        endRun s
      else match gainVictim s with
        | some g => beginEvacuation g s
        | none => endNoGain s

/-- The start condition (R91). -/
def startDue (s : State) : Bool :=
  s.startup.mode == .ready && !s.comp.running &&
    ((firstMember s).isSome || (decide (s.freeCount < s.params.compactStart) && !s.comp.noGain) ||
      !s.comp.compacts.isEmpty)

/-- The start condition is tested; when it holds the run begins (R91). -/
def startTest (s : State) : State := if startDue s then runDecision s else s

/-! ## Copying (5.4.2 to 5.4.4) -/

/-- What handling one entry of the victim comes to. -/
inductive Handled where
  /-- Placed, dropped or skipped. -/
  | done (s : State)
  /-- The copy waits for room (R98). -/
  | waits (s : State)
  /-- The copy found no segment and the evacuation is abandoned (R107(1)). -/
  | stopped (s : State)

/-- The evacuation is abandoned because a copy finds no segment (R107(1)). -/
def abandonForSpace (s : State) : State := reportCause .noSpaceForRelocation (abandonEvacuation s)

/-- A copy is handed to the Write Path (R98, R49, R50). -/
def handCopy (e : Entry) (source : Loc) (s : State) : Handled :=
  match roomFor .relocate (Entry.cells e) s with
  | .ready t => .done (placeCopy e source t)
  | .full => .waits (endBuffer .relocate (.copy e source) s)
  | .noSegment => .stopped (abandonForSpace s)

/-- The sequence a stream's waiting entry carries; a HOST entry has none while it waits (R47). -/
def waitingSeqs (st : Stream) : List Nat :=
  match st.waiting with
  | some (.copy e _) => (Entry.seq? e).toList
  | _ => []

/-- The sequences of the entries in both streams' buffers, in-flight pages and waiting entries (R99(2)). -/
def streamSeqs (s : State) : List Nat :=
  seqsOf s.host.pendingEntries ++ waitingSeqs s.host ++ seqsOf s.reloc.pendingEntries ++ waitingSeqs s.reloc

/-- The lowest sequences of every other segment that holds entries (R99(1)). -/
def otherLowest (g : Nat) (s : State) : List Nat :=
  (s.segs.filter (fun p => p.1 != g)).filterMap (fun p => p.2.lowestSeq)

/-- The drop test of a tombstone (R99). -/
def dropTest (victim seq : Nat) (s : State) : Bool :=
  (otherLowest victim s).all (fun q => decide (seq < q)) && (streamSeqs s).all (fun q => decide (seq < q))

/-- The index entry of a key is removed when it is TOMBSTONE with the sequence and location (R13). -/
def dropTombstone (k : Key) (seq : Nat) (loc : Loc) (s : State) : State :=
  match lookup k s with
  | some (.tombstone q l _) => if q = seq ∧ l = loc then changeEntry k none s else s
  | _ => s

/-- A current tombstone is dropped or copied (R99). -/
def handTombstone (k : Key) (seq : Nat) (loc : Loc) (s : State) : Handled :=
  if dropTest loc.seg seq s then .done (dropTombstone k seq loc s)
  else handCopy (.tombstone k seq) loc s

/-- The key and sequence of the TOMBSTONE index entry at a location (R97(2)). -/
def tombstoneAt (loc : Loc) (s : State) : Option (Key × Nat) :=
  s.index.findSome? (fun p => match p.2 with
    | .tombstone q l _ => if l = loc then some (Key.ofCode p.1, q) else none
    | _ => none)

/-- One entry of the victim is handled (R97, R100). -/
def handleItem (i : CopyItem) (s : State) : Handled :=
  match i with
  | .entry loc e =>
    if copyHolds e loc s then
      match e with
      | .record .. => handCopy e loc s
      | .tombstone k q => handTombstone k q loc s
      | .pad => .done s
    else .done s
  | .unreadable loc =>
    match tombstoneAt loc s with
    | some (k, q) => handTombstone k q loc s
    | none => .done s
  | .sweep k =>
    match lookup k s, s.comp.victim with
    | some (.tombstone q loc _), some v => if loc.seg = v.seg then handTombstone k q loc s else .done s
    | some (.live q _ _ loc _), some v => if loc.seg = v.seg then .done (markLost k q loc s) else .done s
    | _, _ => .done s

/-- A page has been handled, or the sweep: back to READING (R98), or on to DRAINING with the commit of the RELOCATE
buffer asked for (R101). -/
def pageHandled (s : State) : State :=
  match s.comp.victim with
  | none => s
  | some v =>
    if v.sweeping then commitCause .relocate (modVictim (fun v => { v with phase := .draining, todo := [] }) s)
    else modVictim (fun v => { v with phase := .reading, todo := [] }) s

/-- The entries still to handle are handled one at a time until one waits, the evacuation is abandoned, or none is left
(R98). -/
def copyLoop : List CopyItem → State → State
  | [], s => pageHandled s
  | i :: rest, s =>
    match handleItem i s with
    | .done t => copyLoop rest t
    | .waits t => modVictim (fun v => { v with todo := rest }) t
    | .stopped t => t

/-- The final sweep begins: every index entry still located in the victim, in key order (R100). Its phase is COPYING, with
a mark that it is the sweep (DESIGN CHOICE, assumption 52). -/
def beginSweep (g : Nat) (s : State) : State :=
  let items := (s.index.filter (fun p => p.2.inSeg g)).map (fun p => CopyItem.sweep (Key.ofCode p.1))
  copyLoop items (modVictim (fun v => { v with phase := .copying, sweeping := true, nextPage := 48, todo := [] }) s)

/-- The entries of a page read from the victim, by the entry starts of its trailer (R97). An entry whose header or value
check does not match is not taken here (DEDUCED, assumption 23). -/
def itemsOf (g page : Nat) (w : Written) : List CopyItem :=
  match w.trailer with
  | none => []
  | some t => t.starts.filterMap (fun cell =>
      match Codewords.countAt w.codewords (codewordOf cell) with
      | none => some (.unreadable ⟨g, page, cell⟩)
      | some _ =>
        if cell ∈ w.mismatch then none
        else (w.entryAt cell).map (fun e => CopyItem.entry ⟨g, page, cell⟩ e))

/-- The live cells of a segment. -/
def liveOf (g : Nat) (s : State) : Nat := ((segAt g s).map SegRec.live).getD 0

/-- The outcome of the engine's read reaches it (R96, R97, R100). It is discarded when the victim's live cells have
reached 0 or the evacuation is over. -/
def engineRead (g page : Nat) (o : ReadOutcome) (s : State) : State :=
  match s.comp.victim with
  | none => s
  | some v =>
    if v.seg ≠ g ∨ v.phase ≠ .reading ∨ v.nextPage ≠ page ∨ liveOf g s = 0 then s
    else match o with
      | .blank => modVictim (fun v => { v with nextPage := 48 }) s
      | .written w =>
        let t := if w.trailer.isNone then refreshArrival g .uncorrectable s else s
        copyLoop (itemsOf g page w) (modVictim (fun v => { v with phase := .copying, nextPage := page + 1 }) t)

/-- An engine claim waits, in the RELOCATE place or outside it. -/
def engineClaims (s : State) : Bool :=
  (s.arr.relPlace.toList ++ s.arr.outside).any (fun c => c.origin == .compaction)

/-- The read of the victim's next page runs. -/
def engineReads (v : Victim) (s : State) : Bool :=
  match s.arr.op with
  | some (.read r) => r.origin == .compaction && r.seg == v.seg && r.page == v.nextPage
  | _ => false

/-- An erase of the engine runs or is suspended. -/
def engineErases (s : State) : Bool :=
  (match s.arr.op with
  | some (.erase e) => e.origin == .compaction
  | _ => false) ||
  (match s.arr.suspended with
  | some e => e.origin == .compaction
  | none => false)

/-- In READING: the final sweep begins when the live cells are 0 or no page is left to read; a waiting read is withdrawn
for it, and the outcome of one already granted is discarded when it comes (R96). Otherwise the next page is claimed
unless PFW pauses the engine (R108). -/
def readingTest (v : Victim) (s : State) : State :=
  if liveOf v.seg s = 0 ∨ Config.lastPage < v.nextPage then
    beginSweep v.seg (withdrawOf .relocate .compaction s)
  else if engineReads v s ∨ engineClaims s ∨ s.comp.paused then s
  else makeClaim .relocate .compaction (.read v.seg v.nextPage) s

/-- In ERASING: the erase is claimed unless PFW pauses the engine (R104, R108(2)). -/
def erasingTest (v : Victim) (s : State) : State :=
  if engineErases s ∨ engineClaims s ∨ s.comp.paused then s
  else makeClaim .relocate .compaction (.erase v.seg) s

/-- What the engine does next with its victim (R96, R104, R108). -/
def engineTest (s : State) : State :=
  match s.comp.victim with
  | none => s
  | some v =>
    match v.phase with
    | .reading => readingTest v s
    | .erasing => erasingTest v s
    | _ => s

/-! ## Fates (5.5) -/

/-- The evacuation has ended: DRAINING, the victim's live cells are 0 and the RELOCATE stream holds no pending entry
(R101). -/
def evacuationEnded (v : Victim) (s : State) : Bool :=
  v.phase == .draining && decide (liveOf v.seg s = 0) && s.reloc.buffer.isEmpty && s.reloc.inFlight.isNone &&
    s.reloc.waiting.isNone

/-- The condemn cause of a victim by its reason and its strike count before the decision (Table 5-4); absent for the fate
erase. -/
def fateOf (reason : Option RefreshReason) (strikes : Nat) : Option CondemnCause :=
  match reason with
  | none => none
  | some .wear => none
  | some .threshold => if Config.strikeLimit ≤ strikes + 1 then some .strikes else none
  | some .uncorrectable => some .uncorrectable
  | some .programFault => some .programFault

/-- The strike count after the decision (Table 5-4, R103). -/
def strikesAfter (reason : Option RefreshReason) (strikes : Nat) : Nat :=
  match reason with
  | some .threshold => strikes + 1
  | _ => strikes

/-- A segment becomes CONDEMNED and is reported to the Catalogue Writer (R39(2), R40(3), R104). -/
def condemn (g : Nat) (c : CondemnCause) (s : State) : State :=
  reportCondemned g (modSeg g (fun r => { r with state := .condemned, live := 0, cause := some c }) s)

/-- A fate has ended: there is no victim, and the run goes on or ends (R92, R104). -/
def fateEnded (s : State) : State := runDecision s

/-- The fate of a victim whose evacuation has ended (R102, R39): it leaves the Refresh Queue and becomes ERASING or
CONDEMNED. -/
def decideFate (v : Victim) (s : State) : State :=
  match segAt v.seg s with
  | none => s
  | some r =>
    let t := modSeg v.seg (fun r' => { r' with strikes := strikesAfter r.reason r.strikes }) (leaveQueue v.seg s)
    match fateOf r.reason r.strikes with
    | none =>
      modVictim (fun v => { v with phase := .erasing })
        (modSeg v.seg (fun r => { r with state := .erasing, live := 0 }) t)
    | some c => fateEnded (condemn v.seg c (modComp (fun c => { c with victim := none }) t))

/-- The erase count after a completed erase (R40(1)). -/
def erasedCount (n : Nat) : Nat := min (n + 1) Config.eraseCap

/-- The victim's erase completes OK: the erase count rises and the header is claimed (R40(1), R104(1)). -/
def engineErasedOk (v : Victim) (s : State) : State :=
  let t := modSeg v.seg (fun r => { r with eraseCount := erasedCount r.eraseCount }) s
  match segAt v.seg t with
  | none => t
  | some r =>
    makeClaim .relocate .compaction
      (.program v.seg 0 (segHeader r.eraseCount r.strikes s.cat.formatStamp))
      (modVictim (fun v => { v with phase := .header }) t)

/-- The victim's erase or header fails: CONDEMNED with cause ERASE_FAULT, and the fate ends (R40(3), R104(3)). -/
def engineEraseFault (v : Victim) (s : State) : State :=
  fateEnded (condemn v.seg .eraseFault (modComp (fun c => { c with victim := none }) s))

/-- The engine's erase ends (R104). -/
def engineErased (ok : Bool) (s : State) : State :=
  match s.comp.victim with
  | none => s
  | some v => if ok then engineErasedOk v s else engineEraseFault v s

/-- The engine's header program ends (R104(2), (3)). -/
def engineHeader (ok : Bool) (s : State) : State :=
  match s.comp.victim with
  | none => s
  | some v =>
    if ok then fateEnded (segmentFreed v.seg (modComp (fun c => { c with victim := none }) s))
    else engineEraseFault v s

end Sys2Proof.Machine
end

