-- ==== Sys2Proof/Machine/HealthUnit.lean ====
section
/-! DEFINITION. Machine/HealthUnit.lean: how Health handles a read outcome (chapter 6). -/

namespace Sys2Proof.Machine

/-- The worse of two outcomes; UNCORRECTABLE is above every corrected count (R28). -/
def Health.worse : Health → Health → Health
  | .uncorrectable, _ => .uncorrectable
  | _, .uncorrectable => .uncorrectable
  | .bits a, .bits b => .bits (max a b)

/-- The classes of Table 6-1, in rising order (R111). -/
inductive CodewordClass where
  | clean
  | corrected
  | marginal
  | uncorrectable
  deriving DecidableEq, Repr

/-- The class of a codeword under a threshold (R111); `none` is an UNCORRECTABLE count. -/
def classify (threshold : Nat) (count : Option Nat) : CodewordClass :=
  match count with
  | none => .uncorrectable
  | some n =>
    if 12 < n then .uncorrectable
    else if n = 0 then .clean
    else if n < threshold then .corrected
    else .marginal

/-- A codeword of the read is MARGINAL. -/
def Written.hasMarginal (threshold : Nat) (w : Written) : Bool :=
  (Codewords.counts w.codewords).any (fun c => classify threshold c == .marginal)

/-- A codeword of the read is UNCORRECTABLE. -/
def Written.hasUncorrectable (w : Written) : Bool := !Codewords.allReadable w.codewords

/-- The entry header at a first cell names the RECORD expected, and its value check matches (R115(2), (3)). -/
def Written.recordMatches (w : Written) (k : Key) (seq len : Nat) (loc : Loc) : Bool :=
  match w.entryAt loc.cell with
  | some (.record k' q l _ _) => k' == k && q == seq && l == len && !(w.mismatch.contains loc.cell)
  | _ => false

/-- A RECORD is readable in a read (R115). -/
def Written.recordReadable (w : Written) (k : Key) (seq len : Nat) (loc : Loc) (cells : Nat) : Bool :=
  w.cellsReadable loc.cell cells && w.recordMatches k seq len loc

/-- A record has a value check mismatch: its codewords were corrected and its header or value check fails (R115). -/
def Written.recordMismatch (w : Written) (k : Key) (seq len : Nat) (loc : Loc) (cells : Nat) : Bool :=
  w.cellsReadable loc.cell cells && !w.recordMatches k seq len loc

/-- A LIVE record located in a page, programmed: what Health judges (R114(3)). -/
structure Judged where
  key : Key
  seq : Nat
  len : Nat
  loc : Loc
  cells : Nat
  deriving DecidableEq, Repr

/-- The LIVE programmed index entries located in a page, in ascending order of first cell (R114(3)). -/
def judgedIn (seg page : Nat) (s : State) : List Judged :=
  Store.sortBy (fun j => j.loc.cell) (s.index.filterMap (fun p => match p.2 with
    | .live seq len cells loc true =>
      if loc.seg = seg ∧ loc.page = page then some ⟨Key.ofCode p.1, seq, len, loc, cells⟩ else none
    | _ => none))

/-- The record judged is readable in the outcome; none is in a blank page (R115, R118(1)). -/
def Judged.readable (o : ReadOutcome) (j : Judged) : Bool :=
  match o with
  | .blank => false
  | .written w => w.recordReadable j.key j.seq j.len j.loc j.cells

/-- The record judged has a value check mismatch. -/
def Judged.mismatch (w : Written) (j : Judged) : Bool := w.recordMismatch j.key j.seq j.len j.loc j.cells

/-- The record a GET's read was granted for, as it is judged (R114(3)). -/
def GetTaken.judged (g : GetTaken) : Judged := ⟨g.key, g.seq, g.len, g.loc, g.cells⟩

/-- Each judged record that is unreadable is marked LOST and announced (R116). -/
def markUnreadable (o : ReadOutcome) (js : List Judged) (s : State) : State :=
  (js.filter (fun j => !j.readable o)).foldl (fun t j => markLost j.key j.seq j.loc t) s

/-- The refresh reason a written read brings (R117). -/
def arrivalOf (threshold : Nat) (w : Written) (js : List Judged) : Option RefreshReason :=
  if w.hasUncorrectable ∨ w.trailer.isNone ∨ js.any (fun j => j.mismatch w) then some .uncorrectable
  else if w.hasMarginal threshold then some .threshold
  else none

/-- A LIVE or TOMBSTONE index entry is located in a page, pending ones counted (R118(1); DEDUCED, assumption 17). -/
def pageHasEntry (seg page : Nat) (s : State) : Bool := s.index.any (fun p => p.2.inPage seg page)

/-- The refresh reason an outcome brings: R117 for a written one, R118(1) for a blank one. -/
def outcomeArrival (seg page : Nat) (o : ReadOutcome) (js : List Judged) (s : State) : Option RefreshReason :=
  match o with
  | .blank => if pageHasEntry seg page s then some .uncorrectable else none
  | .written w => arrivalOf s.params.threshold w js

/-- The worst health of a segment takes in an outcome, whatever its state (DEDUCED, assumption 53); a blank one leaves it
(R28, R114(2), R118). In MOUNTING it is kept in the marks of the scan (DEDUCED, assumption 18). -/
def raiseWorst (seg : Nat) (o : ReadOutcome) (s : State) : State :=
  match o with
  | .blank => s
  | .written w => modSeg seg (fun r => { r with worst := Health.worse r.worst (Codewords.worst w.codewords) }) s

/-- A refresh arrival, if any. -/
def arriveOpt (g : Nat) (r : Option RefreshReason) (s : State) : State :=
  match r with
  | none => s
  | some r => refreshArrival g r s

/-- Full handling of a data segment's outcome in READY and READ_ONLY (R114, R118). -/
def healthFull (run : ReadRun) (o : ReadOutcome) (s : State) : State :=
  let js := judgedIn run.seg run.page s
  let all := js ++ (run.get.map GetTaken.judged).toList
  arriveOpt run.seg (outcomeArrival run.seg run.page o all s) (markUnreadable o js (raiseWorst run.seg o s))

/-- Health handles a read outcome by segment and mode (R113): nothing is kept for a system segment, only the worst health
in MOUNTING and FORMATTING, everything in READY and READ_ONLY. A blank outcome passes through it as R118(1) says, though
R80(1) says that it skips Health (DEDUCED, assumption 43). -/
def healthHandles (run : ReadRun) (o : ReadOutcome) (s : State) : State :=
  if run.seg < Config.firstData then s
  else match s.startup.mode with
    | .ready | .readOnly => healthFull run o s
    | _ => raiseWorst run.seg o s

/-- A lowered health threshold queues with THRESHOLD every OPEN, FULL or EVACUATING segment whose worst health is a
corrected count at or above it, in ascending order (R112). -/
def thresholdLowered (new : Nat) (s : State) : State :=
  (s.segs.filter (fun p => match p.2.worst with
    | .bits n => decide (new ≤ n)
    | .uncorrectable => false)).foldl (fun t p => refreshArrival p.1 .threshold t) s

end Sys2Proof.Machine
end

