-- ==== Sys2Proof/Machine/MountUnit.lean ====
section
/-! DEFINITION. Machine/MountUnit.lean: the five phases of mount (9.3). -/

namespace Sys2Proof.Machine

/-- Changes the mount progress. -/
def modMount (f : Mount → Mount) (s : State) : State :=
  { s with startup := { s.startup with mount := s.startup.mount.map f } }

/-- The Start-up Controller claims a page read (R159). -/
def startupRead (seg page : Nat) (s : State) : State := makeClaim .catalogue .startup (.read seg page) s

/-- Mount begins its CATALOGUE phase with page 0 of mirror A (R158, R160). -/
def mountBegins (s : State) : State :=
  startupRead 0 0 { s with startup := { s.startup with mode := .mounting, mount := some Mount.start } }

/-! ## Catalogue phase (R143, R153, R160) -/

/-- The numbers of a list ascend strictly. -/
def ascending : List Nat → Bool
  | a :: b :: rest => decide (a < b) && ascending (b :: rest)
  | _ => true

/-- The fields of a snapshot are well formed (R143(4)). -/
def Snapshot.wellFormed (n : Snapshot) : Bool :=
  decide (1 ≤ n.gen) && ascending n.retired && decide (n.retired.length ≤ Config.retiredCapacity) &&
    n.retired.all (fun g => decide (Config.firstData ≤ g) && decide (g < Config.segments))

/-- The valid snapshot a mirror page holds (R143). -/
def validSnapshot (o : ReadOutcome) : Option Snapshot :=
  match o with
  | .blank => none
  | .written w =>
    if w.ownCheck then
      match w.data with
      | some (.snapshot n) => if Snapshot.wellFormed n then some n else none
      | _ => none
    else none

/-- The erase count of a readable mirror header (R153(4)). -/
def mirrorHeaderCount (o : ReadOutcome) : Option Nat :=
  match o with
  | .blank => none
  | .written w =>
    if w.ownCheck then
      match w.data with
      | some (.mirrorHeader _ n _) => some n
      | _ => none
    else none

/-- An outcome has a MARGINAL codeword. -/
def ReadOutcome.marginal (threshold : Nat) : ReadOutcome → Bool
  | .blank => false
  | .written w => w.hasMarginal threshold

/-- What a mirror page adds to the scan of its mirror (R160). -/
def MirrorScan.take (threshold page : Nat) (o : ReadOutcome) (m : MirrorScan) : MirrorScan :=
  if page = 0 then { m with eraseCount := mirrorHeaderCount o }
  else { m with
    top := if o = .blank then m.top else page
    found := match validSnapshot o with
      | some n => ⟨n, o.marginal threshold⟩ :: m.found
      | none => m.found }

/-- The outcome is kept in the scan of the mirror read. -/
def takeMirrorPage (seg page : Nat) (o : ReadOutcome) (s : State) : State :=
  let t := s.params.threshold
  modMount (fun m =>
    if seg = 0 then { m with scanA := m.scanA.take t page o } else { m with scanB := m.scanB.take t page o }) s

/-- The highest generation among the snapshots found. -/
def newestGen (m : Mount) : Option Nat :=
  highestOf ((m.scanA.found ++ m.scanB.found).map (fun f => f.snap.gen))

/-- The copy of a generation a mirror holds, the one at its highest page (R143, R153(6); DEDUCED, assumption 28). -/
def MirrorScan.copyOf (gen : Nat) (m : MirrorScan) : Option FoundSnapshot :=
  m.found.find? (fun f => f.snap.gen == gen)

/-- The mirror that becomes current (R153(2)). -/
def currentMirror (gen : Nat) (m : Mount) : Mirror :=
  match m.scanA.copyOf gen, m.scanB.copyOf gen with
  | some _, none => .a
  | none, _ => .b
  | some _, some _ =>
    if m.scanA.top < m.scanB.top then .a
    else if m.scanB.top < m.scanA.top then .b
    else if Config.mirrorTie then .a else .b

/-- The scan of a mirror. -/
def Mount.scanOf (m : Mount) : Mirror → MirrorScan
  | .a => m.scanA
  | .b => m.scanB

/-- The erase count a mirror gets at mount (R153(4)). -/
def mirrorCount (m : Mount) (which : Mirror) : Nat :=
  match (m.scanOf which).eraseCount with
  | some n => n
  | none => ((m.scanOf (Mirror.other which)).eraseCount).getD 0

/-- The page after the highest non-blank one, or none when page 47 is non-blank (R153(3)). -/
def pageAfter (top : Nat) : Option Nat := if top < Config.lastPage then some (top + 1) else none

/-- The writer's state set from the newest valid snapshot (R153). -/
def writerFrom (m : Mount) (gen : Nat) (copy : FoundSnapshot) : Catalogue where
  current := currentMirror gen m
  nextPage := pageAfter (m.scanOf (currentMirror gen m)).top
  completed := gen
  begun := gen
  write := none
  dirty := copy.marginal
  waiters := []
  retired := copy.snap.retired
  formatStamp := copy.snap.stamp
  completedStamp := copy.snap.stamp
  failures := 0
  failed := false
  mirrorA := ⟨mirrorCount m .a, none⟩
  mirrorB := ⟨mirrorCount m .b, none⟩

/-- The writer's state when no snapshot is valid (R153). -/
def writerUnformatted (m : Mount) : Catalogue :=
  { Catalogue.empty with mirrorA := ⟨mirrorCount m .a, none⟩, mirrorB := ⟨mirrorCount m .b, none⟩ }

/-- A space record as mount takes it from a snapshot (R140). -/
def SpaceFields.record (f : SpaceFields) : SpaceRec where
  policy := f.policy
  pinGuard := f.pinGuard
  frozen := false
  quota := f.quota
  usage := 0
  keyCount := 0
  clearSeq := f.clearSeq

/-- Numbers a list from 0. -/
def numbered {α : Type} (l : List α) : List (Nat × α) := (List.range l.length).zip l

/-- The part holds no store: mode UNFORMATTED, and a MOUNTED notice with 0 for every count (R160(2)). The part is not in
the low-free condition (DESIGN CHOICE, assumption 41). -/
def mountUnformatted (m : Mount) (s : State) : State :=
  queueNotice (.mounted .unformatted 0 0 0 0) { s with
    cat := writerUnformatted m
    startup := { s.startup with mode := .unformatted, mount := none } }

/-! ## States and finish phases (R165 to R168) -/

/-- A record mount makes for a segment it erases: no open stamp and no lowest sequence (Table 9-5, R166; DEDUCED,
assumption 22). -/
def mountRecord (st : SegState) (e : EraseMark) (worst : Health) (c : Option CondemnCause) : SegRec where
  state := st
  stream := none
  eraseCount := e.eraseCount
  strikes := e.strikes
  openStamp := none
  nextPage := none
  live := 0
  lowestSeq := none
  worst := worst
  reason := none
  cause := c

/-- One more than a highest sequence; past 2^48 - 1 a free value (R45, assumption 5). -/
def seqAfter (highest : Nat) (s : State) : State :=
  if highest + 1 < Config.seqBound then { s with nextSeq := some (highest + 1) }
  else { s with nextSeq := some (drawnSeq s.freeDraws), freeDraws := s.freeDraws + 1 }

/-- The highest clear sequence of the spaces. -/
def highestClear (s : State) : Nat := (highestOf (s.spaces.map (fun p => p.2.clearSeq))).getD 0

/-- The next sequence after mount (R45(2)). -/
def setNextSeq (highest : Nat) (s : State) : State :=
  if highest < highestClear s then { s with nextSeq := some (highestClear s) } else seqAfter highest s

/-- A usage above the quota raises the quota to it (R167(4)). -/
def raiseQuota (r : SpaceRec) : SpaceRec :=
  match r.quota with
  | none => r
  | some q => if q < r.usage then { r with quota := some r.usage } else r

/-- Quotas are raised to the usages, and a raise marks the catalogue dirty (R167(4)). -/
def raiseQuotas (s : State) : State :=
  let raised := s.spaces.any (fun p => raiseQuota p.2 != p.2)
  { s with
    spaces := Store.mapVals (fun _ r => raiseQuota r) s.spaces
    cat := { s.cat with dirty := s.cat.dirty || raised } }

/-- Number of FREE records. -/
def countFree (s : State) : Nat := (s.segs.filter (fun p => p.2.state == .free)).length

/-- The highest open stamp found in a trailer of the scan or in a segment record (R33; R167(2) names no records, DEDUCED,
assumption 47). -/
def highestStampOf (m : Mount) (s : State) : Nat :=
  max m.highestStamp ((highestOf (s.segs.filterMap (fun p => p.2.openStamp))).getD 0)

/-- The open stamp counter after mount: one more than the highest stamp found, 1 when none is found (R33). -/
def mountStamp (m : Mount) (s : State) : Option Nat :=
  if highestStampOf m s = 0 then some 1 else stampAfter (highestStampOf m s)

/-- Mount sets the counters and the quotas (R167). -/
def setCounters (m : Mount) (s : State) : State :=
  let t := setNextSeq m.highestSeq s
  raiseQuotas { t with
    nextStamp := mountStamp m s
    freeCount := countFree s }

/-- The low-free condition is entered at the end of mount or FORMAT when the free count is 4 or less and the part is not
already in it, and left when the count is 5 or more (R30, R43, R168(a)). -/
def settleLowFree (s : State) : State :=
  if s.freeCount ≤ Config.hostReserve then
    if s.lowFree then s else queueNotice (.spaceLow s.freeCount) { s with lowFree := true }
  else { s with lowFree := false }

/-- The mode in which mount ends. -/
def mountMode (s : State) : Mode :=
  match s.startup.pendingCause with
  | none => .ready
  | some _ => .readOnly

/-- The mode becomes READY, or READ_ONLY with its MODE_CHANGED notice (R168, R156). -/
def mountEnds (s : State) : State :=
  let t := { s with startup := { s.startup with mount := none, pendingCause := none } }
  match s.startup.pendingCause with
  | none => { t with startup := { t.startup with mode := .ready } }
  | some c => enterReadOnly c t

/-- FINISH: the counters, the mode with its MOUNTED notice, the low-free condition and the wear-spread check (R167,
R168(a), (b)). The catalogue and the start condition are tested when the step ends (R168(c), (d)). -/
def mountFinish (m : Mount) (s : State) : State :=
  let t := setCounters m s
  wearSpreadCheck (settleLowFree (mountEnds
    (queueNotice (.mounted (mountMode t) t.index.length m.torn m.damaged m.unreadable) t)))

/-- The next segment marked for erasing is taken, or mount finishes (R166). -/
def eraseNext (s : State) : State :=
  match s.startup.mount with
  | none => s
  | some m =>
    match m.toErase with
    | [] => mountFinish m s
    | e :: _ =>
      makeClaim .catalogue .startup (.erase e.seg)
        { s with segs := Store.put e.seg (mountRecord .erasing e e.worst none) s.segs }

/-- The segment in hand has been made FREE or CONDEMNED. -/
def eraseTaken (s : State) : State := eraseNext (modMount (fun m => { m with toErase := m.toErase.tail }) s)

/-- The erase or the header of a segment fails at mount (R166(2)). -/
def mountEraseFault (e : EraseMark) (s : State) : State :=
  eraseTaken (reportCondemned e.seg
    { s with segs := Store.put e.seg (mountRecord .condemned e e.worst (some .eraseFault)) s.segs })

/-- The erase of a segment ends at mount (R166). -/
def mountErased (ok : Bool) (m : Mount) (s : State) : State :=
  match m.toErase with
  | [] => s
  | e :: _ =>
    if ok then
      makeClaim .catalogue .startup (.program e.seg 0 (segHeader e.eraseCount e.strikes s.cat.formatStamp)) s
    else mountEraseFault e s

/-- The header of a segment ends at mount (R166). -/
def mountHeader (ok : Bool) (m : Mount) (s : State) : State :=
  match m.toErase with
  | [] => s
  | e :: _ =>
    if ok then
      eraseTaken { s with segs := Store.put e.seg (mountRecord .free e (.bits 0) none) s.segs }
    else mountEraseFault e s

/-! ## Build phase (R163, R164) -/

/-- A candidate counts: its sequence is not below the clear sequence of its space (R139, R163(1)). -/
def Candidate.counts (s : State) (c : Candidate) : Bool := decide ((spaceAt c.key.space s).clearSeq ≤ c.seq)

/-- One candidate of a key beats another: higher sequence, then open stamp, then page, then first cell (R163(2)). -/
def Candidate.beats (a b : Candidate) : Bool :=
  if a.seq ≠ b.seq then decide (b.seq < a.seq)
  else if a.stamp ≠ b.stamp then decide (b.stamp < a.stamp)
  else if a.loc.page ≠ b.loc.page then decide (b.loc.page < a.loc.page)
  else decide (b.loc.cell < a.loc.cell)

/-- A candidate is ranked among the winners so far. Of two that are equal in all four, which lie in different segments,
the one taken first stays, which is the one in the lower segment (DESIGN CHOICE, assumption 46). -/
def takeCandidate (w : List (Nat × Candidate)) (c : Candidate) : List (Nat × Candidate) :=
  match Store.get (Key.code c.key) w with
  | none => Store.put (Key.code c.key) c w
  | some b => if c.beats b then Store.put (Key.code c.key) c w else w

/-- The winner of each key, in key order (R163(2)). -/
def winners (cs : List Candidate) : List (Nat × Candidate) := cs.foldl takeCandidate []

/-- The index entry of a winner (R163(3)). -/
def Candidate.entry (c : Candidate) : IndexEntry :=
  match c.len with
  | some len => .live c.seq len c.cells c.loc true
  | none => .tombstone c.seq c.loc true

/-- Adds up a list. -/
def total (l : List Nat) : Nat := l.foldl (· + ·) 0

/-- The usage of a space computed from the index (R129). -/
def usageIn (space : Nat) (index : List (Nat × IndexEntry)) : Nat :=
  total ((index.filter (fun p => (Key.ofCode p.1).space == space)).map (fun p => p.2.usage))

/-- The key count of a space computed from the index (R129). -/
def keysIn (space : Nat) (index : List (Nat × IndexEntry)) : Nat :=
  (index.filter (fun p => (Key.ofCode p.1).space == space && p.2.present)).length

/-- The live cells of a segment computed from the index (R26). -/
def liveIn (g : Nat) (index : List (Nat × IndexEntry)) : Nat :=
  total ((index.filter (fun p => p.2.inSeg g)).map (fun p => p.2.cells))

/-- The Record Index is made from the candidates, the first 16,384 keys in key order; more make INDEX_OVERFLOW the pending
cause (R163, R164). -/
def buildIndex (m : Mount) (s : State) : State :=
  let won := winners (m.candidates.filter (Candidate.counts s))
  let index := Store.mapVals (fun _ c => Candidate.entry c) (won.take Config.indexCapacity)
  let t := { s with
    index := index
    spaces := Store.mapVals (fun n r => { r with usage := usageIn n index, keyCount := keysIn n index }) s.spaces }
  if Config.indexCapacity < won.length then reportCause .indexOverflow t else t

/-! ## Records of the scan (R165) -/

/-- A segment is marked for erasing (R161). -/
def ScanMark.forErasing (k : ScanMark) : Bool :=
  match k.header with
  | .matching => false
  | .foreign => true
  | .blank => !k.hasPages
  | .unreadable => !k.hasPages

/-- The erase count and strike count of a scanned segment: its header's, or the highest known and 0 (R161). -/
def ScanMark.countsOf (highest : Nat) (k : ScanMark) : Nat × Nat :=
  match k.header with
  | .matching => (k.eraseCount, k.strikes)
  | .foreign => (k.eraseCount, k.strikes)
  | .blank => (highest, 0)
  | .unreadable => (highest, 0)

/-- The record of a scanned segment that is not marked for erasing (Table 9-5). -/
def recordOf (highest : Nat) (index : List (Nat × IndexEntry)) (g : Nat) (k : ScanMark) : SegRec where
  state := if k.hasPages then .full else .free
  stream := none
  eraseCount := (k.countsOf highest).1
  strikes := (k.countsOf highest).2
  openStamp := if k.hasPages then some (k.openStamp.getD 1) else none
  nextPage := none
  live := liveIn g index
  lowestSeq := if k.hasPages then some (k.lowestSeq.getD 1) else none
  worst := if k.hasPages then k.worst else .bits 0
  reason := if k.hasPages then k.reason else none
  cause := none

/-- The record of a segment in the retired list (Table 9-5). -/
def retiredRecord : SegRec where
  state := .retired
  stream := none
  eraseCount := 0
  strikes := 0
  openStamp := none
  nextPage := none
  live := 0
  lowestSeq := none
  worst := .bits 0
  reason := none
  cause := none

/-- The records mount makes at once (Table 9-5). -/
def scanRecords (m : Mount) (s : State) : List (Nat × SegRec) :=
  let kept := m.marks.filter (fun p => !p.2.forErasing)
  s.cat.retired.foldl (fun t g => Store.put g retiredRecord t)
    (Store.mapVals (fun g k => recordOf m.highestErase s.index g k) kept)

/-- The segments whose record has a reason. -/
def membersWith (r : RefreshReason) (segs : List (Nat × SegRec)) : List Nat :=
  (segs.filter (fun p => p.2.reason == some r)).map Prod.fst

/-- The segments marked for erasing, ascending, with the counts their headers will carry (R161, R166). -/
def eraseMarks (m : Mount) : List EraseMark :=
  (m.marks.filter (fun p => p.2.forErasing)).map (fun p =>
    ⟨p.1, (p.2.countsOf m.highestErase).1, (p.2.countsOf m.highestErase).2, p.2.worst⟩)

/-- BUILD and STATES: the index, the segment records and the Refresh Queue (R163 to R165), then the erases (R166). -/
def mountStates (s : State) : State :=
  match s.startup.mount with
  | none => s
  | some m =>
    let t := buildIndex m s
    let segs := scanRecords m t
    eraseNext (modMount (fun m => { m with phase := .states, toErase := eraseMarks m, marks := [], candidates := [] })
      { t with segs := segs, urgent := membersWith .uncorrectable segs, ordinary := membersWith .threshold segs })

/-! ## Scan phase (R161, R162) -/

/-- The next data segment from `g` on that is not retired. -/
def nextScanned (g : Nat) (s : State) : Option Nat :=
  Store.firstFrom (fun n => !(s.cat.retired.contains n)) (Config.segments - g) g

/-- The scan goes on to the header of the next segment, or ends (R161). -/
def scanFrom (g : Nat) (s : State) : State :=
  match nextScanned g s with
  | some n => startupRead n 0 (modMount (fun m => { m with phase := .scan, seg := n, page := 0, suspect := none }) s)
  | none => mountStates s

/-- The header case of a page 0 with the counts it gives (R161, R23). -/
def headerOf (stamp : Nat) (o : ReadOutcome) : HeaderCase × Nat × Nat :=
  match o with
  | .blank => (.blank, 0, 0)
  | .written w =>
    match w.ownCheck, w.data with
    | true, some (.segHeader count strikes st _) =>
      if st = stamp then (.matching, count, strikes) else (.foreign, erasedCount count, strikes)
    | _, _ => (.unreadable, 0, 0)

/-- The erase count a readable header shows (R161). -/
def headerCount (o : ReadOutcome) : Nat :=
  match o with
  | .blank => 0
  | .written w =>
    match w.ownCheck, w.data with
    | true, some (.segHeader count _ _ _) => count
    | _, _ => 0

/-- The worst health an outcome stands for. -/
def ReadOutcome.worst : ReadOutcome → Health
  | .blank => .bits 0
  | .written w => Codewords.worst w.codewords

/-- The mark a header leaves (R161). -/
def headerMark (stamp : Nat) (o : ReadOutcome) : ScanMark where
  header := (headerOf stamp o).1
  eraseCount := (headerOf stamp o).2.1
  strikes := (headerOf stamp o).2.2
  hasPages := false
  lowestSeq := none
  openStamp := none
  worst := o.worst
  reason := if (headerOf stamp o).1 = .unreadable then some .uncorrectable else none

/-- A data segment's header has been read (R161): the entry pages follow, but for a header of another format. -/
def scanHeader (g : Nat) (o : ReadOutcome) (s : State) : State :=
  let k := headerMark s.cat.formatStamp o
  let t := modMount (fun m => { m with
    marks := Store.put g k m.marks, highestErase := max m.highestErase (headerCount o) }) s
  if k.header = .foreign then scanFrom (g + 1) t
  else startupRead g 1 (modMount (fun m => { m with page := 1 }) t)

/-- The lower of two lowest sequences. -/
def minOpt : Option Nat → Option Nat → Option Nat
  | none, b => b
  | a, none => a
  | some a, some b => some (min a b)

/-- The higher of two numbers that may be absent. -/
def maxOpt : Option Nat → Option Nat → Option Nat
  | none, b => b
  | a, none => a
  | some a, some b => some (max a b)

/-- What any written entry page adds to its segment's mark: worst health, and from a readable trailer the lowest sequence
and the open stamp (R162). -/
def ScanMark.takePage (w : Written) (k : ScanMark) : ScanMark :=
  { k with
    hasPages := true
    worst := Health.worse k.worst (Codewords.worst w.codewords)
    lowestSeq := minOpt k.lowestSeq (w.trailer.bind Trailer.lowest)
    openStamp := maxOpt k.openStamp (w.trailer.map Trailer.stamp) }

/-- A MARGINAL page marks the segment THRESHOLD unless it is already marked UNCORRECTABLE (R162). -/
def ScanMark.markMarginal (threshold : Nat) (w : Written) (k : ScanMark) : ScanMark :=
  if w.hasMarginal threshold ∧ k.reason = none then { k with reason := some .threshold } else k

/-- A written entry page is taken into the progress (R162). -/
def Mount.takePage (g : Nat) (w : Written) (m : Mount) : Mount :=
  { m with
    marks := Store.modify g (ScanMark.takePage w) m.marks
    highestSeq := max m.highestSeq ((w.trailer.bind Trailer.highest).getD 0)
    highestStamp := max m.highestStamp ((w.trailer.map Trailer.stamp).getD 0) }

/-- The candidate an entry makes (R159(3)). -/
def candidateOf (loc : Loc) (stamp : Nat) (e : Entry) : Option Candidate :=
  match e with
  | .record k seq len _ _ => some ⟨k, seq, some len, cellsOf len, loc, stamp⟩
  | .tombstone k seq => some ⟨k, seq, none, 1, loc, stamp⟩
  | .pad => none

/-- An entry of a damaged page passes its tests: its cells lie in readable codewords and its value check matches
(R162(3)). -/
def entryPasses (w : Written) (cell : Nat) (e : Entry) : Bool :=
  w.cellsReadable cell (Entry.cells e) && !(w.mismatch.contains cell)

/-- The candidates of a page, those entries its trailer names that satisfy `p` (R162). -/
def candidatesOf (g page : Nat) (w : Written) (p : Nat → Entry → Bool) : List Candidate :=
  match w.trailer with
  | none => []
  | some t => t.starts.filterMap (fun cell =>
      match w.entryAt cell with
      | some e => if p cell e then candidateOf ⟨g, page, cell⟩ t.stamp e else none
      | none => none)

/-- A page whose check fails turns out not to be the last programmed one: it is damaged (R162(3)). -/
def Mount.damagedPage (threshold g page : Nat) (w : Written) (m : Mount) : Mount :=
  { m with
    damaged := m.damaged + 1
    unreadable := m.unreadable + Codewords.lostCount w.codewords
    marks := Store.modify g (fun k => { k with reason := some .uncorrectable })
      (Store.modify g (ScanMark.markMarginal threshold w) m.marks)
    candidates := m.candidates ++ candidatesOf g page w (entryPasses w) }

/-- A suspect page is followed by a written one: damaged (R162(3)). -/
def settleDamaged (threshold g : Nat) (m : Mount) : Mount :=
  match m.suspect with
  | none => m
  | some (p, w) => { m.damagedPage threshold g p w with suspect := none }

/-- A suspect page is the last programmed one: torn (R162(2)). -/
def settleTorn (m : Mount) : Mount :=
  match m.suspect with
  | none => m
  | some _ => { m with torn := m.torn + 1, suspect := none }

/-- A written page by its page check: its entries are taken, or it is held as suspect (R162). -/
def Mount.judgePage (threshold g page : Nat) (w : Written) (m : Mount) : Mount :=
  if w.pageCheck then
    { m with
      marks := Store.modify g (ScanMark.markMarginal threshold w) m.marks
      candidates := m.candidates ++ candidatesOf g page w (fun _ _ => true) }
  else { m with suspect := some (page, w) }

/-- An entry page of a data segment has been read (R162). The reading stops at the first blank page and at page 47. -/
def scanPage (g page : Nat) (o : ReadOutcome) (s : State) : State :=
  let th := s.params.threshold
  match o with
  | .blank => scanFrom (g + 1) (modMount settleTorn s)
  | .written w =>
    let t := modMount (fun m => (settleDamaged th g (m.takePage g w)).judgePage th g page w) s
    if page < Config.lastPage then startupRead g (page + 1) (modMount (fun m => { m with page := page + 1 }) t)
    else scanFrom (g + 1) (modMount settleTorn t)

/-- The catalogue phase has read both mirrors (R160(1), (2)). -/
def catalogueRead (s : State) : State :=
  match s.startup.mount with
  | none => s
  | some m =>
    match newestGen m with
    | none => mountUnformatted m s
    | some gen =>
      match (m.scanOf (currentMirror gen m)).copyOf gen with
      | none => s
      | some copy =>
        scanFrom Config.firstData { s with
          cat := writerFrom m gen copy
          spaces := numbered (copy.snap.spaces.map SpaceFields.record) }

/-- The catalogue phase goes on to the next page of the mirror, to mirror B, or to its end (R160). -/
def catalogueNext (seg page : Nat) (o : ReadOutcome) (s : State) : State :=
  if page = 0 ∨ (o ≠ .blank ∧ page < Config.lastPage) then
    startupRead seg (page + 1) (modMount (fun m => { m with seg := seg, page := page + 1 }) s)
  else if seg = 0 then startupRead 1 0 (modMount (fun m => { m with seg := 1, page := 0 }) s)
  else catalogueRead s

/-- A mount read has ended (R160 to R162). -/
def mountRead (seg page : Nat) (o : ReadOutcome) (m : Mount) (s : State) : State :=
  match m.phase with
  | .catalogue => catalogueNext seg page o (takeMirrorPage seg page o s)
  | .scan => if page = 0 then scanHeader seg o s else scanPage seg page o s
  | _ => s

end Sys2Proof.Machine
end

