-- ==== Sys2Proof/Machine/Layout.lean ====
section
/-! DEFINITION. Machine/Layout.lean: the bytes of the frames the part sends (R173, R197 to R199, Tables 11-2, 11-5 to
11-8). -/

namespace Sys2Proof.Machine

/-- The status codes of Table 11-2. -/
def Status.code : Status → Nat
  | .ok => 0x00
  | .cancelled => 0x01
  | .tooLate => 0x02
  | .unknownTag => 0x03
  | .tagInUse => 0x04
  | .badTag => 0x05
  | .queueFull => 0x06
  | .badRequest => 0x07
  | .badParam => 0x08
  | .notReady => 0x09
  | .unformatted => 0x0A
  | .readOnlyMode => 0x0B
  | .powerLow => 0x0C
  | .notFound => 0x0D
  | .lost => 0x0E
  | .exists => 0x0F
  | .seqMismatch => 0x10
  | .quotaExceeded => 0x11
  | .quotaBelowUsage => 0x12
  | .indexFull => 0x13
  | .tooLarge => 0x14
  | .mediaFull => 0x15
  | .mediaFault => 0x16
  | .noGain => 0x17
  | .frozen => 0x18
  | .readOnlySpace => 0x19
  | .writeProtected => 0x1A
  | .downgrade => 0x1B
  | .permanentSpaces => 0x1C

/-- Mode codes (Table 11-8). -/
def Mode.code : Mode → Nat
  | .mounting => 1
  | .unformatted => 2
  | .formatting => 3
  | .ready => 4
  | .readOnly => 5

/-- Cause codes (Table 11-8). -/
def Cause.code : Cause → Nat
  | .retiredListFull => 1
  | .catalogueFailed => 2
  | .noSpaceForRetry => 3
  | .noSpaceForRelocation => 4
  | .indexOverflow => 5

/-- Segment state codes (Table 11-8). -/
def SegState.code : SegState → Nat
  | .free => 1
  | .opened => 2
  | .full => 3
  | .evacuating => 4
  | .erasing => 5
  | .condemned => 6
  | .retired => 7

/-- Stream codes (Table 11-8). -/
def streamCode : Option StreamId → Nat
  | some .host => 1
  | some .relocate => 2
  | none => 0xFF

/-- Refresh reason codes (Table 11-8). -/
def RefreshReason.code : RefreshReason → Nat
  | .wear => 1
  | .threshold => 2
  | .uncorrectable => 3
  | .programFault => 4

/-- Condemn cause codes (Table 11-8). -/
def CondemnCause.code : CondemnCause → Nat
  | .uncorrectable => 3
  | .programFault => 4
  | .strikes => 5
  | .eraseFault => 6

/-- Worst health codes (Table 11-8). -/
def Health.code : Health → Nat
  | .bits n => n
  | .uncorrectable => 0xFF

/-- Policy codes (Table 11-8). -/
def Policy.code : Policy → Nat
  | .opened => 0
  | .writeOnce => 1
  | .readOnly => 2

/-- One byte. -/
def byte (n : Nat) : List Byte := leBytes 1 n

/-- A yes or no field. -/
def flag (b : Bool) : List Byte := byte (if b then 1 else 0)

/-- One element of a LIST reply: 11 bytes (Table 11-7). -/
def ListItem.bytes (i : ListItem) : List Byte :=
  leBytes 2 i.item ++ byte (if i.lost then 3 else 1) ++ leBytes 2 i.len ++ leBytes 6 i.seq

/-- The data of a STATUS reply (Table 11-7). -/
def StatusData.bytes (d : StatusData) : List Byte :=
  byte (Mode.code d.mode) ++ byte ((d.cause.map Cause.code).getD 0) ++ d.segCounts.flatMap (leBytes 2) ++
    leBytes 2 d.entries ++ byte d.outstanding ++ leBytes 6 d.nextSeq ++
    byte ((if d.wp then 1 else 0) + (if d.pfw then 2 else 0)) ++
    leBytes 2 d.counters.checkErrors ++ leBytes 2 d.counters.lengthErrors ++ leBytes 2 d.counters.timeouts ++
    leBytes 2 d.counters.refusalsDropped ++ flag d.overflow

/-- The identification and capacities of the part (R195). -/
def identityBytes : List Byte :=
  byte 0x4F ++ leBytes 2 0x2C16 ++ byte 1 ++ leBytes 2 1024 ++ byte 48 ++ leBytes 2 16384 ++ byte 16 ++ byte 8 ++
    leBytes 2 1040 ++ leBytes 2 1008 ++ byte 96

/-- The data of a SEGMENT_INFO reply for a data segment (R192). -/
def SegRec.bytes (r : SegRec) : List Byte :=
  byte (SegState.code r.state) ++ byte (streamCode r.stream) ++ leBytes 4 r.eraseCount ++ byte r.strikes ++
    leBytes 4 (r.openStamp.getD 0) ++ byte (r.nextPage.getD 0) ++ leBytes 2 r.live ++
    leBytes 6 (r.lowestSeq.getD 0) ++ byte (Health.code r.worst) ++
    byte ((r.reason.map RefreshReason.code).getD 0) ++ byte ((r.cause.map CondemnCause.code).getD 0)

/-- The data of a SEGMENT_INFO reply for a mirror: state 08H, the erase count, 01H in the stream field when current,
the next page and the mirror's completed generation in the open stamp field (R192). -/
def mirrorBytes (eraseCount : Nat) (current : Bool) (nextPage gen : Nat) : List Byte :=
  byte 8 ++ flag current ++ leBytes 4 eraseCount ++ byte 0 ++ leBytes 4 gen ++ byte nextPage ++ leBytes 2 0 ++
    leBytes 6 0 ++ byte 0 ++ byte 0 ++ byte 0

/-- The data of a SPACE_INFO reply (R192). -/
def SpaceRec.bytes (r : SpaceRec) : List Byte :=
  byte (Policy.code r.policy) ++ flag r.pinGuard ++ flag r.frozen ++ leBytes 4 (r.quota.getD 0) ++
    leBytes 4 r.usage ++ leBytes 2 r.keyCount ++ leBytes 6 r.clearSeq

/-- The bytes of reply data (Table 11-7 and the list after it). -/
def ReplyData.bytes : ReplyData → List Byte
  | .none => []
  | .sequence seq => leBytes 6 seq
  | .lostRecord seq len => leBytes 6 seq ++ leBytes 2 len
  | .freeCount n => leBytes 2 n
  | .value seq len corrected bytes => leBytes 6 seq ++ leBytes 2 len ++ byte corrected ++ bytes
  | .listing more items => byte items.length ++ flag more ++ items.flatMap ListItem.bytes
  | .status d => StatusData.bytes d
  | .identity => identityBytes
  | .segment r => SegRec.bytes r
  | .mirror e c p g => mirrorBytes e c p g
  | .space r => SpaceRec.bytes r
  | .generation gen => leBytes 4 gen
  | .cleared clearSeq gen => leBytes 6 clearSeq ++ leBytes 4 gen
  | .formatted gen retired => leBytes 4 gen ++ byte retired

/-- Notice type codes (Table 11-6). -/
def Notice.type : Notice → Byte
  | .mounted .. => 0xE0#8
  | .modeChanged .. => 0xE1#8
  | .recordLost .. => 0xE2#8
  | .segmentRetired .. => 0xE3#8
  | .spaceLow .. => 0xE4#8
  | .overflow .. => 0xE5#8

/-- A count field above 65,535 is reported as 65,535 (R197). -/
def countBytes (n : Nat) : List Byte := leBytes 2 (min n Config.countCap)

/-- The body of a notice (Table 11-7). -/
def Notice.body : Notice → List Byte
  | .mounted mode keys torn damaged unreadable =>
    byte (Mode.code mode) ++ countBytes keys ++ countBytes torn ++ countBytes damaged ++ countBytes unreadable
  | .modeChanged mode cause => byte (Mode.code mode) ++ byte ((cause.map Cause.code).getD 0)
  | .recordLost space item seq => byte space ++ leBytes 2 item ++ leBytes 6 seq
  | .segmentRetired seg cause => leBytes 2 seg ++ byte ((cause.map CondemnCause.code).getD 0)
  | .spaceLow n => countBytes n
  | .overflow n => countBytes n

/-- A frame with its start marker, length and check (Table 11-5). -/
def frameBytes (type tag : Byte) (body : List Byte) : List Byte :=
  let covered := leBytes 2 body.length ++ type :: tag :: body
  0xA5#8 :: covered ++ leBytes 2 (frameCheck covered).toNat

/-- The bytes of a frame of the part (R173): a reply begins with its status and credit, a notice carries tag 0. -/
def TxFrame.bytes : TxFrame → List Byte
  | .reply type tag status credit data _ =>
    frameBytes type tag (byte (Status.code status) ++ byte credit ++ ReplyData.bytes data)
  | .notice n => frameBytes (Notice.type n) 0#8 (Notice.body n)

end Sys2Proof.Machine
end

