-- ==== Sys2Proof/Machine/Requests.lean ====
section
/-! DEFINITION. Machine/Requests.lean: how a GET is answered (1.10, 4.5, 6.6) and the checks that requests pass (7.6 to
7.8, 9.1). -/

namespace Sys2Proof.Machine

/-! ## GET -/

/-- The value a page in RAM holds for a location. -/
def valueIn (placed : List Placed) (cell : Nat) : Option (List Byte) :=
  match placed.find? (fun p => p.cell == cell) with
  | some ⟨_, .record _ _ _ _ v⟩ => some v
  | _ => none

/-- The value a stream holds for a location: from the page in flight, or from the buffer when the location names its
destined page (R63). -/
def streamValue (id : StreamId) (loc : Loc) (s : State) : Option (List Byte) :=
  let st := streamOf id s
  match st.inFlight with
  | some f =>
    if f.seg = loc.seg ∧ f.page = loc.page then valueIn f.placed loc.cell
    else if bufferDest id s = some (loc.seg, loc.page) then valueIn st.buffer loc.cell else none
  | none => if bufferDest id s = some (loc.seg, loc.page) then valueIn st.buffer loc.cell else none

/-- The value of a pending record, from the stream that holds it (R63). -/
def ramValue (loc : Loc) (s : State) : List Byte :=
  match streamValue .host loc s with
  | some v => v
  | none => (streamValue .relocate loc s).getD []

/-- What a GET finds when it looks its key up (R16, R83). -/
inductive Found where
  /-- Answered without a read. -/
  | answered (status : Status) (data : ReplyData)
  /-- LIVE and programmed: the page is read. -/
  | onArray (taken : GetTaken)

/-- The lookup of a GET, when it is taken and again at the grant of its read (R16, R83). -/
def getLookup (k : Key) (s : State) : Found :=
  match lookup k s with
  | none => .answered .notFound .none
  | some (.tombstone _ _ _) => .answered .notFound .none
  | some (.lost seq len) => .answered .lost (.lostRecord seq len)
  | some (.live seq len cells loc programmed) =>
    if programmed then .onArray ⟨k, seq, len, loc, cells⟩
    else .answered .ok (.value seq len 0 (ramValue loc s))

/-- The GET in hand is answered, or, when its slot was cancelled or emptied, the discard mark is cleared (R181). -/
def answerGet (status : Status) (data : ReplyData) (s : State) : State :=
  if s.engine.discard then { s with engine := { s.engine with discard := false } }
  else answerOpt s.engine.active status data s

/-- The value a read delivers for a record. -/
def Written.valueAt (w : Written) (cell : Nat) : List Byte :=
  match w.entryAt cell with
  | some (.record _ _ _ _ v) => v
  | _ => []

/-- The answer of a GET whose read has ended (R119). -/
def getOutcome (t : GetTaken) (o : ReadOutcome) : Status × ReplyData :=
  match o with
  | .blank => (.lost, .lostRecord t.seq t.len)
  | .written w =>
    if w.recordReadable t.key t.seq t.len t.loc t.cells then
      (.ok, .value t.seq t.len (w.correctedOf t.loc.cell t.cells) (w.valueAt t.loc.cell))
    else (.lost, .lostRecord t.seq t.len)

/-! ## Checks -/

/-- What the mode answers to a request when it is taken (Table 9-4): nothing when it is carried out. -/
def modeRefusal (storing : Bool) (m : Mode) : Option Status :=
  match m with
  | .mounting => some .notReady
  | .unformatted => some .unformatted
  | .formatting => none
  | .ready => none
  | .readOnly => if storing then some .readOnlyMode else none

/-- A refusal when a condition holds. -/
def failIf (c : Bool) (status : Status) : Option (Status × ReplyData) :=
  if c then some (status, .none) else none

/-- The first refusal of a list of checks in order (R131). -/
def firstRefusal : List (Option (Status × ReplyData)) → Option (Status × ReplyData)
  | [] => none
  | some r :: _ => some r
  | none :: rest => firstRefusal rest

/-- The mode check of a request that stores (check 1 of Table 7-2). -/
def modeCheck (storing : Bool) (s : State) : Option (Status × ReplyData) :=
  (modeRefusal storing s.startup.mode).map (fun st => (st, .none))

/-- The condition of an expected sequence (R6). -/
def expectedHolds (expected : Option Nat) (e : Option IndexEntry) : Bool :=
  match expected with
  | none => true
  | some 0 => !isPresent e
  | some (n + 1) =>
    match e with
    | some e => e.present && e.seq == n + 1
    | none => false

/-- The current sequence a SEQ_MISMATCH carries: the index sequence of a present key, 0 otherwise (R187(2)). -/
def currentSeq (e : Option IndexEntry) : Nat :=
  match e with
  | some e => if e.present then e.seq else 0
  | none => 0

/-- Check 8 (R132(1), R187(2)). -/
def expectedCheck (expected : Option Nat) (e : Option IndexEntry) : Option (Status × ReplyData) :=
  if expectedHolds expected e then none else some (.seqMismatch, .sequence (currentSeq e))

/-- The new cells of a PUT for the quota check; 5 for a value length above 1,008 (R132(2)). -/
def quotaCells (len : Nat) : Nat := if Config.maxValue < len then 5 else cellsOf len

/-- The usage after a PUT exceeds the quota (R132(2)). -/
def quotaExceeded (sp : SpaceRec) (e : Option IndexEntry) (len : Nat) : Bool :=
  match sp.quota with
  | none => false
  | some q => decide (q < sp.usage - usageOf e + quotaCells len)

/-- Checks 1 to 6 of Table 7-2, common to PUT and DELETE (R131). -/
def commonChecks (k : Key) (s : State) : List (Option (Status × ReplyData)) :=
  let sp := spaceAt k.space s
  [modeCheck true s, failIf s.pfw .powerLow, failIf (Config.spaces ≤ k.space) .badRequest, failIf sp.frozen .frozen,
    failIf (sp.policy == .readOnly) .readOnlySpace, failIf (sp.pinGuard && s.wp) .writeProtected]

/-- The eleven checks of a PUT (Table 7-2, R131, R132). -/
def putChecks (k : Key) (expected : Option Nat) (len : Nat) (s : State) : List (Option (Status × ReplyData)) :=
  let sp := spaceAt k.space s
  let e := lookup k s
  commonChecks k s ++
    [failIf (sp.policy == .writeOnce && isPresent e) .exists, expectedCheck expected e,
      failIf (quotaExceeded sp e len) .quotaExceeded,
      failIf (e.isNone && decide (Config.indexCapacity ≤ s.index.length)) .indexFull,
      failIf (decide (Config.maxValue < len)) .tooLarge]

/-- The checks of a DELETE; checks 9 to 11 always pass (Table 7-2, R132). -/
def deleteChecks (k : Key) (expected : Option Nat) (s : State) : List (Option (Status × ReplyData)) :=
  commonChecks k s ++
    [failIf ((spaceAt k.space s).policy == .writeOnce) .exists, expectedCheck expected (lookup k s)]

/-- A policy value (Table 11-8). -/
def policyOf (n : Nat) : Option Policy :=
  match n with
  | 0 => some .opened
  | 1 => some .writeOnce
  | 2 => some .readOnly
  | _ => none

/-- The pin guard of a space is yes and WP is asserted (R127). -/
def pinBlocks (n : Nat) (s : State) : Bool := (spaceAt n s).pinGuard && s.wp

/-- The named policy is lower than the space's (R134(4)). -/
def isDowngrade (named : Option Policy) (current : Policy) : Bool :=
  match named with
  | none => false
  | some p => decide (Policy.code p < Policy.code current)

/-- The checks of a SET_POLICY (R134). -/
def setPolicyChecks (space policy pinGuard : Nat) (s : State) : List (Option (Status × ReplyData)) :=
  [modeCheck true s, failIf s.pfw .powerLow,
    failIf (decide (Config.spaces ≤ space) || (policyOf policy).isNone || decide (1 < pinGuard)) .badRequest,
    failIf (isDowngrade (policyOf policy) (spaceAt space s).policy) .downgrade,
    failIf (pinBlocks space s) .writeProtected]

/-- The checks of a SET_QUOTA; a quota of 0 means absent (R135, R194(2)). -/
def setQuotaChecks (space quota : Nat) (s : State) : List (Option (Status × ReplyData)) :=
  [modeCheck true s, failIf s.pfw .powerLow,
    failIf (decide (Config.spaces ≤ space) || decide (Config.maxQuota < quota)) .badRequest,
    failIf (pinBlocks space s) .writeProtected,
    failIf (quota != 0 && decide (quota < (spaceAt space s).usage)) .quotaBelowUsage]

/-- The checks of a CLEAR_SPACE (R137). -/
def clearChecks (space : Nat) (s : State) : List (Option (Status × ReplyData)) :=
  let sp := spaceAt space s
  [modeCheck true s, failIf s.pfw .powerLow, failIf (Config.spaces ≤ space) .badRequest, failIf sp.frozen .frozen,
    failIf (sp.policy == .readOnly) .readOnlySpace, failIf (pinBlocks space s) .writeProtected,
    failIf (sp.policy == .writeOnce) .exists]

/-- The checks of a FORMAT; in UNFORMATTED the Space Table holds no record (R169). -/
def formatChecks (s : State) : List (Option (Status × ReplyData)) :=
  [failIf (s.startup.mode == .mounting) .notReady, failIf s.pfw .powerLow,
    failIf (s.host.stranded || s.reloc.stranded) .mediaFault,
    failIf (s.spaces.any (fun p => p.2.policy != .opened)) .permanentSpaces,
    failIf (s.wp && s.spaces.any (fun p => p.2.pinGuard)) .writeProtected]

end Sys2Proof.Machine
end

