-- ==== Sys2Proof/Machine/FormatUnit.lean ====
section
/-! DEFINITION. Machine/FormatUnit.lean: the work of FORMAT from its taking to its final snapshot (9.4, 2.8, 8.8). -/

namespace Sys2Proof.Machine

/-- Changes the progress of a FORMAT. -/
def modFormat (f : Format → Format) (s : State) : State :=
  { s with startup := { s.startup with format := s.startup.format.map f } }

/-- A FORMAT has just been taken into slot `n`. -/
def Format.start (n : Nat) (fromUnformatted : Bool) : Format where
  phase := .resting
  slot := some n
  fromUnformatted := fromUnformatted
  eraseCount := 0
  strikes := 0
  highestHeader := 0
  pendingRetire := []
  retiring := 0

/-- A FORMAT that passed its checks begins: FORMATTING with no cause, and the blocks bring their work to rest (R170, R69,
R109(2), R124). -/
def formatBegins (n : Nat) (s : State) : State :=
  let f := Format.start n (s.startup.mode == .unformatted)
  let t := changeMode .formatting none { s with startup := { s.startup with format := some f } }
  withdrawPatrol (abandonEvacuation (commitCause .host t))

/-- FORMAT waits for the blocks and all of them are at rest: no page in flight, the HOST buffer empty, the Compaction
Engine IDLE, no snapshot in flight (R170). -/
def formatAtRest (s : State) : Bool :=
  (match s.startup.format with
  | some f => f.phase == .resting
  | none => false) &&
  s.host.inFlight.isNone && s.reloc.inFlight.isNone && s.host.buffer.isEmpty && !s.comp.running &&
  s.cat.write.isNone

/-- A segment record at the emptying: live cells 0, no reason, and an OPEN segment FULL (R43). -/
def SegRec.emptied (r : SegRec) : SegRec :=
  { r with
    state := if r.state = .opened then .full else r.state
    stream := none, nextPage := none, live := 0, reason := none }

/-- The condemned waiters are removed and the dirty flag becomes no (R152(2)). -/
def Catalogue.emptied (c : Catalogue) : Catalogue :=
  { c with
    dirty := false
    waiters := c.waiters.filter (fun w => match w.who with
      | .segment _ => false
      | .slot _ => true) }

/-- The emptying (R170, R43, R69, R18, R106(4), R152(2)): every COMPACT is answered NO_GAIN with the free count, and the
index, the Refresh Queue and the streams are emptied. -/
def formatEmpties (s : State) : State :=
  let t := answerCompacts .noGain s
  { t with
    index := []
    segs := Store.mapVals (fun _ r => SegRec.emptied r) t.segs
    urgent := []
    ordinary := []
    spaces := Store.mapVals (fun _ r => { r with usage := 0, keyCount := 0 }) t.spaces
    nextSeq := some 1
    nextStamp := some 1
    host := Stream.empty
    reloc := Stream.empty
    commitTimer := none
    comp := { t.comp with noGain := false }
    cat := Catalogue.emptied t.cat }

/-! ## The erasing (R43, R171) -/

/-- The pending segments that fit in the retired list beside `room` places taken, ascending, and those that do not
(R152(3)). -/
def formatRetires (taken : Nat) (pendingRetire : List Nat) : List Nat × List Nat :=
  let sorted := pendingRetire.foldl (fun l g => Store.insertNat g l) []
  (sorted.take (Config.retiredCapacity - taken), sorted.drop (Config.retiredCapacity - taken))

/-- A waiter of FORMAT's own slot; none after a soft reset (R152(3), R172). -/
def addFormatSlot (n : Option Nat) (s : State) : State :=
  match n with
  | none => s
  | some n => addWaiter (.slot n) (modSlot n (fun sl => { sl with state := .awaitingCatalogue }) s)

/-- FORMAT asks for its final snapshot (R152(3), R171): the failed mark and the failure count are cleared, the slot goes
AWAITING_CATALOGUE, the pending segments that fit become waiters, the rest leave RETIRED_LIST_FULL pending, and the
snapshot is begun. The slot stands first among the waiters (DESIGN CHOICE, assumption 29). -/
def formatSnapshot (f : Format) (s : State) : State :=
  let fits := formatRetires s.cat.retired.length f.pendingRetire
  let t := modCat (fun c => { c with failed := false, failures := 0, dirty := true }) s
  let u := fits.1.foldl (fun v g => addWaiter (.segment g) v) (addFormatSlot f.slot t)
  let w := if fits.2 = [] then u else reportCause .retiredListFull u
  beginSnapshot true (modFormat (fun g => { g with phase := .snapshot, retiring := fits.1.length }) w)

/-- Every space takes its FORMAT values; the frozen marks are kept (R140(3)). -/
def formatSpaces (s : State) : List (Nat × SpaceRec) :=
  numbered ((List.range Config.spaces).map (fun n => SpaceRec.fresh (spaceAt n s).frozen))

/-- The last segment has been taken: the free count and the low-free condition are set, the spaces reset, and the final
snapshot is asked for (R43, R171). -/
def formatLast (f : Format) (s : State) : State :=
  let t := settleLowFree { s with freeCount := countFree s }
  formatSnapshot f { t with spaces := formatSpaces t }

/-- The first segment from `g` on that is not RETIRED (R43). -/
def formatNext (g : Nat) (s : State) : Option Nat :=
  Store.firstFrom (fun n => segState n s != some .retired) (Config.segments - g) g

/-- FORMAT takes the next segment that is not RETIRED and reads its header, or has taken the last (R43, R171). -/
def formatTake (g : Nat) (s : State) : State :=
  match formatNext g s with
  | some n => startupRead n 0 (modFormat (fun f => { f with phase := .header n }) s)
  | none =>
    match s.startup.format with
    | some f => formatLast f s
    | none => s

/-- The counts of a readable header (R23). -/
def headerCounts (o : ReadOutcome) : Option (Nat × Nat) :=
  match o with
  | .blank => none
  | .written w =>
    match w.ownCheck, w.data with
    | true, some (.segHeader count strikes _ _) => some (count, strikes)
    | _, _ => none

/-- The erase count used when a header is not readable: the highest among the segment records (R43), or, from
UNFORMATTED, among the headers read so far (R171). -/
def formatHighest (f : Format) (s : State) : Nat :=
  if f.fromUnformatted then f.highestHeader
  else (highestOf (s.segs.map (fun p => p.2.eraseCount))).getD 0

/-- The record of a segment FORMAT takes: ERASING, with no condemn cause (Table 2-3), made anew when there is none (R43,
R171). A new record's worst health is that of the header read, by R113(2), though R28 does not list the reads of FORMAT
(DEDUCED, assumption 21). -/
def erasingRecord (old : Option SegRec) (count strikes : Nat) (worst : Health) : SegRec :=
  match old with
  | some r => { r with state := .erasing, stream := none, nextPage := none, live := 0, reason := none, cause := none }
  | none => mountRecord .erasing ⟨0, count, strikes, worst⟩ worst none

/-- The header of the segment in hand has been read: it becomes ERASING and its erase is claimed (R43). -/
def formatHeaderRead (g : Nat) (o : ReadOutcome) (f : Format) (s : State) : State :=
  let counts := (headerCounts o).getD (formatHighest f s, 0)
  let top := match headerCounts o with
    | some c => max f.highestHeader c.1
    | none => f.highestHeader
  makeClaim .catalogue .startup (.erase g)
    (modFormat (fun f => { f with
      phase := .erasing g, eraseCount := counts.1, strikes := counts.2, highestHeader := top })
      { s with segs := Store.put g (erasingRecord (segAt g s) counts.1 counts.2 o.worst) s.segs })

/-- The erase or the header of a segment fails: CONDEMNED with ERASE_FAULT, in the pending retirement set (R43(2)). -/
def formatEraseFault (g : Nat) (s : State) : State :=
  formatTake (g + 1) (modFormat (fun f => { f with pendingRetire := f.pendingRetire ++ [g] })
    (modSeg g (fun r => { r with state := .condemned, cause := some .eraseFault }) s))

/-- A generation is left for FORMAT's final snapshot (R152(3), R151(3)). -/
def generationLeft (s : State) : Bool := decide (s.cat.begun + 1 < Config.wordBound)

/-- The format stamp the final snapshot will carry, which is its generation (R43(1), R152(3)); with no generation left a
free value (DESIGN CHOICE, assumption 54). -/
def comingStamp (s : State) : Nat :=
  if generationLeft s then s.cat.begun + 1 else (Config.stampAfterLast s.freeDraws).toNat

/-- The count of free values drawn, after the format stamp of a header. -/
def drawsAfterStamp (s : State) : Nat := if generationLeft s then s.freeDraws else s.freeDraws + 1

/-- The erase completes OK: the counts and worst health 0 enter the record and the header is claimed with the format
stamp the final snapshot will carry (R43(1), R28; DEDUCED, assumption 20). -/
def formatErasedOk (g : Nat) (f : Format) (s : State) : State :=
  let count := erasedCount f.eraseCount
  makeClaim .catalogue .startup (.program g 0 (segHeader count f.strikes (comingStamp s)))
    (modFormat (fun f => { f with phase := .rewriting g })
      (modSeg g (fun r => { r with eraseCount := count, strikes := f.strikes, worst := .bits 0 })
        { s with freeDraws := drawsAfterStamp s }))

/-- The header completes OK: the segment becomes FREE, without an effect on the free count (R43(1)). -/
def formatFreed (g : Nat) (s : State) : State :=
  formatTake (g + 1) (modSeg g SegRec.freed s)

/-- A read of FORMAT has ended. -/
def formatRead (o : ReadOutcome) (f : Format) (s : State) : State :=
  match f.phase with
  | .header g => formatHeaderRead g o f s
  | _ => s

/-- An erase of FORMAT has ended. -/
def formatErased (ok : Bool) (f : Format) (s : State) : State :=
  match f.phase with
  | .erasing g => if ok then formatErasedOk g f s else formatEraseFault g s
  | _ => s

/-- A header program of FORMAT has ended. -/
def formatHeader (ok : Bool) (f : Format) (s : State) : State :=
  match f.phase with
  | .rewriting g => if ok then formatFreed g s else formatEraseFault g s
  | _ => s

/-! ## The Start-up Controller as originator (Table 4-2) -/

/-- A read of the Start-up Controller has ended, for mount or for FORMAT. -/
def startupReadEnded (seg page : Nat) (o : ReadOutcome) (s : State) : State :=
  match s.startup.mount, s.startup.format with
  | some m, _ => mountRead seg page o m s
  | none, some f => formatRead o f s
  | none, none => s

/-- An erase of the Start-up Controller has ended. -/
def startupErased (ok : Bool) (s : State) : State :=
  match s.startup.mount, s.startup.format with
  | some m, _ => mountErased ok m s
  | none, some f => formatErased ok f s
  | none, none => s

/-- A header program of the Start-up Controller has ended. -/
def startupHeader (ok : Bool) (s : State) : State :=
  match s.startup.mount, s.startup.format with
  | some m, _ => mountHeader ok m s
  | none, some f => formatHeader ok f s
  | none, none => s

end Sys2Proof.Machine
end

