-- ==== Sys2Proof/Machine/Transmit.lean ====
section
/-! DEFINITION. Machine/Transmit.lean: the reply order and the transmitter's choice of the next frame (10.9, R196). -/

namespace Sys2Proof.Machine

/-- The slot whose reply a frame is. -/
def TxFrame.slot? : TxFrame → Option Nat
  | .reply _ _ _ _ _ slot => slot
  | .notice _ => none

/-- The slot whose reply is being sent. -/
def sendingSlot (s : State) : Option Nat := s.link.sending.bind TxFrame.slot?

/-- A slot whose answer has no place in the reply order yet. -/
def unordered (s : State) (n : Nat) (sl : Slot) : Bool :=
  sl.state == .replyReady && !(s.link.replyOrder.contains n) && sendingSlot s != some n

/-- The slots answered in this change, in ascending arrival number (R179). -/
def newlyReady (s : State) : List Nat :=
  (Store.sortBy (fun p => p.2.arrival) (s.link.slots.filter (fun p => unordered s p.1 p.2))).map Prod.fst

/-- Slots answered in one change take their places in the reply order (R179). -/
def orderReplies (s : State) : State :=
  { s with link := { s.link with replyOrder := s.link.replyOrder ++ newlyReady s } }

/-- The number of data segments in a state; 0 while the Segment Table holds no valid record (R44, R196). -/
def segCount (st : SegState) (s : State) : Nat :=
  if s.startup.mode = .mounting then 0 else (s.segs.filter (fun p => p.2.state == st)).length

/-- The data of a STATUS reply, as they stand when its frame is built (R182, R196). In MOUNTING the counts are 0 (R159,
R18; DEDUCED, assumption 19). -/
def statusData (s : State) : StatusData where
  mode := s.startup.mode
  cause := s.startup.cause
  segCounts := [.free, .opened, .full, .evacuating, .erasing, .condemned, .retired].map (fun st => segCount st s)
  entries := if s.startup.mode = .mounting then 0 else s.index.length
  outstanding := s.link.slots.length
  nextSeq := s.nextSeq.getD 0
  wp := s.wp
  pfw := s.pfw
  counters := s.link.counters
  overflow := s.link.notices.any Notice.isOverflow

/-- The frame of an answer of the immediate reply list, with the free slots as its credit (R180, R182). -/
def answerFrame (a : Answer) (s : State) : TxFrame :=
  .reply a.type a.tag a.status (freeSlots s) (if a.now then .status (statusData s) else a.data) none

/-- The frame of a slot's reply; its own slot counts as free (R180). -/
def slotFrame (n : Nat) (sl : Slot) (s : State) : TxFrame :=
  match sl.reply with
  | some (status, data) => .reply (replyType (Request.type sl.request)) sl.tag status (freeSlots s + 1) data (some n)
  | none => .reply (replyType (Request.type sl.request)) sl.tag .ok (freeSlots s + 1) .none (some n)

/-- Changes the Host Link's state. -/
def modLink (f : Link → Link) (s : State) : State := { s with link := f s.link }

/-- The oldest notice is chosen; the notice guard count becomes 0 (R185). -/
def sendNotice (s : State) : State :=
  match s.link.notices with
  | [] => s
  | n :: rest => modLink (fun l => { l with sending := some (.notice n), notices := rest, noticeGuard := 0 }) s

/-- The first slot of the reply order is chosen; the guard count rises while notices wait (R185(3)). -/
def sendSlot (s : State) : State :=
  match s.link.replyOrder with
  | [] => s
  | n :: rest =>
    match slotAt n s with
    | none => modLink (fun l => { l with replyOrder := rest }) s
    | some sl => modLink (fun l => { l with
        sending := some (slotFrame n sl s)
        replyOrder := rest
        noticeGuard := if l.notices = [] then l.noticeGuard else min (l.noticeGuard + 1) 4 }) s

/-- The choice among the three sources (R185(1) to (4)). -/
def chooseFrame (s : State) : State :=
  match s.link.immediate with
  | a :: rest => modLink (fun l => { l with sending := some (answerFrame a s), immediate := rest }) s
  | [] =>
    if s.link.noticeGuard = 4 ∧ s.link.notices ≠ [] then sendNotice s
    else if s.link.replyOrder ≠ [] then sendSlot s
    else sendNotice s

/-- An idle transmitter chooses the next frame: nothing while a soft reset is in progress (R184(2)), then a RESET reply
that is built (R184(4)), and otherwise by R185. Of several RESET replies the one built first goes first (DESIGN CHOICE,
assumption 48). -/
def transmit (s : State) : State :=
  match s.link.sending, s.link.softReset, s.link.resetReplies with
  | some _, _, _ => s
  | none, some _, _ => s
  | none, none, f :: rest => modLink (fun l => { l with sending := some f, resetReplies := rest }) s
  | none, none, [] => chooseFrame s

/-- The end of a change on the link: new answers take their places and an idle transmitter chooses (R179, R185). -/
def finish (s : State) : State := transmit (orderReplies s)

end Sys2Proof.Machine
end

