-- ==== Sys2Proof/Machine/Settle.lean ====
section
/-! DEFINITION. Machine/Settle.lean: what every change ends with: the tests that the rules make whenever an input of
theirs changes, the arbiter's grant, and the transmitter's choice. -/

namespace Sys2Proof.Machine

/-! ## Grants (4.3, 4.4) -/

/-- The operation a claim runs as. A GET's read is resolved before (R83). -/
def Claim.operation (c : Claim) : Option ArrayOp :=
  match c.op with
  | .read seg page => some (.read ⟨c.origin, seg, page, none⟩)
  | .readKey _ => none
  | .program seg page data => some (.program c.origin seg page data)
  | .erase seg => some (.erase ⟨c.origin, seg, 0⟩)

/-- The array begins an operation. -/
def startOp (op : Option ArrayOp) (s : State) : State := { s with arr := { s.arr with op := op } }

/-- The read of the page a GET resolves to (R83(4)). -/
def getRead (t : GetTaken) : ArrayOp := .read ⟨.requestEngine, t.loc.seg, t.loc.page, some t⟩

/-- A claim leaves its place at a grant made under R78, and the starvation guard count follows (R76, R79). When the array
becomes idle at the end of an operation (`ended`) the other places hold the claims that wait (R78(2)). Otherwise the
array was idle before and the claim is granted as it enters, before any claim of the same change (R78(1)): the RELOCATE
place is empty and the count becomes 0 (R79(2), (3)). -/
def takePlace (ended : Bool) (cls : ClaimClass) (s : State) : State :=
  { s with arr := { s.arr.leave cls with
      guardCount := if ended then (s.arr.setPlace cls none).guardAfter cls else 0 } }

/-- A GET's read is withdrawn at its grant and the GET answered; the guard count is unchanged (R83, R79). -/
def withdrawGet (status : Status) (data : ReplyData) (s : State) : State :=
  answerGet status data { s with arr := s.arr.leave .host }

/-- The arbiter grants a claim while the array is idle (R78, R79, R83). A GET's read withdrawn at its grant lets it
choose again; `fuel` bounds how often. -/
def arbitrate (ended : Bool) : Nat → State → State
  | 0, s => s
  | fuel + 1, s =>
    if s.arr.isIdle then
      match s.arr.nextClass s.lowFree with
      | none => s
      | some cls =>
        match s.arr.place cls with
        | none => s
        | some c =>
          match c.op with
          | .readKey k =>
            match getLookup k s with
            | .answered status data => arbitrate ended fuel (withdrawGet status data s)
            | .onArray t => startOp (some (getRead t)) (takePlace ended cls s)
          | _ => startOp c.operation (takePlace ended cls s)
    else s

/-- The suspended erase resumes (R82). -/
def resumeErase (e : EraseRun) (s : State) : State :=
  { s with arr := { s.arr with op := some (.erase e), suspended := none } }

/-- While an erase is suspended and no operation runs, a GET's read in the HOST place is granted as a suspend read, at
fewer than 6 suspensions; otherwise the erase resumes (R82, R83; DEDUCED, assumption 35). -/
def suspendNext : Nat → State → State
  | 0, s => s
  | fuel + 1, s =>
    match s.arr.op, s.arr.suspended with
    | none, some e =>
      match s.arr.hostPlace with
      | none => resumeErase e s
      | some c =>
        match c.op with
        | .readKey k =>
          if e.suspensions < Config.suspendLimit then
            let t := { s with arr := { s.arr with suspended := some { e with suspensions := e.suspensions + 1 } } }
            match getLookup k t with
            | .answered status data => suspendNext fuel (withdrawGet status data t)
            | .onArray g => startOp (some (getRead g)) { t with arr := t.arr.leave .host }
          else resumeErase e s
        | _ => resumeErase e s
    | _, _ => s

/-! ## Tests made at the end of a change -/

/-- The queue-pressure condition: every occupied slot is AWAITING_COMMIT (R54), with a HOST buffer that the cause still
acts on. -/
def pressureDue (s : State) : Bool :=
  !s.link.slots.isEmpty && s.link.slots.all (fun p => p.2.state == .awaitingCommit) && !s.host.buffer.isEmpty &&
    !s.host.stranded && !(s.host.commitRequested && s.host.inFlight.isSome)

/-- The queue-pressure commit cause (R54). -/
def pressureTest (s : State) : State := if pressureDue s then commitCause .host s else s

/-- The tests of one round: the catalogue (R147), the start of a run (R91), the engine's next claim (R96, R104), queue
pressure (R54), and the grant (R78). DEDUCED: of the claims made in one change, the one the grant order names is granted,
not the first made (assumption 6). -/
def settleRound (ended : Bool) (s : State) : State :=
  arbitrate ended 3 (pressureTest (engineTest (startTest (snapshotTest s))))

/-- The end of a change that may have touched any block, in which an array operation ended or not. A second round sees
what the first brought about. -/
def settleWith (ended : Bool) (s : State) : State := finish (settleRound ended (settleRound ended s))

/-- The end of a change in which no array operation ended (R78(1)). -/
def settle (s : State) : State := settleWith false s

/-- The end of a change in which an array operation ended (R80(4), R78(2)). -/
def settleAfterOp (s : State) : State := settleWith true s

/-- The end of a change of the Host Link alone: only queue pressure can follow from it (R54, R179). -/
def calm (s : State) : State := if pressureDue s then settle s else finish s

/-- A change a held part does not make: without supply or with RST asserted nothing inside the part moves (R158). -/
def whileRunning (f : State → State) (s : State) : State := if isHeld s then s else f s

/-- What a command answers. No command of this part stops. -/
abbrev Result := Host.Outcome State Fault Refusal

end Sys2Proof.Machine
end

