-- ==== Sys2Proof/Machine/Taking.lean ====
section
/-! DEFINITION. Machine/Taking.lean: how the Request Engine takes a request (R181), and what most requests come to. -/

namespace Sys2Proof.Machine

/-- The Request Engine may take a request: it is free and the mode is not FORMATTING (R181). -/
def engineFree (s : State) : Bool :=
  s.engine.active.isNone && !s.engine.discard && s.startup.mode != .formatting

/-- The older of two slots. -/
def olderSlot (p q : Nat × Slot) : Nat × Slot := if q.2.arrival < p.2.arrival then q else p

/-- The QUEUED slot with the lowest arrival number. -/
def oldestQueued : List (Nat × Slot) → Option (Nat × Slot)
  | [] => none
  | p :: rest =>
    match p.2.state, oldestQueued rest with
    | .queued, none => some p
    | .queued, some q => some (olderSlot p q)
    | _, r => r

/-- The slot and request the engine takes next, if it takes one (R181). A command for any other request changes nothing
(DESIGN CHOICE, assumption 4). -/
def nextTaken (s : State) : Option (Nat × Request) :=
  if engineFree s then (oldestQueued s.link.slots).map (fun p => (p.1, p.2.request)) else none

/-- A slot is taken: it becomes ACTIVE and the active slot (R181). -/
def takenSlot (n : Nat) (s : State) : State :=
  let t := modSlot n (fun sl => { sl with state := .active }) s
  { t with engine := { s.engine with active := some n } }

/-- A taken request passes its checks or is answered with the first that fails; then the change ends (R131, R187). -/
def afterChecks (n : Nat) (checks : List (Option (Status × ReplyData))) (go : State → State) (s : State) : State :=
  match firstRefusal checks with
  | some (status, data) => settle (answer n status data s)
  | none => settle (go s)

/-- The check of a space number (R125). -/
def spaceCheck (space : Nat) : Option (Status × ReplyData) := failIf (decide (Config.spaces ≤ space)) .badRequest

/-- The engine lets go of a slot that goes on waiting elsewhere (R181(1)). -/
def release (n : Nat) (s : State) : State := { s with engine := s.engine.release n }

/-- A slot changes state. -/
def setSlotState (n : Nat) (st : SlotState) (s : State) : State := modSlot n (fun sl => { sl with state := st }) s

/-- A barrier request's change has been made: its slot goes AWAITING_CATALOGUE and becomes a waiter (R136). -/
def awaitCatalogue (n : Nat) (s : State) : State := addWaiter (.slot n) (setSlotState n .awaitingCatalogue s)

end Sys2Proof.Machine
end

