-- ==== Sys2Proof/Machine/Barriers.lean ====
section
/-! DEFINITION. Machine/Barriers.lean: SET_POLICY, SET_QUOTA, CLEAR_SPACE and FORMAT as the Request Engine takes them, and
the emptying of FORMAT (7.7, 7.8, 9.4). -/

namespace Sys2Proof.Machine

/-- The policy and pin guard of a space become those named (R134). -/
def setPolicy (n space policy pinGuard : Nat) (s : State) : State :=
  awaitCatalogue n (modSpace space (fun r =>
    { r with policy := (policyOf policy).getD r.policy, pinGuard := pinGuard == 1 }) s)

/-- A SET_POLICY in slot `n` is carried out (R134). -/
def carrySetPolicy (n space policy pinGuard : Nat) (s : State) : State :=
  afterChecks n (setPolicyChecks space policy pinGuard s) (setPolicy n space policy pinGuard) s

/-- The state after SET_POLICY. -/
def setPolicyStep (s : State) : State :=
  match nextTaken s with
  | some (n, .setPolicy space policy pinGuard) => carrySetPolicy n space policy pinGuard (takenSlot n s)
  | _ => s

/-- SET_POLICY: the Request Engine takes a SET_POLICY (R134). -/
def execSetPolicy (s : State) : Result := .next (whileRunning setPolicyStep s)

/-- The quota of a space becomes the one named, absent for 0 (R135, R194(2)). -/
def setQuota (n space quota : Nat) (s : State) : State :=
  awaitCatalogue n (modSpace space (fun r => { r with quota := if quota = 0 then none else some quota }) s)

/-- A SET_QUOTA in slot `n` is carried out (R135). -/
def carrySetQuota (n space quota : Nat) (s : State) : State :=
  afterChecks n (setQuotaChecks space quota s) (setQuota n space quota) s

/-- The state after SET_QUOTA. -/
def setQuotaStep (s : State) : State :=
  match nextTaken s with
  | some (n, .setQuota space quota) => carrySetQuota n space quota (takenSlot n s)
  | _ => s

/-- SET_QUOTA: the Request Engine takes a SET_QUOTA (R135). -/
def execSetQuota (s : State) : Result := .next (whileRunning setQuotaStep s)

/-- The keys of a space that have an index entry. -/
def keysOf (space : Nat) (s : State) : List Key :=
  (s.index.map (fun p => Key.ofCode p.1)).filter (fun k => k.space == space)

/-- Every index entry of a space is removed, with the adjustments of each (R15, R138(2)). -/
def removeSpace (space : Nat) (s : State) : State :=
  (keysOf space s).foldl (fun t k => changeEntry k none t) s

/-- The clear of a space (R138): the clear sequence becomes the next sequence, its index entries are removed, and its
usage and key count become 0. -/
def clearSpace (n space : Nat) (s : State) : State :=
  awaitCatalogue n (modSpace space (fun r => { r with clearSeq := nextSeqOf s, usage := 0, keyCount := 0 })
    (removeSpace space s))

/-- A CLEAR_SPACE in slot `n` is carried out (R137, R138). -/
def carryClearSpace (n space : Nat) (s : State) : State :=
  afterChecks n (clearChecks space s) (clearSpace n space) s

/-- The state after CLEAR_SPACE. -/
def clearSpaceStep (s : State) : State :=
  match nextTaken s with
  | some (n, .clearSpace space) => carryClearSpace n space (takenSlot n s)
  | _ => s

/-- CLEAR_SPACE: the Request Engine takes a CLEAR_SPACE (R138). -/
def execClearSpace (s : State) : Result := .next (whileRunning clearSpaceStep s)

/-- A FORMAT in slot `n` is carried out (R169, R170). -/
def carryFormat (n : Nat) (s : State) : State := afterChecks n (formatChecks s) (formatBegins n) s

/-- The state after FORMAT. -/
def formatStep (s : State) : State :=
  match nextTaken s with
  | some (n, .format) => carryFormat n (takenSlot n s)
  | _ => s

/-- FORMAT: the Request Engine takes a FORMAT (R169). -/
def execFormat (s : State) : Result := .next (whileRunning formatStep s)

/-- The state after FORMAT_EMPTYING; nothing happens before the blocks have come to rest. -/
def formatEmptyingStep (s : State) : State :=
  if formatAtRest s then settle (formatTake Config.firstData (formatEmpties s)) else s

/-- FORMAT_EMPTYING: the store is emptied and the erasing starts (R170). -/
def execFormatEmptying (s : State) : Result := .next (whileRunning formatEmptyingStep s)

end Sys2Proof.Machine
end

