-- ==== Sys2Proof/Machine/Completions.lean ====
section
/-! DEFINITION. Machine/Completions.lean: how array operations end and are suspended (4.1, R80 to R82). -/

namespace Sys2Proof.Machine

/-- The originator acts on the outcome of its read (R80(3)). The Patrol Unit takes no action of its own (R123). -/
def readOriginator (run : ReadRun) (o : ReadOutcome) (s : State) : State :=
  match run.origin with
  | .requestEngine =>
    match run.get with
    | some t => answerGet (getOutcome t o).1 (getOutcome t o).2 s
    | none => s
  | .startup => startupReadEnded run.seg run.page o s
  | .compaction => engineRead run.seg run.page o s
  | .patrolUnit => s
  | .hostStream => s
  | .relocStream => s
  | .writer => s

/-- A page read ends: Health, the originator, then a suspended erase goes on (R80). -/
def readEnds (run : ReadRun) (o : ReadOutcome) (s : State) : State :=
  settleAfterOp (suspendNext 2 (readOriginator run o (healthHandles run o (startOp none s))))

/-- The state after READ_COMPLETION: the read running delivers what the array reports of the page. A report that cannot be
of that page changes nothing (DESIGN CHOICE, assumption 4). -/
def readCompletionStep (report : ReadReport) (s : State) : State :=
  match s.arr.op with
  | some (.read run) =>
    if canReport (pageAt run.seg run.page s) report then
      readEnds run (deliver (pageAt run.seg run.page s) report) s
    else s
  | _ => s

/-- READ_COMPLETION (R80, R71). -/
def execReadCompletion (report : ReadReport) (s : State) : Result := .next (whileRunning (readCompletionStep report) s)

/-- The originator acts on the outcome of its program (R80(3), R73). -/
def programOriginator (origin : Originator) (ok : Bool) (s : State) : State :=
  match origin with
  | .hostStream => if ok then pageProgrammed .host s else pageFailed .host s
  | .relocStream => if ok then pageProgrammed .relocate s else pageFailed .relocate s
  | .compaction => engineHeader ok s
  | .writer => writerProgrammed ok s
  | .startup => startupHeader ok s
  | .requestEngine => s
  | .patrolUnit => s

/-- What a program leaves in its page (R73). -/
def programQuality (ok : Bool) : Quality := if ok then .sound else .unknown

/-- A page program ends (R73, R80). -/
def programEnds (origin : Originator) (seg page : Nat) (data : PageData) (ok : Bool) (s : State) : State :=
  settleAfterOp (programOriginator origin ok (setPage seg page data (programQuality ok) (startOp none s)))

/-- The state after PROGRAM_COMPLETION. -/
def programCompletionStep (ok : Bool) (s : State) : State :=
  match s.arr.op with
  | some (.program origin seg page data) => programEnds origin seg page data ok s
  | _ => s

/-- PROGRAM_COMPLETION (R73). -/
def execProgramCompletion (ok : Bool) (s : State) : Result := .next (whileRunning (programCompletionStep ok) s)

/-- The originator acts on the outcome of its erase (R80(3), R74). -/
def eraseOriginator (origin : Originator) (ok : Bool) (s : State) : State :=
  match origin with
  | .compaction => engineErased ok s
  | .writer => writerErased ok s
  | .startup => startupErased ok s
  | .hostStream => s
  | .relocStream => s
  | .requestEngine => s
  | .patrolUnit => s

/-- What an erase leaves of its segment (R74). -/
def eraseLeaves (ok : Bool) (seg : Nat) (s : State) : State :=
  if ok then blankSegment seg s else spoilSegment seg Quality.eraseFailed s

/-- A segment erase ends (R74, R80). -/
def eraseEnds (e : EraseRun) (ok : Bool) (s : State) : State :=
  settleAfterOp (eraseOriginator e.origin ok (eraseLeaves ok e.seg (startOp none s)))

/-- The state after ERASE_COMPLETION. -/
def eraseCompletionStep (ok : Bool) (s : State) : State :=
  match s.arr.op with
  | some (.erase e) => eraseEnds e ok s
  | _ => s

/-- ERASE_COMPLETION (R74). -/
def execEraseCompletion (ok : Bool) (s : State) : Result := .next (whileRunning (eraseCompletionStep ok) s)

/-- The state after ARRAY_OPERATION_TIMEOUT: the operation running is stopped and reported as a failed read or as FAIL
(R70, R72 to R74). -/
def timeoutStep (s : State) : State :=
  match s.arr.op with
  | some (.read run) => readEnds run failedRead s
  | some (.program origin seg page data) => programEnds origin seg page data false s
  | some (.erase e) => eraseEnds e false s
  | none => s

/-- ARRAY_OPERATION_TIMEOUT (R70). -/
def execArrayOperationTimeout (s : State) : Result := .next (whileRunning timeoutStep s)

/-- The state after ERASE_SUSPEND_TIMEOUT: an erase asked to suspend is stopped and reported FAIL (R81(c)). -/
def suspendTimeoutStep (s : State) : State :=
  match s.arr.op with
  | some (.erase e) => if s.arr.suspendRequested then eraseEnds e false s else s
  | _ => s

/-- ERASE_SUSPEND_TIMEOUT (R81). -/
def execEraseSuspendTimeout (s : State) : Result := .next (whileRunning suspendTimeoutStep s)

/-- The erase running is suspended and the waiting read is granted as a suspend read (R81(a), R82). -/
def suspendErase (e : EraseRun) (s : State) : State :=
  settle (suspendNext 2 { s with arr := { s.arr with op := none, suspended := some e } })

/-- The state after ERASE_SUSPENDED. -/
def eraseSuspendedStep (s : State) : State :=
  match s.arr.op with
  | some (.erase e) => if s.arr.suspendRequested then suspendErase e s else s
  | _ => s

/-- ERASE_SUSPENDED (R81). -/
def execEraseSuspended (s : State) : Result := .next (whileRunning eraseSuspendedStep s)

end Sys2Proof.Machine
end

