-- ==== Sys2Proof/Machine/Internal.lean ====
section
/-! DEFINITION. Machine/Internal.lean: the part's own steps: a waiting entry is placed, the held request proceeds, an
evacuation ends (R49, R105, R102). Each is a command of its own, as the opcode table lists it (DESIGN CHOICE, assumption
12). -/

namespace Sys2Proof.Machine

/-- The waiting entry of a stream leaves its place. -/
def clearWaiting (id : StreamId) (s : State) : State := modStream id (fun st => { st with waiting := none }) s

/-- The engine goes on with the entries of its page after a waiting copy has been handled (R98). -/
def resumeCopying (h : Handled) (s : State) : State :=
  match h with
  | .done t => copyLoop ((s.comp.victim.map Victim.todo).getD []) t
  | .waits t => t
  | .stopped t => t

/-- A waiting entry goes to the Write Path again: it is placed, or goes through the ask for a segment (R49, R50, R59(b)). -/
def placeWaiting (w : WaitingEntry) (s : State) : State :=
  match w with
  | .host n k value => storeFor n k value (clearWaiting .host s)
  | .copy e source => resumeCopying (handCopy e source (clearWaiting .relocate s)) s

/-- The state after WAITING_ENTRY_PLACED; nothing happens before the buffer has been committed (R49). -/
def waitingPlacedStep (id : StreamId) (s : State) : State :=
  match (streamOf id s).waiting with
  | none => s
  | some w =>
    if (streamOf id s).buffer.isEmpty && !(streamOf id s).stranded then settle (placeWaiting w s) else s

/-- WAITING_ENTRY_PLACED (R49). -/
def execWaitingEntryPlaced (id : StreamId) (s : State) : Result := .next (whileRunning (waitingPlacedStep id) s)

/-- The entry of a held request goes to the Write Path against the index as it stands (R105(1)). -/
def proceed (n : Nat) (r : Request) (s : State) : State :=
  match r with
  | .put k _ _ value => storeFor n k (some value) (setSlotState n .active s)
  | .delete k _ _ => storeFor n k none (setSlotState n .active s)
  | _ => s

/-- The state after HELD_REQUEST_PROCEEDS; nothing happens in the low-free condition. -/
def heldProceedsStep (s : State) : State :=
  match heldSlot s with
  | none => s
  | some n =>
    match slotAt n s with
    | none => s
    | some sl => if s.lowFree = false then settle (proceed n sl.request s) else s

/-- HELD_REQUEST_PROCEEDS (R105). -/
def execHeldRequestProceeds (s : State) : Result := .next (whileRunning heldProceedsStep s)

/-- The state after EVACUATION_END; nothing happens before the victim's copies are programmed (R101). -/
def evacuationEndStep (s : State) : State :=
  match s.comp.victim with
  | none => s
  | some v => if evacuationEnded v s then settle (decideFate v s) else s

/-- EVACUATION_END (R102). -/
def execEvacuationEnd (s : State) : Result := .next (whileRunning evacuationEndStep s)

end Sys2Proof.Machine
end

