-- ==== Sys2Proof/Machine/Reads.lean ====
section
/-! DEFINITION. Machine/Reads.lean: GET, LIST, SEGMENT_INFO and SPACE_INFO as the Request Engine takes them (1.10, 1.11,
11.2, 11.3). -/

namespace Sys2Proof.Machine

/-- A GET is answered from the index or from RAM, or its read is claimed in the HOST class (R16). -/
def getKey (n : Nat) (k : Key) (s : State) : State :=
  match getLookup k s with
  | .answered status data => answer n status data s
  | .onArray _ => makeClaim .host .requestEngine (.readKey k) s

/-- A GET in slot `n` is carried out (R189). -/
def carryGet (n : Nat) (k : Key) (s : State) : State :=
  afterChecks n [modeCheck false s, spaceCheck k.space] (getKey n k) s

/-- The state after GET. -/
def getStep (s : State) : State :=
  match nextTaken s with
  | some (n, .get k) => carryGet n k (takenSlot n s)
  | _ => s

/-- GET: the Request Engine takes a GET (R16). -/
def execGet (s : State) : Result := .next (whileRunning getStep s)

/-- The element of a present key in a LIST reply (R17). -/
def listItem (item : Nat) : IndexEntry → Option ListItem
  | .live seq len _ _ _ => some ⟨item, false, len, seq⟩
  | .lost seq len => some ⟨item, true, len, seq⟩
  | .tombstone _ _ _ => none

/-- An item lies after the cursor of a LIST (R17). -/
def afterCursor (after : Option Nat) (item : Nat) : Bool :=
  match after with
  | none => true
  | some a => decide (a < item)

/-- The present keys of a space after the cursor, in key order (R17). -/
def presentItems (space : Nat) (after : Option Nat) (index : List (Nat × IndexEntry)) : List ListItem :=
  index.filterMap (fun p =>
    if (Key.ofCode p.1).space = space ∧ afterCursor after (Key.ofCode p.1).item then
      listItem (Key.ofCode p.1).item p.2
    else none)

/-- The reply of a LIST: up to the maximum count, with the more flag (R17, R190). -/
def listing (space : Nat) (after : Option Nat) (maximum : Nat) (s : State) : ReplyData :=
  let all := presentItems space after s.index
  .listing (decide (maximum < all.length)) (all.take maximum)

/-- A LIST in slot `n` is carried out (R190). -/
def carryList (n space : Nat) (after : Option Nat) (maximum : Nat) (s : State) : State :=
  afterChecks n [modeCheck false s, spaceCheck space] (answer n .ok (listing space after maximum s)) s

/-- The state after LIST. -/
def listStep (s : State) : State :=
  match nextTaken s with
  | some (n, .list space after maximum) => carryList n space after maximum (takenSlot n s)
  | _ => s

/-- LIST: the Request Engine takes a LIST (R17). -/
def execList (s : State) : Result := .next (whileRunning listStep s)

/-- The report of a mirror (R192(1), R141). -/
def mirrorInfo (m : Mirror) (s : State) : ReplyData :=
  let current := s.cat.current == m
  .mirror (s.cat.mirror m).eraseCount current (if current then s.cat.nextPage.getD 0 else 0)
    ((s.cat.mirror m).gen.getD 0)

/-- The answer of a SEGMENT_INFO (R192(1)). In READY and READ_ONLY every data segment has a record; without one the
answer is BAD_REQUEST (DESIGN CHOICE, assumption 31). -/
def segmentAnswer (g : Nat) (s : State) : Status × ReplyData :=
  if g = 0 then (.ok, mirrorInfo .a s)
  else if g = 1 then (.ok, mirrorInfo .b s)
  else if Config.segments ≤ g then (.badRequest, .none)
  else match segAt g s with
    | some r => (.ok, .segment r)
    | none => (.badRequest, .none)

/-- A SEGMENT_INFO in slot `n` is carried out (R192). -/
def carrySegmentInfo (n g : Nat) (s : State) : State :=
  afterChecks n [modeCheck false s] (answer n (segmentAnswer g s).1 (segmentAnswer g s).2) s

/-- The state after SEGMENT_INFO. -/
def segmentInfoStep (s : State) : State :=
  match nextTaken s with
  | some (n, .segmentInfo g) => carrySegmentInfo n g (takenSlot n s)
  | _ => s

/-- SEGMENT_INFO: the Request Engine takes a SEGMENT_INFO (R192). -/
def execSegmentInfo (s : State) : Result := .next (whileRunning segmentInfoStep s)

/-- A SPACE_INFO in slot `n` is carried out (R192(2)). -/
def carrySpaceInfo (n space : Nat) (s : State) : State :=
  afterChecks n [modeCheck false s, spaceCheck space] (answer n .ok (.space (spaceAt space s))) s

/-- The state after SPACE_INFO. -/
def spaceInfoStep (s : State) : State :=
  match nextTaken s with
  | some (n, .spaceInfo space) => carrySpaceInfo n space (takenSlot n s)
  | _ => s

/-- SPACE_INFO: the Request Engine takes a SPACE_INFO (R192). -/
def execSpaceInfo (s : State) : Result := .next (whileRunning spaceInfoStep s)

end Sys2Proof.Machine
end

