-- ==== Sys2Proof/Machine/Receiver.lean ====
section
/-! DEFINITION. Machine/Receiver.lean: the receiver, the disposal of received frames and the immediate requests (10.2 to
10.4, 10.7, 10.8). A frame can end only inside one: the commands of this file that end a frame act while the receiver
is inside a frame, which FRAME_START_MARKER begins (DESIGN CHOICE, assumption 11). -/

namespace Sys2Proof.Machine

/-- A link counter rises by one and stays at 65,535 (R175). -/
def countUp (n : Nat) : Nat := min (n + 1) Config.countCap

/-- The receiver hunts from the next byte (R174). -/
def hunt (s : State) : State := modLink (fun l => { l with inside := false }) s

/-- Changes the link counters. -/
def modCounters (f : Counters → Counters) (s : State) : State :=
  modLink (fun l => { l with counters := f l.counters }) s

/-- A change that needs the receiver inside a frame: outside one no frame can end (R174). -/
def insideFrame (f : State → State) (s : State) : State := if s.link.inside then f s else s

/-! ## Errors of the receiver (R174) -/

/-- A length above 1,040 discards the frame (R174(2)). -/
def discardLength (s : State) : State :=
  hunt (modCounters (fun c => { c with lengthErrors := countUp c.lengthErrors }) s)

/-- A failed check discards the frame (R174(3)). -/
def discardCheck (s : State) : State :=
  hunt (modCounters (fun c => { c with checkErrors := countUp c.checkErrors }) s)

/-- A gap of more than 2 ms discards the frame (R174(4)). -/
def discardTimeout (s : State) : State :=
  hunt (modCounters (fun c => { c with timeouts := countUp c.timeouts }) s)

/-- LENGTH_ERROR (R174(2)). It counts during a soft reset too, until the reply zeroes it (DEDUCED, assumption 32). -/
def execLengthError (s : State) : Result := .next (whileRunning (insideFrame discardLength) s)

/-- FRAME_CHECK_FAILED (R174(3)). -/
def execFrameCheckFailed (s : State) : Result := .next (whileRunning (insideFrame discardCheck) s)

/-- RECEIVER_TIMEOUT (R174(4)). -/
def execReceiverTimeout (s : State) : Result := .next (whileRunning (insideFrame discardTimeout) s)

/-- FRAME_START_MARKER: a byte of A5H starts a frame while the receiver hunts, and is data inside one (R174(1)). -/
def execFrameStartMarker (s : State) : Result :=
  .next (whileRunning (modLink (fun l => { l with inside := true })) s)

/-! ## CANCEL (R183) -/

/-- The occupied slot that holds a tag. -/
def slotOfTag (tag : Byte) (s : State) : Option (Nat × Slot) := s.link.slots.find? (fun p => p.2.tag == tag)

/-- A request is a GET. -/
def Request.isGet : Request → Bool
  | .get _ => true
  | _ => false

/-- A GET that awaits its read is answered CANCELLED and the discard mark takes the place of the active slot (R181,
R183). -/
def cancelGet (n : Nat) (s : State) : State :=
  let t := answer n .cancelled .none s
  { t with engine := { active := none, discard := true } }

/-- A COMPACT leaves the COMPACT list and is answered CANCELLED (R93, R183). -/
def cancelCompact (n : Nat) (s : State) : State :=
  answer n .cancelled .none
    { s with comp := { s.comp with compacts := s.comp.compacts.filter (fun c => c.slot != n) } }

/-- The effect of a CANCEL on its target and the CANCEL's own answer (Table 10-3). -/
def cancelEffect (target : Byte) (s : State) : Status × State :=
  match slotOfTag target s with
  | none => (.unknownTag, s)
  | some (n, sl) =>
    match sl.state with
    | .queued => (.ok, answer n .cancelled .none s)
    | .held => (.ok, answer n .cancelled .none s)
    | .active => if Request.isGet sl.request then (.ok, cancelGet n s) else (.tooLate, s)
    | .awaitingCompaction => (.ok, cancelCompact n s)
    | .awaitingCommit => (.tooLate, s)
    | .awaitingCatalogue => (.tooLate, s)
    | .replyReady => (.unknownTag, s)

/-! ## Soft reset (R184) -/

/-- The Request Engine at a soft reset: no active slot, and the discard mark set for a GET awaiting its read (R181,
R184(1)). -/
def resetEngine (s : State) : Engine :=
  { active := none
    discard := s.engine.discard ||
      (match s.engine.active with
      | some n => match slotAt n s with
        | some sl => Request.isGet sl.request && sl.state == .active
        | none => false
      | none => false) }

/-- A waiter that is no barrier slot stays in the list (R154). -/
def Waiter.staysAtReset (w : Waiter) : Bool :=
  match w.who with
  | .slot _ => false
  | .segment _ => true

/-- The slots left at a soft reset: the one whose reply is being sent is freed when its frame ends (R184(2), R185;
DEDUCED, assumption 30). -/
def keptSlots (s : State) : List (Nat × Slot) :=
  match sendingSlot s with
  | none => []
  | some n => (s.link.slots.filter (fun p => p.1 == n)).map (fun p => (p.1, { p.2 with arrival := 1 }))

/-- A HOST entry that waits is discarded with its slot (R67). -/
def dropWaiting (st : Stream) : Stream := { st with waiting := none }

/-- A soft reset begins (R184(1)): slots, COMPACT list, SYNC marks, barrier waiters and a waiting HOST entry are emptied,
and the HOST stream gains its commit cause (R67, R110, R154, R172). -/
def resetBegins (tag : Byte) (s : State) : State :=
  commitCause .host { s with
    engine := resetEngine s
    comp := { s.comp with compacts := [] }
    syncMarks := []
    host := dropWaiting s.host
    cat := { s.cat with waiters := s.cat.waiters.filter Waiter.staysAtReset }
    startup := { s.startup with format := s.startup.format.map (fun f => { f with slot := none }) }
    link := { s.link with
      slots := keptSlots s
      replyOrder := []
      softReset := some ⟨tag, s.cat.write.map (fun w => w.snap.gen)⟩ } }

/-! ## Disposal (R176, R177) -/

/-- An answer that finds 4 in the list is dropped and REFUSALS_DROPPED rises (R177). -/
def dropAnswer (s : State) : State :=
  modCounters (fun c => { c with refusalsDropped := countUp c.refusalsDropped }) s

/-- The immediate reply list can take an answer (R177). -/
def immediateRoom (s : State) : Bool := decide (s.link.immediate.length < Config.immediatePlaces)

/-- An answer enters the immediate reply list (R177). -/
def pushAnswer (a : Answer) (s : State) : State :=
  modLink (fun l => { l with immediate := l.immediate ++ [a] }) s

/-- A refusal at arrival, or its drop (R176, R177). -/
def refuseFrame (f : RxFrame) (status : Status) (s : State) : State :=
  if immediateRoom s then pushAnswer ⟨replyType f.type, f.tag, status, .none, false⟩ s else dropAnswer s

/-- An immediate request is carried out at arrival (R182 to R184). -/
def doImmediate (f : RxFrame) (i : Immediate) (s : State) : State :=
  match i with
  | .reset => settle (resetBegins f.tag s)
  | .identify =>
    calm (if immediateRoom s then pushAnswer ⟨replyType f.type, f.tag, .ok, .identity, false⟩ s else dropAnswer s)
  | .status =>
    calm (if immediateRoom s then pushAnswer ⟨replyType f.type, f.tag, .ok, .none, true⟩ s else dropAnswer s)
  | .cancel target =>
    calm (if immediateRoom s then
      pushAnswer ⟨replyType f.type, f.tag, (cancelEffect target s).1, .none, false⟩ (cancelEffect target s).2
    else dropAnswer s)

/-- The free slot with the lowest number (R176). -/
def lowestFree (s : State) : Option Nat :=
  Store.firstFrom (fun n => (Store.get n s.link.slots).isNone) Config.slots 0

/-- The Request Table with a QUEUED request in slot `n`, as the newest (R178). -/
def occupy (n : Nat) (tag : Byte) (r : Request) (slots : List (Nat × Slot)) : List (Nat × Slot) :=
  Store.put n ⟨tag, r, slots.length + 1, .queued, none, none⟩ slots

/-- A frame takes the lowest free slot, QUEUED, as the newest (R176, R178); with none free it is answered QUEUE_FULL. -/
def takeSlot (f : RxFrame) (r : Request) (s : State) : State :=
  match lowestFree s with
  | none => refuseFrame f .queueFull s
  | some n => modLink (fun l => { l with slots := occupy n f.tag r l.slots }) s

/-- Tests 4, 5, 7 and 8 of Table 10-1, for a well-formed request that takes a slot. -/
def queueFrame (f : RxFrame) (r : Request) (s : State) : State :=
  if s.startup.mode = .mounting then refuseFrame f .notReady s
  else if (slotOfTag f.tag s).isSome then refuseFrame f .tagInUse s
  else takeSlot f r s

/-- A frame received whole is disposed of (R176): test 6 before any other, then tests 1 to 5, 7 and 8 of Table 10-1. -/
def dispose (f : RxFrame) (s : State) : State :=
  if s.link.softReset.isSome then s
  else if f.tag = 0#8 then calm (refuseFrame f .badTag s)
  else
    match parseImmediate f.type f.body, parseQueued f.type f.body with
    | some i, _ => doImmediate f i s
    | none, some r => calm (queueFrame f r s)
    | none, none => calm (refuseFrame f .badRequest s)

/-- The end of a frame, by its length and its check (R174(2), (3)). A body that does not have the stated length is no
frame the receiver can end with. -/
def frameEnds (f : RxFrame) (s : State) : State :=
  if Config.maxBody < f.length.toNat then discardLength s
  else if f.body.length ≠ f.length.toNat then s
  else if RxFrame.checkPasses f then dispose f (hunt s)
  else discardCheck s

/-- A frame ends while the receiver is inside one. -/
def receive (f : RxFrame) (s : State) : State := whileRunning (insideFrame (frameEnds f)) s

/-- FRAME_RECEIVED (R176). -/
def execFrameReceived (f : RxFrame) (s : State) : Result := .next (receive f s)

/-- IDENTIFY arrives and is answered with the identification of the part (R182, R195). -/
def execIdentify (tag : Byte) (s : State) : Result := .next (receive (RxFrame.make 0x01#8 tag []) s)

/-- STATUS arrives and is answered with data taken when its frame is built (R182, R196). -/
def execStatus (tag : Byte) (s : State) : Result := .next (receive (RxFrame.make 0x02#8 tag []) s)

/-- CANCEL arrives and acts on the slot that holds its target tag (R183). -/
def execCancel (tag target : Byte) (s : State) : Result := .next (receive (RxFrame.make 0x03#8 tag [target]) s)

/-- RESET arrives and a soft reset begins (R184). -/
def execReset (tag : Byte) (s : State) : Result := .next (receive (RxFrame.make 0x04#8 tag []) s)

/-! ## The RESET reply and the transmitter -/

/-- The HOST stream holds the RESET reply back no further: no pending entry, or stranded (R67). -/
def hostDrained (s : State) : Bool := s.host.stranded || (s.host.inFlight.isNone && s.host.buffer.isEmpty)

/-- The snapshot in flight at the RESET has completed, or the catalogue has failed (R184(3)). -/
def snapshotEnded (r : SoftReset) (s : State) : Bool :=
  match r.snapshot with
  | none => true
  | some gen => (s.cat.write.map (fun w => w.snap.gen)) != some gen

/-- The RESET reply is built (R184(4)). It waits behind an earlier RESET's reply that the transmitter has not chosen yet
(DESIGN CHOICE, assumption 48). -/
def buildResetReply (r : SoftReset) (s : State) : State :=
  finish (modLink (fun l => { l with
    inside := false
    counters := ⟨0, 0, 0, 0⟩
    immediate := []
    notices := []
    noticeGuard := 0
    resetReplies := l.resetReplies ++ [.reply 0x84#8 r.tag .ok 8 .none none]
    softReset := none }) s)

/-- The state after RESET_REPLY_BUILT; nothing happens before both conditions of R184(3) hold. -/
def resetReplyStep (s : State) : State :=
  match s.link.softReset with
  | none => s
  | some r => if hostDrained s && snapshotEnded r s then buildResetReply r s else s

/-- RESET_REPLY_BUILT (R184(4)). -/
def execResetReplyBuilt (s : State) : Result := .next (whileRunning resetReplyStep s)

/-- A frame has been sent: its slot, if it is a slot's reply, is freed (R179). -/
def frameLeaves (f : TxFrame) (s : State) : State :=
  modLink (fun l => { l with
    sending := none
    slots := match TxFrame.slot? f with
      | some n => freeSlot n l.slots
      | none => l.slots }) s

/-- The state after FRAME_SENT; nothing happens while no frame is being sent. -/
def frameSentStep (s : State) : State :=
  match s.link.sending with
  | none => s
  | some f => calm (frameLeaves f s)

/-- FRAME_SENT: the last byte of a frame is sent (R179, R185). -/
def execFrameSent (s : State) : Result := .next (whileRunning frameSentStep s)

end Sys2Proof.Machine
end

