-- ==== Sys2Proof/Machine/Settings.lean ====
section
/-! DEFINITION. Machine/Settings.lean: SET_PARAM, FREEZE and COMPACT as the Request Engine takes them (11.3, 7.4,
5.2). -/

namespace Sys2Proof.Machine

/-- The value of a SET_PARAM is accepted (R193, Table 11-3). -/
def paramAccepted (code value : Nat) (p : Params) : Bool :=
  match code with
  | 1 => decide (value ≤ 50)
  | 2 => decide (value = 0) || (decide (10 ≤ value) && decide (value ≤ 10000))
  | 3 => decide (1 ≤ value) && decide (value ≤ 12)
  | 4 => decide (6 ≤ value) && decide (value ≤ 64) && decide (value + 2 ≤ p.compactStop)
  | 5 => decide (p.compactStart + 2 ≤ value) && decide (value ≤ 96)
  | _ => false

/-- The parameters with one set (Table 11-3). -/
def Params.set (code value : Nat) (p : Params) : Params :=
  match code with
  | 1 => { p with commitWindow := value }
  | 2 => { p with patrolInterval := value }
  | 3 => { p with threshold := value }
  | 4 => { p with compactStart := value }
  | 5 => { p with compactStop := value }
  | _ => p

/-- The patrol timer restarts with a new interval, or stops at 0 (R120). -/
def restartPatrol (value : Nat) (s : State) : State :=
  { s with patrol := { s.patrol with timer := if value = 0 then none else some value } }

/-- What a new value does at once (R193): the patrol interval restarts the timer (R120), a lowered threshold queues
segments (R112). A new watermark is seen by the next start test or run decision. -/
def paramTakesEffect (code value old : Nat) (s : State) : State :=
  match code with
  | 2 => restartPatrol value s
  | 3 => if value < old then thresholdLowered value s else s
  | _ => s

/-- A SET_PARAM is carried out: BAD_PARAM, or the value is taken at once and OK answered (R193). -/
def setParam (n code value : Nat) (s : State) : State :=
  if paramAccepted code value s.params then
    answer n .ok .none (paramTakesEffect code value s.params.threshold { s with params := Params.set code value s.params })
  else answer n .badParam .none s

/-- A SET_PARAM in slot `n` is carried out (R193). -/
def carrySetParam (n code value : Nat) (s : State) : State :=
  afterChecks n [modeCheck false s] (setParam n code value) s

/-- The state after SET_PARAM. -/
def setParamStep (s : State) : State :=
  match nextTaken s with
  | some (n, .setParam code value) => carrySetParam n code value (takenSlot n s)
  | _ => s

/-- SET_PARAM: the Request Engine takes a SET_PARAM (R193). -/
def execSetParam (s : State) : Result := .next (whileRunning setParamStep s)

/-- The frozen field of a space becomes yes and the FREEZE is answered OK (R128). -/
def freezeSpace (n space : Nat) (s : State) : State :=
  answer n .ok .none (modSpace space (fun r => { r with frozen := true }) s)

/-- A FREEZE in slot `n` is carried out (R128). -/
def carryFreeze (n space : Nat) (s : State) : State :=
  afterChecks n [modeCheck false s, spaceCheck space] (freezeSpace n space) s

/-- The state after FREEZE. -/
def freezeStep (s : State) : State :=
  match nextTaken s with
  | some (n, .freeze space) => carryFreeze n space (takenSlot n s)
  | _ => s

/-- FREEZE: the Request Engine takes a FREEZE (R128). -/
def execFreeze (s : State) : Result := .next (whileRunning freezeStep s)

/-- The mode check of a COMPACT: READ_ONLY_MODE carries the free count (R191, R187(3)). -/
def compactCheck (s : State) : Option (Status × ReplyData) :=
  match s.startup.mode with
  | .readOnly => some (.readOnlyMode, .freeCount s.freeCount)
  | _ => modeCheck true s

/-- A COMPACT is answered when its target is reached, and otherwise joins the COMPACT list (R93). The start condition is
tested at the end of the change. -/
def compactSlot (n : Nat) (target : Option Nat) (s : State) : State :=
  let goal := target.getD s.params.compactStop
  if goal ≤ s.freeCount then answer n .ok (.freeCount s.freeCount) s
  else release n (setSlotState n .awaitingCompaction
    { s with comp := { s.comp with compacts := s.comp.compacts ++ [⟨n, goal⟩] } })

/-- A COMPACT in slot `n` is carried out (R93, R191). -/
def carryCompact (n : Nat) (target : Option Nat) (s : State) : State :=
  afterChecks n [compactCheck s] (compactSlot n target) s

/-- The state after COMPACT. -/
def compactStep (s : State) : State :=
  match nextTaken s with
  | some (n, .compact target) => carryCompact n target (takenSlot n s)
  | _ => s

/-- COMPACT: the Request Engine takes a COMPACT (R93). -/
def execCompact (s : State) : Result := .next (whileRunning compactStep s)

end Sys2Proof.Machine
end

