-- ==== Sys2Proof/Machine/Supply.lean ====
section
/-! DEFINITION. Machine/Supply.lean: the commands of the supply and of the three lines (9.2, 4.6, 3.9, 7.3). -/

namespace Sys2Proof.Machine

/-- An erase cut short leaves every page of its segment blank or unreadable (R84(3); DEDUCED, assumption 16). -/
def cutErase (e : Option EraseRun) (s : State) : State :=
  match e with
  | some e => spoilSegment e.seg (fun _ => .halfErased) s
  | none => s

/-- The operation running is aborted: a read leaves its page unchanged, a program leaves a torn page, an erase leaves its
segment unreadable (R84). -/
def cutOperation (op : Option ArrayOp) (s : State) : State :=
  match op with
  | some (.program _ seg page data) => setPage seg page data .torn s
  | some (.erase e) => cutErase (some e) s
  | _ => s

/-- The array work in flight, running or suspended, is cut short (R84). -/
def cutShort (s : State) : State := cutErase s.arr.suspended (cutOperation s.arr.op s)

/-- Work in flight is cut short and every block takes its power-on value (R158, R84). -/
def discardAll (s : State) : State := State.held (cutShort s)

/-- RST is deasserted with the supply present: the mode is MOUNTING and mount begins (R158). -/
def boot (s : State) : State := settle (mountBegins s)

/-- The state after POWER_ON (R158). -/
def powerOnStep (s : State) : State :=
  let t := { discardAll s with powered := true }
  if s.rst then t else boot t

/-- POWER_ON: the supply reaches its operating range, which acts as an RST that is deasserted (R158). While the RST line
is asserted the part stays held (DESIGN CHOICE, assumption 33). -/
def execPowerOn (s : State) : Result := .next (powerOnStep s)

/-- POWER_LOSS acts as an assertion of RST that lasts until power returns (R158). -/
def execPowerLoss (s : State) : Result := .next { discardAll s with powered := false }

/-- RST_ASSERTED: the part is held, the operation in flight is aborted and all block state takes its power-on value
(R158, R84). -/
def execRstAsserted (s : State) : Result := .next { discardAll s with rst := true }

/-- The state after RST_DEASSERTED; nothing happens when RST was not asserted or there is no supply to run from. -/
def rstDeassertedStep (s : State) : State :=
  if s.rst then
    if s.powered then boot { s with rst := false } else { s with rst := false }
  else s

/-- RST_DEASSERTED: the mode is MOUNTING and mount begins its CATALOGUE phase (R158). -/
def execRstDeasserted (s : State) : Result := .next (rstDeassertedStep s)

/-- WP_CHANGED: the level of WP changes and nothing else does (R127), in a held part as well (DESIGN CHOICE, assumption
34). -/
def execWpChanged (asserted : Bool) (s : State) : Result := .next { s with wp := asserted }

/-- The level of PFW with the pause mark that follows it (R108, R110). -/
def setPfw (level : Bool) (s : State) : State :=
  { s with pfw := level, comp := { s.comp with paused := level } }

/-- The state after PFW_ASSERTED: a running part stops the commit timer, gains the HOST commit cause and withdraws the
Compaction Engine's read or erase claim and the Patrol Unit's claim (R64, R108(1), R123(2)). -/
def pfwAssertedStep (s : State) : State :=
  if s.pfw then s
  else if isHeld s then setPfw true s
  else
    settle (withdrawPatrol (withdrawEngineWork (commitCause .host { setPfw true s with commitTimer := none })))

/-- PFW_ASSERTED (R64). -/
def execPfwAsserted (s : State) : Result := .next (pfwAssertedStep s)

/-- The state after PFW_DEASSERTED: the pause mark is cleared, withdrawn claims are made again and the start condition is
tested (R65, R108). -/
def pfwDeassertedStep (s : State) : State :=
  if s.pfw then
    if isHeld s then setPfw false s else settle (setPfw false s)
  else s

/-- PFW_DEASSERTED (R65). -/
def execPfwDeasserted (s : State) : Result := .next (pfwDeassertedStep s)

end Sys2Proof.Machine
end

