-- ==== Sys2Proof/Machine/Timers.lean ====
section
/-! DEFINITION. Machine/Timers.lean: the expiries of the commit window timer and the patrol timer (3.4, 6.8).
Time itself is not modelled (DESIGN CHOICE, assumption 13). -/

namespace Sys2Proof.Machine

/-- The state after COMMIT_WINDOW_EXPIRY: a commit cause of the HOST stream; an expiry that finds the timer stopped has no
effect (R52). -/
def commitWindowStep (s : State) : State :=
  if s.commitTimer.isSome then settle (commitCause .host { s with commitTimer := none }) else s

/-- COMMIT_WINDOW_EXPIRY (R52). -/
def execCommitWindowExpiry (s : State) : Result := .next (whileRunning commitWindowStep s)

/-- A segment is FULL. -/
def isFull (s : State) (g : Nat) : Bool := segState g s == some .full

/-- The page the patrol reads from its cursor (R122). -/
def patrolPage (s : State) : Option (Nat × Nat) :=
  if isFull s s.patrol.seg then some (s.patrol.seg, s.patrol.page)
  else
    match Store.firstFrom (isFull s) (Config.segments - (s.patrol.seg + 1)) (s.patrol.seg + 1) with
    | some g => some (g, 1)
    | none => (Store.firstFrom (isFull s) Config.segments 0).map (fun g => (g, 1))

/-- The cursor after a page (R122). -/
def cursorAfter (seg page : Nat) : Nat × Nat :=
  if page < Config.lastPage then (seg, page + 1)
  else if seg + 1 < Config.segments then (seg + 1, 1)
  else (Config.firstData, 1)

/-- The three conditions of a patrol claim (R121). -/
def patrolAllowed (s : State) : Bool :=
  s.startup.mode == .ready && !s.pfw && !(s.arr.patPlace.toList ++ s.arr.outside).any (fun c => c.origin == .patrolUnit)

/-- A patrol read is claimed and the cursor advances (R121, R122). -/
def patrolClaim (s : State) : State :=
  match patrolPage s with
  | none => s
  | some (g, p) =>
    makeClaim .patrol .patrolUnit (.read g p)
      { s with patrol := { s.patrol with seg := (cursorAfter g p).1, page := (cursorAfter g p).2 } }

/-- The state after PATROL_TIMER_EXPIRY: a skipped expiry changes nothing, and a stopped timer does not expire (R120,
R121). -/
def patrolStep (s : State) : State :=
  if s.patrol.timer.isSome && patrolAllowed s then settle (patrolClaim s) else s

/-- PATROL_TIMER_EXPIRY (R121). -/
def execPatrolTimerExpiry (s : State) : Result := .next (whileRunning patrolStep s)

end Sys2Proof.Machine
end

