-- ==== Sys2Proof/Machine/Writes.lean ====
section
/-! DEFINITION. Machine/Writes.lean: PUT, DELETE and SYNC as the Request Engine takes them (3.3, 3.5, 7.6). -/

namespace Sys2Proof.Machine

/-- A PUT in slot `n` is carried out (R131, R188). -/
def carryPut (n : Nat) (k : Key) (expected : Option Nat) (value : List Byte) (s : State) : State :=
  afterChecks n (putChecks k expected value.length s) (storeFor n k (some value)) s

/-- The state after PUT. -/
def putStep (s : State) : State :=
  match nextTaken s with
  | some (n, .put k _ expected value) => carryPut n k expected value (takenSlot n s)
  | _ => s

/-- PUT: the Request Engine takes a PUT, when that is the request it takes next (R188). -/
def execPut (s : State) : Result := .next (whileRunning putStep s)

/-- A DELETE that passed its checks: a TOMBSTONE is placed for a present key, an absent one is answered NOT_FOUND (R9,
R131). -/
def deleteKey (n : Nat) (k : Key) (s : State) : State :=
  if isPresent (lookup k s) then storeFor n k none s else answer n .notFound .none s

/-- A DELETE in slot `n` is carried out (R131, R188). -/
def carryDelete (n : Nat) (k : Key) (expected : Option Nat) (s : State) : State :=
  afterChecks n (deleteChecks k expected s) (deleteKey n k) s

/-- The state after DELETE. -/
def deleteStep (s : State) : State :=
  match nextTaken s with
  | some (n, .delete k _ expected) => carryDelete n k expected (takenSlot n s)
  | _ => s

/-- DELETE: the Request Engine takes a DELETE (R9). -/
def execDelete (s : State) : Result := .next (whileRunning deleteStep s)

/-- The HOST stream holds a pending entry (R58). -/
def hostPending (s : State) : Bool := !s.host.pendingEntries.isEmpty

/-- The mark of a SYNC: the highest sequence placed in the HOST stream, which is pending (R58). -/
def syncMark (s : State) : Nat := (highestOf (seqsOf s.host.pendingEntries)).getD 0

/-- A SYNC is answered at once, or its mark is recorded and the HOST buffer gains a commit cause (R58, R53). A mark that
would cover stranded entries is answered MEDIA_FAULT (R157, R191). -/
def syncSlot (n : Nat) (s : State) : State :=
  if s.host.stranded then answer n .mediaFault .none s
  else if hostPending s then
    commitCause .host (release n (setSlotState n .awaitingCommit
      { s with syncMarks := s.syncMarks ++ [⟨n, syncMark s⟩] }))
  else answer n .ok .none s

/-- A SYNC in slot `n` is carried out (R191). -/
def carrySync (n : Nat) (s : State) : State := afterChecks n [modeCheck false s] (syncSlot n) s

/-- The state after SYNC. -/
def syncStep (s : State) : State :=
  match nextTaken s with
  | some (n, .sync) => carrySync n (takenSlot n s)
  | _ => s

/-- SYNC: the Request Engine takes a SYNC (R58). -/
def execSync (s : State) : Result := .next (whileRunning syncStep s)

end Sys2Proof.Machine
end

