-- ==== Sys2Proof/Machine/Dispatch.lean ====
section
/-! DEFINITION. Machine/Dispatch.lean: the meaning of every command, one arm per row of spec/opcode_table.json. -/

namespace Sys2Proof.Machine

/-- The effect of a command on everything but the queue. -/
def exec (i : Instr) (s : State) : Host.Outcome State Fault Refusal :=
  match i with
  | .powerOn => Sys2Proof.Machine.execPowerOn s
  | .powerLoss => Sys2Proof.Machine.execPowerLoss s
  | .rstAsserted => Sys2Proof.Machine.execRstAsserted s
  | .rstDeasserted => Sys2Proof.Machine.execRstDeasserted s
  | .wpChanged asserted => Sys2Proof.Machine.execWpChanged asserted s
  | .pfwAsserted => Sys2Proof.Machine.execPfwAsserted s
  | .pfwDeasserted => Sys2Proof.Machine.execPfwDeasserted s
  | .lengthError => Sys2Proof.Machine.execLengthError s
  | .frameCheckFailed => Sys2Proof.Machine.execFrameCheckFailed s
  | .receiverTimeout => Sys2Proof.Machine.execReceiverTimeout s
  | .frameReceived frame => Sys2Proof.Machine.execFrameReceived frame s
  | .identify tag => Sys2Proof.Machine.execIdentify tag s
  | .status tag => Sys2Proof.Machine.execStatus tag s
  | .cancel tag target => Sys2Proof.Machine.execCancel tag target s
  | .reset tag => Sys2Proof.Machine.execReset tag s
  | .resetReplyBuilt => Sys2Proof.Machine.execResetReplyBuilt s
  | .put => Sys2Proof.Machine.execPut s
  | .delete => Sys2Proof.Machine.execDelete s
  | .get => Sys2Proof.Machine.execGet s
  | .list => Sys2Proof.Machine.execList s
  | .sync => Sys2Proof.Machine.execSync s
  | .compact => Sys2Proof.Machine.execCompact s
  | .segmentInfo => Sys2Proof.Machine.execSegmentInfo s
  | .spaceInfo => Sys2Proof.Machine.execSpaceInfo s
  | .setParam => Sys2Proof.Machine.execSetParam s
  | .freeze => Sys2Proof.Machine.execFreeze s
  | .setPolicy => Sys2Proof.Machine.execSetPolicy s
  | .setQuota => Sys2Proof.Machine.execSetQuota s
  | .clearSpace => Sys2Proof.Machine.execClearSpace s
  | .format => Sys2Proof.Machine.execFormat s
  | .formatEmptying => Sys2Proof.Machine.execFormatEmptying s
  | .frameSent => Sys2Proof.Machine.execFrameSent s
  | .commitWindowExpiry => Sys2Proof.Machine.execCommitWindowExpiry s
  | .patrolTimerExpiry => Sys2Proof.Machine.execPatrolTimerExpiry s
  | .arrayOperationTimeout => Sys2Proof.Machine.execArrayOperationTimeout s
  | .eraseSuspendTimeout => Sys2Proof.Machine.execEraseSuspendTimeout s
  | .readCompletion report => Sys2Proof.Machine.execReadCompletion report s
  | .programCompletion ok => Sys2Proof.Machine.execProgramCompletion ok s
  | .eraseCompletion ok => Sys2Proof.Machine.execEraseCompletion ok s
  | .eraseSuspended => Sys2Proof.Machine.execEraseSuspended s
  | .waitingEntryPlaced stream => Sys2Proof.Machine.execWaitingEntryPlaced stream s
  | .heldRequestProceeds => Sys2Proof.Machine.execHeldRequestProceeds s
  | .evacuationEnd => Sys2Proof.Machine.execEvacuationEnd s
  | .frameStartMarker => Sys2Proof.Machine.execFrameStartMarker s

end Sys2Proof.Machine
end

