-- ==== Sys2Proof/Safety.lean ====
section
/-! DEFINITION. Safety.lean: the words the claims about the part are stated in: the invariants of its tables and of the
Host Link, and what a command is taken under. No meaning ends in a fault or a refusal, so a run is safe when the
invariants hold in each of its states. -/

namespace Sys2Proof.Machine

/-! ## Invariants -/

/-- The marks of the scan are listed in rising segment order. -/
def marksCanonical (s : State) : Prop :=
  match s.startup.mount with
  | none => True
  | some m => Store.Canonical m.marks

/-- Every table of the state is listed in strictly rising order, without duplicates. -/
def TablesCanonical (s : State) : Prop :=
  Store.Canonical s.flash ∧ Store.Canonical s.index ∧ Store.Canonical s.segs ∧ Store.Canonical s.spaces ∧
    Store.Canonical s.link.slots ∧ marksCanonical s

/-- An OVERFLOW notice can only be the newest of a queue. -/
def overflowNewest : List Notice → Bool
  | [] => true
  | [_] => true
  | n :: rest => !Notice.isOverflow n && overflowNewest rest

/-- The Notice Queue holds at most 12 notices, and without an OVERFLOW notice at most 11; an OVERFLOW notice is the newest
(R186). -/
def NoticesBounded (q : List Notice) : Prop :=
  q.length ≤ 12 ∧ (q.any Notice.isOverflow = false → q.length ≤ 11) ∧ overflowNewest q = true

/-- The Request Table holds slots 0 to 7, none with tag 0, no two with the same tag, with arrival numbers that are
distinct and lie from 1 to the number of occupied slots (R178). -/
def RequestTableSound (slots : List (Nat × Slot)) : Prop :=
  Store.Canonical slots ∧ (∀ p ∈ slots, p.1 < Config.slots ∧ p.2.tag ≠ 0#8) ∧
    (slots.map (fun p => p.2.tag)).Nodup ∧ (slots.map (fun p => p.2.arrival)).Nodup ∧
    ∀ p ∈ slots, 1 ≤ p.2.arrival ∧ p.2.arrival ≤ slots.length

/-- The immediate reply list, the notice guard count, the starvation guard count and the link counters keep their bounds
(R177, R185, R79, R175). -/
def CountsBounded (s : State) : Prop :=
  s.link.immediate.length ≤ Config.immediatePlaces ∧ s.link.noticeGuard ≤ 4 ∧ s.arr.guardCount ≤ 4 ∧
    s.link.counters.checkErrors ≤ Config.countCap ∧ s.link.counters.lengthErrors ≤ Config.countCap ∧
    s.link.counters.timeouts ≤ Config.countCap ∧ s.link.counters.refusalsDropped ≤ Config.countCap

/-! ## Under what a command acts -/

/-- The commands of the supply and of the lines, the only ones a held part acts on (R158). -/
def isLineCommand : Instr → Bool
  | .powerOn => true
  | .powerLoss => true
  | .rstAsserted => true
  | .rstDeasserted => true
  | .wpChanged _ => true
  | .pfwAsserted => true
  | .pfwDeasserted => true
  | _ => false

/-- The commands that discard the state of every block (R158). -/
def isResetCommand : Instr → Bool
  | .powerOn => true
  | .powerLoss => true
  | .rstAsserted => true
  | .rstDeasserted => true
  | _ => false

/-- The command by which the Request Engine takes a request (R181). -/
def requestCommand : Request → Instr
  | .put _ _ _ _ => .put
  | .delete _ _ _ => .delete
  | .get _ => .get
  | .list _ _ _ => .list
  | .sync => .sync
  | .compact _ => .compact
  | .segmentInfo _ => .segmentInfo
  | .spaceInfo _ => .spaceInfo
  | .setParam _ _ => .setParam
  | .freeze _ => .freeze
  | .setPolicy _ _ _ => .setPolicy
  | .setQuota _ _ => .setQuota
  | .clearSpace _ => .clearSpace
  | .format => .format

/-- The commands by which the Request Engine takes a request. -/
def isTaking : Instr → Bool
  | .put => true
  | .delete => true
  | .get => true
  | .list => true
  | .sync => true
  | .compact => true
  | .segmentInfo => true
  | .spaceInfo => true
  | .setParam => true
  | .freeze => true
  | .setPolicy => true
  | .setQuota => true
  | .clearSpace => true
  | .format => true
  | _ => false

/-- The part runs with its slots listed in order, and the request its Request Engine takes next is `r` in slot `n`
(R181). -/
def Takes (n : Nat) (r : Request) (s : State) : Prop :=
  isHeld s = false ∧ Store.Canonical s.link.slots ∧ nextTaken s = some (n, r)

/-- Slot `n` is answered; no other slot and nothing else of the state changes (R179). -/
def answeredIn (n : Nat) (status : Status) (data : ReplyData) (s : State) : State :=
  modSlot n (Slot.answered status data) s

/-- Neither mount nor FORMAT is in progress. -/
def Settled (s : State) : Prop := s.startup.mount = none ∧ s.startup.format = none

/-- Requests of the reading kind are carried out: READY or READ_ONLY (Table 9-4). -/
def Serves (s : State) : Prop := s.startup.mode = .ready ∨ s.startup.mode = .readOnly

/-- A frame ends whole inside the receiver of a running part: its body has the stated length of at most 1,040 bytes and
its check passes (R174). -/
def EndsWhole (f : RxFrame) (s : State) : Prop :=
  isHeld s = false ∧ s.link.inside = true ∧ f.length.toNat ≤ Config.maxBody ∧ f.body.length = f.length.toNat ∧
    RxFrame.checkPasses f = true

/-- A short frame with tag `tag` ends inside the receiver of a running part, in no soft reset (R174, R176). -/
def Arrives (tag : Byte) (s : State) : Prop :=
  isHeld s = false ∧ s.link.inside = true ∧ s.link.softReset = none ∧ tag ≠ 0#8

/-- The immediate reply list has room (R177). -/
def HasRoom (s : State) : Prop := s.link.immediate.length < Config.immediatePlaces

/-- Table 10-1 as a table: the status with which a frame that ends whole outside a soft reset is answered at once; absent
for an immediate request and for a frame that takes a slot (R176). -/
def arrivalRefusal (f : RxFrame) (s : State) : Option Status :=
  if f.tag = 0#8 then some .badTag
  else if (parseImmediate f.type f.body).isNone ∧ (parseQueued f.type f.body).isNone then some .badRequest
  else if (parseImmediate f.type f.body).isSome then none
  else if s.startup.mode = .mounting then some .notReady
  else if s.link.slots.any (fun p => p.2.tag == f.tag) then some .tagInUse
  else if (List.range Config.slots).all (fun n => (slotAt n s).isSome) then some .queueFull
  else none

/-! ## Power-on values (R158) -/

/-- The part held: every block has the value it has right after reset, no mount is in progress and the array works on
nothing; the array's pages, the lines and the model's own fields come from `s`. -/
def heldFrom (powered rst : Bool) (s : State) : State :=
  { State.reset with
    powered := powered, rst := rst, wp := s.wp, pfw := s.pfw
    flash := (cutShort s).flash
    arr := ArrayCtl.idle
    comp := { State.reset.comp with paused := s.pfw }
    startup := { State.reset.startup with mount := none }
    freeDraws := s.freeDraws
    pending := s.pending }

/-- Mount has just begun: every block has the value it has right after reset; the array's pages, the lines and the model's
own fields come from `s`. -/
def mountFrom (s : State) : State :=
  { State.reset with
    wp := s.wp, pfw := s.pfw
    flash := (cutShort s).flash
    comp := { State.reset.comp with paused := s.pfw }
    freeDraws := s.freeDraws
    pending := s.pending }

/-- The cells an index entry, if any, has located in segment `g` (R4). -/
def cellsIn (g : Nat) (e : Option IndexEntry) : Nat :=
  match e with
  | some x => if x.inSeg g then x.cells else 0
  | none => 0

/-! ## Placement of a HOST entry (R48) -/

/-- The HOST buffer is destined for page `p` of segment `g` and takes an entry of `n` cells. -/
def HostRoom (g p n : Nat) (s : State) : Prop :=
  s.host.openSeg = some g ∧ s.host.stranded = false ∧ (segAt g s).bind SegRec.nextPage = some p ∧
    s.host.ended = false ∧ s.host.cellsUsed + n ≤ Config.cells

/-- What a slot becomes whose entry was placed (R57): answered OK with its sequence, or, for a durable request, waiting for
the page. -/
def Slot.placed (durable : Bool) (w : PageWait) (sl : Slot) : Slot :=
  if durable then { sl with state := .awaitingCommit, wait := some w }
  else Slot.answered .ok (.sequence w.seq) sl

/-- What a placement of the HOST entry `e` of `cells` cells does to the buffer destined for page `p` of segment `g` and to
the commit window timer. The entry joins the buffer, and the timer starts when the buffer was empty, PFW is deasserted and
the window is not 0 (R48, R52, R64(1)). The placement is a commit cause when it brings the cells used to 16, while PFW is
asserted, and at a window of 0 in the empty buffer (R48, R64(2), R52); then, with no page in flight, the buffer becomes the
page in flight, its unused cells filled with PAD, its program is claimed and the timer stops, and behind a page in flight it
is marked commit requested (R51). That at window 0 the timer does not start is the model's reading (assumption 25). -/
def HostBuffered (e : Placed) (cells g p : Nat) (s u : State) : Prop :=
  let used := s.host.cellsUsed + cells
  let buffer := s.host.buffer ++ [e]
  let cause := 16 ≤ used ∨ s.pfw = true ∨ (s.host.buffer = [] ∧ s.params.commitWindow = 0)
  let waits (requested : Bool) : Prop := u.host.buffer = buffer ∧ u.host.cellsUsed = used ∧
    u.host.inFlight = s.host.inFlight ∧ u.host.commitRequested = requested ∧
    u.commitTimer = (if s.host.buffer = [] ∧ s.pfw = false ∧ s.params.commitWindow ≠ 0 then some s.params.commitWindow
      else s.commitTimer)
  (¬ cause → waits s.host.commitRequested) ∧
  (cause → s.host.inFlight ≠ none → waits true) ∧
  (cause → s.host.inFlight = none →
    let page := if s.host.ended = true ∨ 16 ≤ used then buffer else buffer ++ [⟨used, .pad⟩]
    u.host.buffer = [] ∧ u.host.cellsUsed = 0 ∧ u.host.commitRequested = false ∧ u.commitTimer = none ∧
      ∃ tr, u.host.inFlight = some ⟨g, p, page, tr⟩ ∧
        (⟨.host, .hostStream, .program g p (.entries page tr)⟩ : Claim) ∈ u.arr.hostPlace.toList ++ u.arr.outside)

/-- `u` is `s` with the entry of slot `n` placed at the first free cell of page `p` of segment `g`: the index entry, the
bytes in the HOST stream, the buffer's commit or the timer's start, the next sequence, the space's counts, the slot, and
what stays as it was (R7, R9, R45, R48, R51, R52, R57, R64, Table 1-2). -/
def HostPlaced (n : Nat) (k : Key) (value : Option (List Byte)) (durable : Bool) (g p : Nat) (s u : State) : Prop :=
  let q := nextSeqOf s
  let loc : Loc := ⟨g, p, s.host.cellsUsed⟩
  let new := hostIndexEntry value q loc
  lookup k u = some new ∧ (∀ c, c ≠ Key.code k → Store.get c u.index = Store.get c s.index) ∧
    ⟨loc.cell, hostEntry k value q⟩ ∈ u.host.pendingEntries ∧
    HostBuffered ⟨loc.cell, hostEntry k value q⟩ (hostCells value) g p s u ∧
    (q + 1 < Config.seqBound → u.nextSeq = some (q + 1)) ∧
    u.spaces = Store.modify k.space (SpaceRec.recount (lookup k s) (some new)) s.spaces ∧
    (∀ h, (segAt h u).map SegRec.live =
      (segAt h s).map (fun r => r.live - cellsIn h (lookup k s) + cellsIn h (some new))) ∧
    u.link = { s.link with slots := Store.modify n (Slot.placed durable ⟨g, p, q⟩) s.link.slots } ∧
    u.engine.active = none ∧ u.flash = s.flash ∧ u.reloc = s.reloc ∧ u.cat = s.cat ∧ u.startup = s.startup ∧
    u.patrol = s.patrol ∧ u.params = s.params ∧ u.syncMarks = s.syncMarks ∧ u.nextStamp = s.nextStamp ∧
    u.freeCount = s.freeCount ∧ u.urgent = s.urgent ∧ u.ordinary = s.ordinary ∧ u.wp = s.wp ∧ u.pfw = s.pfw ∧
    u.pending = s.pending

/-! ## What runs may do -/

/-- The order OPEN < WRITE_ONCE < READ_ONLY (R126). -/
def Policy.atMost (p q : Policy) : Prop := Policy.code p ≤ Policy.code q

/-- The policy and the frozen mark of every space stay or rise (R126, R128). -/
def SpacesRise (s t : State) : Prop :=
  ∀ n, Policy.atMost (spaceAt n s).policy (spaceAt n t).policy ∧
    ((spaceAt n s).frozen = true → (spaceAt n t).frozen = true)

/-- The page `page` of segment `seg` is the target of the array operation that runs: the page of a program or a page of an
erased segment. -/
def isTarget (op : Option ArrayOp) (a : Nat) : Prop :=
  match op with
  | some (.program _ seg page _) => a = pageAddr seg page
  | some (.erase e) => inSegment e.seg a = true
  | _ => False

end Sys2Proof.Machine
end

