-- ==== Sys2Proof/Certificates/Slice0/Obligations.lean ====
section
/-! DEFINITION. Certificates/Slice0/Obligations.lean: the statements about the model, from the numbered rules of spec/.
Where a statement says `exec c s = .next (settle u)`, `u` is the state with the command's own effect, and `settle` stands
for the tests that the rules make at the end of every change: the snapshot test (R147), the start condition (R91), the
engine's next claim (R96, R104), the queue-pressure cause (R54), the arbiter's grant (R78) and the transmitter's choice
(R185). `settleAfterOp` stands for the same tests where an array operation has just ended, and `calm` and `finish` for
what of them a change of the Host Link alone can call for. What they leave alone is stated in `EndOfChangeFrame`. -/

open Sys2Proof Sys2Proof.Machine

/-! ## The queue of commands -/

/-- A step with a command at the front of the queue is that command's effect on the state with the queue's rest; with an
empty queue the part idles (the model's choice, assumption 10). -/
def Obligations.StepRunsFrontCommand : Prop :=
  (∀ (c : Instr) (s : State), step (s.enqueueFront c) = exec c s) ∧
    ∀ s : State, s.pending = [] → step s = .next s

/-- Without supply, or with RST asserted, a command other than those of the supply and the lines changes nothing
(R158). That the commands still stand in the queue of a held part is the model's (assumption 4). -/
def Obligations.HeldPartIsInert : Prop :=
  ∀ (c : Instr) (s : State), isHeld s = true → isLineCommand c = false → exec c s = .next s

/-! ## Supply and lines (R158, R84, R127, R64, R65) -/

/-- POWER_ON with RST deasserted: every block has its value right after reset and mount reads page 0 of mirror A; only
the pages of the array, the lines and the model's own fields come from before. With RST asserted the part stays held.
RST_ASSERTED and POWER_LOSS put every block at its power-on value and hold the part. RST_DEASSERTED after
RST_ASSERTED, with the supply present, starts mount; without it the part stays held; with RST not asserted it changes
nothing. The orders of supply and RST that R158 does not name are the model's choice (assumption 33). -/
def Obligations.SupplyAndRstHoldOrStartMount : Prop :=
  (∀ s : State, (s.rst = false → exec .powerOn s = .next (mountFrom s)) ∧
    (s.rst = true → exec .powerOn s = .next (heldFrom true true s))) ∧
  (∀ s : State, exec .rstAsserted s = .next (heldFrom s.powered true s) ∧
    exec .powerLoss s = .next (heldFrom false s.rst s)) ∧
  ((∀ s : State, s.powered = true → exec .rstDeasserted (heldFrom true true s) = .next (mountFrom s)) ∧
    (∀ s : State, s.rst = true → s.powered = false → exec .rstDeasserted s = .next { s with rst := false }) ∧
    ∀ s : State, s.rst = false → exec .rstDeasserted s = .next s)

/-- What RST and loss of power leave of the array's work (R84): a read leaves its page unchanged, a program cut short
leaves its page torn, an erase cut short, running or suspended, leaves every page of its segment blank or unreadable;
the array is idle, every claim place and the outside are empty and the guard count is 0. That such a page is listed as
half erased, with what was programmed in it, is the model's reading (assumption 16). -/
def Obligations.ResetCutsArrayWorkShort : Prop :=
  ∀ (c : Instr) (s : State) (g p : Nat), c = .rstAsserted ∨ c = .powerLoss → p < 48 → ∃ t, exec c s = .next t ∧
    let tear (e : EraseRun) (page : Option StoredPage) : Option StoredPage :=
      if e.seg = g then some ⟨page.bind StoredPage.data, .halfErased⟩ else page
    let running := match s.arr.op with
      | some (.program _ h q data) => if pageAddr g p = pageAddr h q then some ⟨some data, .torn⟩ else pageAt g p s
      | some (.erase e) => tear e (pageAt g p s)
      | some (.read _) => pageAt g p s
      | none => pageAt g p s
    (pageAt g p t = match s.arr.suspended with
      | some e => tear e running
      | none => running) ∧
    t.arr = ⟨none, none, none, none, none, none, [], 0⟩

/-- WP_CHANGED changes the level of WP and nothing else (R127).
PFW_DEASSERTED on a running part clears PFW and the pause mark; the HOST buffer, with its commit requested mark, and the
timer stay as they are (R65, R108). That PFW_DEASSERTED changes nothing when PFW is deasserted already is the model's
choice (assumption 4), and so is what both commands do to a held part (assumption 34). -/
def Obligations.LineLevelsChange : Prop :=
  (∀ (b : Bool) (s : State), exec (.wpChanged b) s = .next { s with wp := b }) ∧
  ((∀ s : State, s.pfw = false → exec .pfwDeasserted s = .next s) ∧
  (∀ s : State, s.pfw = true → isHeld s = false →
    exec .pfwDeasserted s = .next (settle { s with pfw := false, comp := { s.comp with paused := false } })) ∧
  ∀ s : State, s.pfw = true → isHeld s = true →
    exec .pfwDeasserted s = .next { s with pfw := false, comp := { s.comp with paused := false } })

/-- PFW_ASSERTED on a running part: PFW and the pause mark are set, the commit window timer stops, and the HOST stream gains
a commit cause: a buffer without a page in flight becomes the page in flight, its entries kept and its rest filled with
PAD, and its program is claimed; behind a page in flight it is marked commit requested (R64, R51). No claim of the Patrol
Unit and no read or erase claim of the Compaction Engine waits any more (R108, R123). Asserted again, PFW_ASSERTED
changes nothing, which is the model's choice (assumption 4), as is what it does to a held part (assumption 34). -/
def Obligations.PfwAssertedPausesTheUnits : Prop :=
  (∀ s : State, s.pfw = true → exec .pfwAsserted s = .next s) ∧
  (∀ s : State, isHeld s = true → s.pfw = false →
    exec .pfwAsserted s = .next { s with pfw := true, comp := { s.comp with paused := true } }) ∧
  ∀ s : State, isHeld s = false → s.pfw = false →
    let st := s.host
    let page := if st.ended = true ∨ 16 ≤ st.cellsUsed then st.buffer else st.buffer ++ [⟨st.cellsUsed, .pad⟩]
    let v := commitCause .host { s with pfw := true, comp := { s.comp with paused := true }, commitTimer := none }
    ∃ u, exec .pfwAsserted s = .next (settle u) ∧ u = { v with arr := u.arr } ∧
      u.pfw = true ∧ u.comp.paused = true ∧ u.commitTimer = none ∧
      (st.stranded = true ∨ st.buffer = [] → u.host = st) ∧
      (st.stranded = false → st.buffer ≠ [] → st.inFlight.isSome → u.host = { st with commitRequested := true }) ∧
      (st.stranded = false → st.buffer ≠ [] → st.inFlight = none → ∀ g p, bufferDest .host s = some (g, p) →
        u.host.buffer = [] ∧ ∃ tr, u.host.inFlight = some ⟨g, p, page, tr⟩ ∧
          (⟨.host, .hostStream, .program g p (.entries page tr)⟩ : Claim) ∈ u.arr.hostPlace.toList ++ u.arr.outside) ∧
      (∀ c ∈ u.arr.relPlace.toList ++ u.arr.outside.filter (fun c => c.cls == .relocate), c.isEngineReadOrErase = false) ∧
      (∀ c ∈ u.arr.patPlace.toList ++ u.arr.outside.filter (fun c => c.cls == .patrol), c.origin ≠ .patrolUnit) ∧
      u.arr.op = s.arr.op ∧ u.arr.suspended = s.arr.suspended ∧ u.arr.catPlace = s.arr.catPlace ∧
      u.index = s.index ∧ u.spaces = s.spaces ∧ u.reloc = s.reloc ∧ u.nextSeq = s.nextSeq ∧ u.cat = s.cat ∧
      u.link = s.link ∧ u.engine = s.engine ∧ u.startup = s.startup ∧ u.params = s.params ∧ u.patrol = s.patrol

/-! ## The receiver and the link counters (R173 to R177, R198) -/

/-- FRAME_START_MARKER puts the receiver inside a frame (R174(1)). The three errors of the receiver discard the frame:
the receiver hunts, the error's counter rises by one and stays at 65,535, and nothing else changes. A frame received
with a length above 1,040, or with a check that fails, is discarded likewise (R174(2) to (4), R175). The receiver's
state is hunting or inside (the model's choice, assumption 11). -/
def Obligations.ReceiverTakesAndDiscardsFrames : Prop :=
  (∀ s : State, isHeld s = false →
    exec .frameStartMarker s = .next { s with link := { s.link with inside := true } }) ∧
  (∀ s : State, isHeld s = false → s.link.inside = true →
    let c := s.link.counters
    let tooLong := { s with link := { s.link with
      inside := false, counters := { c with lengthErrors := min (c.lengthErrors + 1) 65535 } } }
    let badCheck := { s with link := { s.link with
      inside := false, counters := { c with checkErrors := min (c.checkErrors + 1) 65535 } } }
    exec .lengthError s = .next tooLong ∧
    exec .frameCheckFailed s = .next badCheck ∧
    exec .receiverTimeout s = .next { s with link := { s.link with
      inside := false, counters := { c with timeouts := min (c.timeouts + 1) 65535 } } } ∧
    (∀ f : RxFrame, 1040 < f.length.toNat → exec (.frameReceived f) s = .next tooLong) ∧
    ∀ f : RxFrame, f.length.toNat ≤ 1040 → f.body.length = f.length.toNat →
      frameCheck (leBytes 2 f.length.toNat ++ f.type :: f.tag :: f.body) ≠ f.check →
      exec (.frameReceived f) s = .next badCheck)

/-- The link counters over any command: each stays, or rises by one up to 65,535, or all four become 0 at power-on, RST or
the building of the RESET reply (R175). -/
def Obligations.LinkCountersRule : Prop :=
  ∀ (c : Instr) (s t : State), exec c s = .next t →
    let up (x y : Nat) : Prop := y = x ∨ y = min (x + 1) 65535
    (up s.link.counters.checkErrors t.link.counters.checkErrors ∧
      up s.link.counters.lengthErrors t.link.counters.lengthErrors ∧
      up s.link.counters.timeouts t.link.counters.timeouts ∧
      up s.link.counters.refusalsDropped t.link.counters.refusalsDropped) ∨
    (t.link.counters = ⟨0, 0, 0, 0⟩ ∧ (isResetCommand c = true ∨ c = .resetReplyBuilt))

/-- The byte order of the link: a field of `n` bytes read back, least significant byte first, is the number modulo 256^n
(R198).
The frame check of the nine digits 1 to 9 is 29B1H, and a frame built with its own length and check passes the
receiver's test (R198, R173). -/
def Obligations.LinkBytesAndFrameCheck : Prop :=
  (∀ n v : Nat, (leBytes n v).length = n ∧ leNat (leBytes n v) = v % 256 ^ n) ∧
  (frameCheck [0x31#8, 0x32#8, 0x33#8, 0x34#8, 0x35#8, 0x36#8, 0x37#8, 0x38#8, 0x39#8] = 0x29B1#16 ∧
    ∀ (type tag : Byte) (body : List Byte), RxFrame.checkPasses (RxFrame.make type tag body) = true)

/-- A frame answered at once: the first test of Table 10-1 that applies gives the status, the answer goes to the end of the
immediate reply list with the reply type and the frame's tag, and takes no slot; a list that holds 4 drops it and
REFUSALS_DROPPED rises (R176, R177).
A frame that passes every test takes the free slot with the lowest number, QUEUED, with the arrival number after the
occupied slots (R176, R178).
A frame received whole during a soft reset is discarded: the receiver hunts and nothing else changes (R176 test 6,
R184(1)). -/
def Obligations.FramesAreDisposedByTheTable : Prop :=
  (∀ (f : RxFrame) (s : State) (st : Status), EndsWhole f s → s.link.softReset = none →
    arrivalRefusal f s = some st →
    (HasRoom s → exec (.frameReceived f) s = .next (calm { s with link := { s.link with
      inside := false, immediate := s.link.immediate ++ [⟨replyType f.type, f.tag, st, .none, false⟩] } })) ∧
    (¬ HasRoom s → exec (.frameReceived f) s = .next (calm { s with link := { s.link with
      inside := false
      counters := { s.link.counters with refusalsDropped := min (s.link.counters.refusalsDropped + 1) 65535 } } }))) ∧
  (∀ (f : RxFrame) (r : Request) (s : State) (n : Nat), EndsWhole f s → s.link.softReset = none →
    parseQueued f.type f.body = some r → arrivalRefusal f s = none →
    n < Config.slots → slotAt n s = none → (∀ m, m < n → (slotAt m s).isSome) →
    exec (.frameReceived f) s = .next (calm { s with link := { s.link with
      inside := false
      slots := Store.put n ⟨f.tag, r, s.link.slots.length + 1, .queued, none, none⟩ s.link.slots } })) ∧
  (∀ (f : RxFrame) (s : State), EndsWhole f s → s.link.softReset.isSome →
    exec (.frameReceived f) s = .next { s with link := { s.link with inside := false } })

/-! ## Immediate requests (R182 to R184) -/

/-- IDENTIFY and STATUS: an OK answer joins the immediate reply list and nothing else of the part changes; the data of
IDENTIFY is fixed, and the answer of STATUS asks for data when its frame is built. A list that holds 4 drops the frame
(R182, R177).
The IDENTIFY data: vendor 4FH, part 2C16H, revision 1 and the capacities (R195); and the STATUS data are those of the
part as it stands (R182, R196). -/
def Obligations.IdentifyAndStatusAreAnswered : Prop :=
  (∀ (tag : Byte) (s : State), Arrives tag s →
    let put (a : Answer) := { s with link := { s.link with inside := false, immediate := s.link.immediate ++ [a] } }
    let drop := { s with link := { s.link with
      inside := false
      counters := { s.link.counters with refusalsDropped := min (s.link.counters.refusalsDropped + 1) 65535 } } }
    (HasRoom s → exec (.identify tag) s = .next (calm (put ⟨0x81#8, tag, .ok, .identity, false⟩)) ∧
      exec (.status tag) s = .next (calm (put ⟨0x82#8, tag, .ok, .none, true⟩))) ∧
    (¬ HasRoom s → exec (.identify tag) s = .next (calm drop) ∧ exec (.status tag) s = .next (calm drop))) ∧
  (ReplyData.bytes .identity =
    [0x4F#8, 0x16#8, 0x2C#8, 0x01#8, 0x00#8, 0x04#8, 0x30#8, 0x00#8, 0x40#8, 0x10#8, 0x08#8, 0x10#8, 0x04#8, 0xF0#8,
      0x03#8, 0x60#8] ∧
  ∀ (tag : Byte) (s : State), ∃ d, answerFrame ⟨0x82#8, tag, .ok, .none, true⟩ s =
      .reply 0x82#8 tag .ok (8 - s.link.slots.length) (.status d) none ∧
    d.mode = s.startup.mode ∧ d.cause = s.startup.cause ∧ d.outstanding = s.link.slots.length ∧ d.wp = s.wp ∧
    d.pfw = s.pfw ∧ d.counters = s.link.counters ∧ d.nextSeq = s.nextSeq.getD 0 ∧
    (d.overflow = true ↔ ∃ x ∈ s.link.notices, x.isOverflow = true) ∧
    (s.startup.mode ≠ .mounting → d.entries = s.index.length ∧
      d.segCounts = [SegState.free, .opened, .full, .evacuating, .erasing, .condemned, .retired].map
        (fun x => (s.segs.filter (fun p => p.2.state == x)).length)))

/-- CANCEL by the state of the slot that holds its target tag: the effect on the target and the CANCEL's own answer are
those of Table 10-3; with the immediate reply list full the target is not touched (R183, R177). -/
def Obligations.CancelFollowsTable103 : Prop :=
  ∀ (tag target : Byte) (s : State), Arrives tag s → target ≠ 0#8 →
    let h := { s with link := { s.link with inside := false } }
    let reply (st : Status) (u : State) :=
      { u with link := { u.link with immediate := u.link.immediate ++ [⟨0x83#8, tag, st, .none, false⟩] } }
    (¬ HasRoom s → exec (.cancel tag target) s = .next (calm { h with link := { h.link with
      counters := { h.link.counters with refusalsDropped := min (h.link.counters.refusalsDropped + 1) 65535 } } })) ∧
    (HasRoom s → s.link.slots.find? (fun p => p.2.tag == target) = none →
      exec (.cancel tag target) s = .next (calm (reply .unknownTag h))) ∧
    (HasRoom s → ∀ n sl, s.link.slots.find? (fun p => p.2.tag == target) = some (n, sl) →
      (sl.state = .queued ∨ sl.state = .held →
        exec (.cancel tag target) s = .next (calm (reply .ok (answer n .cancelled .none h)))) ∧
      (sl.state = .active → ∀ k, sl.request = .get k → exec (.cancel tag target) s =
        .next (calm (reply .ok { answeredIn n .cancelled .none h with engine := ⟨none, true⟩ }))) ∧
      (sl.state = .active → (∀ k, sl.request ≠ .get k) →
        exec (.cancel tag target) s = .next (calm (reply .tooLate h))) ∧
      (sl.state = .awaitingCompaction → exec (.cancel tag target) s =
        .next (calm (reply .ok (answer n .cancelled .none { h with
          comp := { h.comp with compacts := h.comp.compacts.filter (fun c => c.slot != n) } })))) ∧
      (sl.state = .awaitingCommit ∨ sl.state = .awaitingCatalogue →
        exec (.cancel tag target) s = .next (calm (reply .tooLate h))) ∧
      (sl.state = .replyReady → exec (.cancel tag target) s = .next (calm (reply .unknownTag h))))

/-- RESET at its arrival: whatever the immediate reply list holds, the soft reset begins; the slots are freed but for
one whose reply is being sent, the reply order, the COMPACT list, the SYNC marks and the barrier waiters are emptied,
a waiting HOST entry is discarded, the engine is released with its discard mark set for a GET awaiting its read, and
the HOST stream gains its commit cause (R184(1), R67, R110, R154, R172). Which slot stays is the model's reading
(assumption 30), and that the replies to earlier RESETs which still wait to be sent are kept is its choice (assumption
48). -/
def Obligations.ResetBeginsSoftReset : Prop :=
  ∀ (tag : Byte) (s : State), Arrives tag s → ∃ v, exec (.reset tag) s = .next (settle (commitCause .host v)) ∧
    v.link = { s.link with
      inside := false, replyOrder := [], softReset := some ⟨tag, s.cat.write.map (fun w => w.snap.gen)⟩
      slots := v.link.slots } ∧
    (∀ n, slotAt n v = none ∨ (s.link.sending.bind TxFrame.slot?) = some n) ∧
    v.comp = { s.comp with compacts := [] } ∧ v.syncMarks = [] ∧ v.host = { s.host with waiting := none } ∧
    v.cat = { s.cat with waiters := s.cat.waiters.filter (fun w => match w.who with
      | .slot _ => false
      | .segment _ => true) } ∧
    v.engine.active = none ∧
    (∀ n sl k, s.engine.active = some n → slotAt n s = some sl → sl.request = .get k → sl.state = .active →
      v.engine.discard = true) ∧
    v.index = s.index ∧ v.segs = s.segs ∧ v.urgent = s.urgent ∧ v.ordinary = s.ordinary ∧ v.patrol = s.patrol ∧
    v.spaces = s.spaces ∧ v.params = s.params ∧ v.startup.mode = s.startup.mode ∧ v.startup.mount = s.startup.mount ∧
    v.arr = s.arr ∧ v.reloc = s.reloc ∧ v.nextSeq = s.nextSeq ∧ v.nextStamp = s.nextStamp ∧ v.flash = s.flash

/-- RESET_REPLY_BUILT, once the HOST stream holds no pending entry or is stranded and the snapshot in flight at the
RESET has ended: notices and answers are emptied, the counters become 0, and the reply, OK with credit 8, is sent
next; before that it changes nothing (R184(3), (4)). The last clause is the model's choice (assumption 4), and so is that
the reply goes behind those to earlier RESETs which still wait to be sent (assumption 48). -/
def Obligations.ResetReplyEmptiesTheLink : Prop :=
  ∀ (s : State) (r : SoftReset), isHeld s = false → s.link.softReset = some r →
    let drained := s.host.stranded = true ∨ s.host.inFlight = none ∧ s.host.buffer = []
    let ended := r.snapshot = none ∨ s.cat.write.map (fun w => w.snap.gen) ≠ r.snapshot
    (drained ∧ ended → exec .resetReplyBuilt s = .next (finish { s with link := { s.link with
      inside := false, counters := ⟨0, 0, 0, 0⟩, immediate := [], notices := [], noticeGuard := 0
      resetReplies := s.link.resetReplies ++ [.reply 0x84#8 r.tag .ok 8 .none none], softReset := none } })) ∧
    (¬ (drained ∧ ended) → exec .resetReplyBuilt s = .next s)

/-! ## The transmitter (R179, R180, R185, R186) -/

/-- FRAME_SENT: the frame leaves, the slot whose reply it was is freed, and every younger slot moves up by one (R178,
R179). With nothing being sent it changes nothing, which is the model's choice (assumption 4). -/
def Obligations.FrameSentFreesTheSlot : Prop :=
  (∀ s : State, isHeld s = false → s.link.sending = none → exec .frameSent s = .next s) ∧
  ∀ (s : State) (f : TxFrame), isHeld s = false → Store.Canonical s.link.slots → s.link.sending = some f →
    ∃ u, exec .frameSent s = .next (calm u) ∧
      u = { s with link := { s.link with sending := none, slots := u.link.slots } } ∧
      (TxFrame.slot? f = none → u.link.slots = s.link.slots) ∧
      ∀ n gone, TxFrame.slot? f = some n → slotAt n s = some gone → slotAt n u = none ∧
        ∀ m, m ≠ n → slotAt m u = (slotAt m s).map (fun sl =>
          if gone.arrival < sl.arrival then { sl with arrival := sl.arrival - 1 } else sl)

/-- The choice of an idle transmitter: no frame during a soft reset (R184(2)); with none in progress a RESET reply that is
built (R184(4)); then an immediate answer, a notice when the guard count is 4, the first slot of the reply order, a notice.
The frame is built at the choice, and the guard count follows (R185, R180). That of several RESET replies the one built
first goes first is the model's choice (assumption 48).
The frame of a slot's reply has the type of its request with 80H added, the slot's tag and answer, and as its credit the
free slots with its own; that of an immediate answer has the answer's type and the free slots (R180, R199).
The slots answered since the last change join the end of the reply order in ascending arrival number: those in
REPLY_READY that neither stand in it nor are being sent (R179). -/
def Obligations.TransmitterChoice : Prop :=
  (∀ s : State,
    (∀ f, s.link.sending = some f → transmit s = s) ∧
    (s.link.sending = none → s.link.softReset.isSome → transmit s = s) ∧
    (s.link.sending = none → s.link.softReset = none → ∀ f rest, s.link.resetReplies = f :: rest →
      transmit s = { s with link := { s.link with sending := some f, resetReplies := rest } }) ∧
    (s.link.sending = none → s.link.softReset = none → s.link.resetReplies = [] →
      (∀ a rest, s.link.immediate = a :: rest →
        transmit s = { s with link := { s.link with sending := some (answerFrame a s), immediate := rest } }) ∧
      (∀ x rest, s.link.immediate = [] → s.link.notices = x :: rest → s.link.noticeGuard = 4 ∨ s.link.replyOrder = [] →
        transmit s = { s with link := { s.link with sending := some (.notice x), notices := rest, noticeGuard := 0 } }) ∧
      (∀ n rest sl, s.link.immediate = [] → s.link.noticeGuard ≠ 4 ∨ s.link.notices = [] →
        s.link.replyOrder = n :: rest → slotAt n s = some sl →
        transmit s = { s with link := { s.link with
          sending := some (slotFrame n sl s), replyOrder := rest
          noticeGuard := if s.link.notices = [] then s.link.noticeGuard else min (s.link.noticeGuard + 1) 4 } }) ∧
      (s.link.immediate = [] → s.link.notices = [] → s.link.replyOrder = [] → transmit s = s))) ∧
  (let code : Request → Byte := fun r => match r with
     | .put _ _ _ _ => 0x90#8
     | .get _ => 0x91#8
     | .delete _ _ _ => 0x92#8
     | .list _ _ _ => 0x93#8
     | .sync => 0x94#8
     | .compact _ => 0x95#8
     | .segmentInfo _ => 0x96#8
     | .spaceInfo _ => 0x97#8
     | .setParam _ _ => 0x98#8
     | .freeze _ => 0x99#8
     | .setPolicy _ _ _ => 0x9A#8
     | .setQuota _ _ => 0x9B#8
     | .clearSpace _ => 0x9C#8
     | .format => 0x9D#8
   (∀ (s : State) (n : Nat) (sl : Slot) (st : Status) (data : ReplyData), sl.reply = some (st, data) →
     slotFrame n sl s = .reply (code sl.request) sl.tag st (8 - s.link.slots.length + 1) data (some n)) ∧
   ∀ (s : State) (a : Answer), a.now = false →
     answerFrame a s = .reply a.type a.tag a.status (8 - s.link.slots.length) a.data none) ∧
  ∀ s : State, finish s = transmit (orderReplies s) ∧
    ∃ new : List Nat, orderReplies s = { s with link := { s.link with replyOrder := s.link.replyOrder ++ new } } ∧
      (∀ n, n ∈ new ↔ ∃ sl, (n, sl) ∈ s.link.slots ∧ sl.state = .replyReady ∧ n ∉ s.link.replyOrder ∧
        s.link.sending.bind TxFrame.slot? ≠ some n) ∧
      (Store.Canonical s.link.slots → new.Nodup ∧ new.Pairwise (fun a b => ∀ x y, slotAt a s = some x →
        slotAt b s = some y → x.arrival ≤ y.arrival))

/-- A producer's notice by the state of the queue (R186(1) to (3)). -/
def Obligations.NoticeQueueRule : Prop :=
  ∀ (x : Notice) (s : State),
    let q := s.link.notices
    ∃ q', queueNotice x s = { s with link := { s.link with notices := q' } } ∧
      ((∀ y ∈ q, y.isOverflow = false) → q.length ≤ 10 → q' = q ++ [x]) ∧
      ((∀ y ∈ q, y.isOverflow = false) → q.length = 11 → q' = q ++ [.overflow 1]) ∧
      ∀ (front : List Notice) (c : Nat), (∀ y ∈ front, y.isOverflow = false) → q = front ++ [.overflow c] →
        q' = front ++ [.overflow (min (c + 1) 65535)]

/-! ## The Request Engine (R181) -/

/-- While the engine is free, the mode is not FORMATTING and a slot is QUEUED, the engine takes the QUEUED slot with the
lowest arrival number, and otherwise none (R181). A command by which the engine takes a request changes nothing when that
kind of request is not the one it takes next. The last clause is the model's choice (assumption 4). -/
def Obligations.OldestQueuedIsTakenAlone : Prop :=
  (∀ (s : State) (n : Nat) (r : Request), nextTaken s = some (n, r) →
    s.engine.active = none ∧ s.engine.discard = false ∧ s.startup.mode ≠ .formatting ∧
    ∃ sl, (n, sl) ∈ s.link.slots ∧ sl.state = .queued ∧ sl.request = r ∧
      ∀ p ∈ s.link.slots, p.2.state = .queued → sl.arrival ≤ p.2.arrival) ∧
  (∀ s : State, s.engine.active = none → s.engine.discard = false → s.startup.mode ≠ .formatting →
    (∃ p ∈ s.link.slots, p.2.state = .queued) → ∃ n r, nextTaken s = some (n, r)) ∧
  (∀ (c : Instr) (s : State), isTaking c = true →
    (∀ n r, nextTaken s = some (n, r) → requestCommand r ≠ c) → exec c s = .next s)

/-! ## PUT and DELETE (chapters 1, 3 and 7) -/

/-- The eleven write checks of a PUT and of a DELETE in the order of Table 7-2, with the data a SEQ_MISMATCH carries; the
first that fails answers the request and nothing else changes (R131, R132, R187(2)).
The condition of an expected sequence (R6). -/
def Obligations.WriteChecksInOrder : Prop :=
  ((∀ (k : Key) (exp : Option Nat) (len : Nat) (s : State), firstRefusal (putChecks k exp len s) =
    let sp := spaceAt k.space s
    let e := lookup k s
    if s.startup.mode = .mounting then some (.notReady, .none)
    else if s.startup.mode = .unformatted then some (.unformatted, .none)
    else if s.startup.mode = .readOnly then some (.readOnlyMode, .none)
    else if s.pfw then some (.powerLow, .none)
    else if 16 ≤ k.space then some (.badRequest, .none)
    else if sp.frozen then some (.frozen, .none)
    else if sp.policy = .readOnly then some (.readOnlySpace, .none)
    else if sp.pinGuard ∧ s.wp then some (.writeProtected, .none)
    else if sp.policy = .writeOnce ∧ isPresent e then some (.exists, .none)
    else if expectedHolds exp e = false then some (.seqMismatch, .sequence (currentSeq e))
    else if (∃ q, sp.quota = some q ∧ q < sp.usage - usageOf e + (if 1008 < len then 5 else (len + 16 + 255) / 256))
      then some (.quotaExceeded, .none)
    else if e = none ∧ 16384 ≤ s.index.length then some (.indexFull, .none)
    else if 1008 < len then some (.tooLarge, .none)
    else none) ∧
  (∀ (k : Key) (exp : Option Nat) (s : State), firstRefusal (deleteChecks k exp s) =
    let sp := spaceAt k.space s
    let e := lookup k s
    if s.startup.mode = .mounting then some (.notReady, .none)
    else if s.startup.mode = .unformatted then some (.unformatted, .none)
    else if s.startup.mode = .readOnly then some (.readOnlyMode, .none)
    else if s.pfw then some (.powerLow, .none)
    else if 16 ≤ k.space then some (.badRequest, .none)
    else if sp.frozen then some (.frozen, .none)
    else if sp.policy = .readOnly then some (.readOnlySpace, .none)
    else if sp.pinGuard ∧ s.wp then some (.writeProtected, .none)
    else if sp.policy = .writeOnce then some (.exists, .none)
    else if expectedHolds exp e = false then some (.seqMismatch, .sequence (currentSeq e))
    else none) ∧
  (∀ s n k d exp v st data, Takes n (.put k d exp v) s → firstRefusal (putChecks k exp v.length s) = some (st, data) →
    exec .put s = .next (settle (answeredIn n st data s))) ∧
  ∀ s n k d exp st data, Takes n (.delete k d exp) s → firstRefusal (deleteChecks k exp s) = some (st, data) →
    exec .delete s = .next (settle (answeredIn n st data s))) ∧
  (∀ (exp : Option Nat) (e : Option IndexEntry), expectedHolds exp e = true ↔
    (exp = none ∨ (exp = some 0 ∧ isPresent e = false) ∨
      ∃ q x, exp = some q ∧ q ≠ 0 ∧ e = some x ∧ x.present = true ∧ x.seq = q))

/-- A PUT that passes its checks and finds room is placed: the key is LIVE with the next sequence, at the first free cell
of the HOST buffer's page, not programmed (R7, R48, R45), with the counts of Table 1-2, and its slot is answered OK with
the sequence or, durable, waits for the page (R57). The commit window timer starts with an entry in the empty buffer, and a
placement that fills the 16 cells, is made while PFW is asserted, or meets window 0 in the empty buffer commits the buffer
or marks it commit requested (`HostBuffered`: R48, R51, R52, R64(2)). With no open segment it asks the Allocator, and
once a segment is opened for it the record is placed so at page 1 of that segment (R50(1)); `t` is the state with the
segment open, which `AllocatorOpensLeastWorn` describes.
A PUT that passes its checks and finds no room: behind a buffer that cannot take it, it waits, ACTIVE, with the buffer
ended with a PAD, which is a commit cause (R49, R51); when its ask is refused, with 4 or fewer segments FREE, none FREE, or
no open stamp left, it is HELD, or answered MEDIA_FULL under the no-gain mark (R50(2), R31 to R33, R105). It takes no
sequence and the index does not change. That at window 0 no timer starts is the model's reading (assumption 25), and that
the cells of the PAD do not count as cells used its choice (assumption 51). -/
def Obligations.PutPlacesItsRecordOrWaits : Prop :=
  (∀ s n k d exp v g p, Takes n (.put k d exp v) s → firstRefusal (putChecks k exp v.length s) = none →
    HostRoom g p (cellsOf v.length) s →
    ∃ u, exec .put s = .next (settle u) ∧ HostPlaced n k (some v) d g p s u) ∧
  (∀ s n k d exp v t, Takes n (.put k d exp v) s → firstRefusal (putChecks k exp v.length s) = none →
    s.host.openSeg = none → s.host.stranded = false → Sys2Proof.Machine.openSegment .host false s = some t →
    ∃ g u, t.host.openSeg = some g ∧ exec .put s = .next (settle u) ∧ HostPlaced n k (some v) d g 1 t u) ∧
  (∀ s n k d exp v, Takes n (.put k d exp v) s → firstRefusal (putChecks k exp v.length s) = none →
    (∀ g, s.host.openSeg = some g → (s.host.ended = true ∨ 16 < s.host.cellsUsed + cellsOf v.length) →
      exec .put s = .next (settle (commitCause .host { modSlot n (fun sl => { sl with state := .active }) s with
        engine := { s.engine with active := some n }
        host := { s.host with
          buffer := if s.host.ended = true ∨ 16 ≤ s.host.cellsUsed then s.host.buffer
            else s.host.buffer ++ [⟨s.host.cellsUsed, .pad⟩]
          ended := s.host.ended || decide (s.host.cellsUsed < 16)
          waiting := some (.host n k (some v)) } }))) ∧
    (s.host.openSeg = none → Store.Canonical s.segs →
      s.nextStamp = none ∨ (∀ h x, segAt h s = some x → x.state ≠ .free) ∨ s.freeCount ≤ 4 →
      (s.comp.noGain = true → exec .put s = .next (settle (answeredIn n .mediaFull .none s))) ∧
      (s.comp.noGain = false → exec .put s = .next (settle { modSlot n (fun sl => { sl with state := .held }) s with
        engine := { s.engine with active := some n } }))))

/-- A DELETE that passes its checks: an absent key is answered NOT_FOUND and nothing else changes; a present key becomes a
TOMBSTONE with the next sequence, 1 cell, not programmed, at the place of its entry (R9). Its TOMBSTONE goes the way of a
PUT's record: placed in the HOST buffer, with the timer and the commit causes of a placement (`HostBuffered`), at page 1 of a
segment opened for it where none is open (R50(1)), made the waiting entry behind a buffer that cannot take it, which is ended
with a PAD and gains a commit cause (R49, R51), and HELD, or answered MEDIA_FULL under the no-gain mark, when its ask is
refused (R50(2), R31 to R33, R105). It then takes no sequence and the index does not change. That at window 0 no timer
starts is the model's reading (assumption 25), and that the cells of the PAD do not count as cells used its choice
(assumption 51). -/
def Obligations.DeletePlacesTombstone : Prop :=
  ∀ s n k d exp, Takes n (.delete k d exp) s → firstRefusal (deleteChecks k exp s) = none →
    (isPresent (lookup k s) = false → exec .delete s = .next (settle (answeredIn n .notFound .none s))) ∧
    (isPresent (lookup k s) = true →
      (∀ g p, HostRoom g p 1 s → ∃ u, exec .delete s = .next (settle u) ∧ HostPlaced n k none d g p s u) ∧
      (s.host.openSeg = none → s.host.stranded = false →
        ∀ t, Sys2Proof.Machine.openSegment .host false s = some t →
          ∃ g u, t.host.openSeg = some g ∧ exec .delete s = .next (settle u) ∧ HostPlaced n k none d g 1 t u) ∧
      (∀ g, s.host.openSeg = some g → (s.host.ended = true ∨ 16 < s.host.cellsUsed + 1) →
        exec .delete s = .next (settle (commitCause .host { modSlot n (fun sl => { sl with state := .active }) s with
          engine := { s.engine with active := some n }
          host := { s.host with
            buffer := if s.host.ended = true ∨ 16 ≤ s.host.cellsUsed then s.host.buffer
              else s.host.buffer ++ [⟨s.host.cellsUsed, .pad⟩]
            ended := s.host.ended || decide (s.host.cellsUsed < 16)
            waiting := some (.host n k none) } }))) ∧
      (s.host.openSeg = none → Store.Canonical s.segs →
        s.nextStamp = none ∨ (∀ h x, segAt h s = some x → x.state ≠ .free) ∨ s.freeCount ≤ 4 →
        (s.comp.noGain = true → exec .delete s = .next (settle (answeredIn n .mediaFull .none s))) ∧
        (s.comp.noGain = false → exec .delete s = .next (settle { modSlot n (fun sl => { sl with state := .held }) s with
          engine := { s.engine with active := some n } }))))

/-- One change of a key's index entry (R4, Table 1-2): the key reads as the new entry, every other key as before, the live
cells of a segment fall by the old cells located there and rise by the new, usage and key count of the key's space
follow. -/
def Obligations.IndexChangeKeepsTheCounts : Prop :=
  ∀ (k : Key) (new : Option IndexEntry) (s : State), Store.Canonical s.index →
    let t := changeEntry k new s
    let old := lookup k s
    lookup k t = new ∧ (∀ c, c ≠ Key.code k → Store.get c t.index = Store.get c s.index) ∧
    (∀ g, segAt g t = (segAt g s).map (fun r => { r with live := r.live - cellsIn g old + cellsIn g new })) ∧
    (∀ m, Store.get m t.spaces = (Store.get m s.spaces).map (fun r =>
      if m = k.space then { r with
        usage := r.usage - usageOf old + usageOf new
        keyCount := r.keyCount - (if isPresent old then 1 else 0) + (if isPresent new then 1 else 0) } else r))

/-- A tombstone dropped at evacuation: when the key's entry is TOMBSTONE with the sequence and location, the entry is
removed, its cell leaves the segment's live cells, the index entry count falls by one and the space's counts stay; otherwise
nothing changes (R13). -/
def Obligations.TombstoneDropRemovesTheEntry : Prop :=
  ∀ (k : Key) (q : Nat) (loc : Loc) (s : State), Store.Canonical s.index →
    let t := dropTombstone k q loc s
    (∀ p, lookup k s = some (.tombstone q loc p) →
      lookup k t = none ∧ (∀ c, c ≠ Key.code k → Store.get c t.index = Store.get c s.index) ∧
      t.index.length + 1 = s.index.length ∧
      (∀ g, segAt g t = (segAt g s).map (fun r => { r with live := r.live - (if g = loc.seg then 1 else 0) })) ∧
      ∀ m, Store.get m t.spaces = Store.get m s.spaces) ∧
    ((∀ p, lookup k s ≠ some (.tombstone q loc p)) → t = s)

/-- The compare-and-update of a relocated copy (R11): when the key's entry still has the copy's sequence at the source
location, only its location and its programmed field change, its cells move from the one segment to the other, and usage and
key count stay, where they count the key; otherwise nothing changes.
A copy handed to the Write Path is placed in the RELOCATE buffer, in a segment opened for it where none is open, with its
compare-and-update in the same change, the segment's lowest sequence taking its sequence, and 16 cells used a commit cause;
it waits behind a buffer that cannot take it, which is ended and gains a commit cause; with no segment to open the evacuation
is abandoned with NO_SPACE_FOR_RELOCATION (R98, R48, R27, R56, R49, R50, R107). The drop test of a tombstone is R99's.
A read of the victim's next page that finds live cells left: a blank page ends the reading; a written page raises the next
page, and its entries are handled by the entry starts of its trailer, the victim being queued UNCORRECTABLE, with no entry
taken, where that is unreadable (R96, R97, R100). A current RECORD is copied, a current TOMBSTONE, or one rebuilt from the
index where the first codeword is UNCORRECTABLE, dropped or copied, a dead entry skipped; an entry that the read reports as
mismatching is passed over, which is the model's reading (assumption 23). The outcome is discarded when the live cells are 0.
The final sweep handles every index entry still located in the victim in key order, a TOMBSTONE dropped or copied and a LIVE
entry marked LOST (R100), in the phase COPYING, the model's choice (assumption 52). Entries are handled one at a time until one waits or the evacuation is abandoned; after the last of
a page the engine reads on, and after the sweep it drains, with a commit cause of the RELOCATE stream (R98, R101). -/
def Obligations.RelocationComparesAndUpdates : Prop :=
  (∀ (e : Entry) (k : Key) (q : Nat) (src dst : Loc) (s : State), Store.Canonical s.index →
    Entry.key? e = some k → Entry.seq? e = some q →
    let t := relocateEntry e src dst s
    (∀ x, lookup k s = some x → x.seq = q → x.loc? = some src →
      lookup k t = some (x.movedTo dst) ∧ (x.movedTo dst).seq = q ∧ (x.movedTo dst).cells = x.cells ∧
      (x.movedTo dst).programmed = false ∧ (x.movedTo dst).present = x.present ∧
      (∀ c, c ≠ Key.code k → Store.get c t.index = Store.get c s.index) ∧
      (∀ g, segAt g t = (segAt g s).map (fun r =>
        { r with live := r.live - cellsIn g (some x) + cellsIn g (some (x.movedTo dst)) })) ∧
      (∀ m r, Store.get m s.spaces = some r → (m = k.space → x.usage ≤ r.usage ∧ 1 ≤ r.keyCount) →
        Store.get m t.spaces = some r)) ∧
    ((∀ x, lookup k s = some x → ¬ (x.seq = q ∧ x.loc? = some src)) → t = s)) ∧
  (∀ (e : Entry) (src : Loc) (s : State),
    (∀ g, s.reloc.openSeg = some g →
      (s.reloc.ended = false → s.reloc.cellsUsed + Entry.cells e ≤ 16 →
        handCopy e src s = .done (placeCopy e src s)) ∧
      (s.reloc.ended = true ∨ 16 < s.reloc.cellsUsed + Entry.cells e →
        handCopy e src s = .waits (commitCause .relocate { s with reloc := { s.reloc with
          buffer := if s.reloc.ended = true ∨ 16 ≤ s.reloc.cellsUsed then s.reloc.buffer
            else s.reloc.buffer ++ [⟨s.reloc.cellsUsed, .pad⟩]
          ended := s.reloc.ended || decide (s.reloc.cellsUsed < 16)
          waiting := some (.copy e src) } }))) ∧
    (s.reloc.openSeg = none →
      (∀ t, Sys2Proof.Machine.openSegment .relocate false s = some t → handCopy e src s = .done (placeCopy e src t)) ∧
      (Sys2Proof.Machine.openSegment .relocate false s = none →
        handCopy e src s = .stopped (reportCause .noSpaceForRelocation (abandonEvacuation s))))) ∧
  (∀ (e : Entry) (q : Nat) (src : Loc) (s : State) (g p : Nat), Entry.seq? e = some q →
    bufferDest .relocate s = some (g, p) →
    let used := s.reloc.cellsUsed + Entry.cells e
    let t := relocateEntry e src ⟨g, p, s.reloc.cellsUsed⟩ { s with
      reloc := { s.reloc with buffer := s.reloc.buffer ++ [⟨s.reloc.cellsUsed, e⟩], cellsUsed := used }
      segs := Store.modify g (fun r => { r with lowestSeq := lowestOf (r.lowestSeq.toList ++ [q]) }) s.segs }
    (used < 16 → placeCopy e src s = t) ∧ (16 ≤ used → placeCopy e src s = commitCause .relocate t)) ∧
  (∀ (victim q : Nat) (s : State), Store.Canonical s.segs →
    (dropTest victim q s = true ↔
      (∀ h r low, h ≠ victim → segAt h s = some r → r.lowestSeq = some low → q < low) ∧
      (∀ x ∈ seqsOf s.host.pendingEntries ++ seqsOf s.reloc.pendingEntries, q < x) ∧
      ∀ e src x, s.host.waiting = some (.copy e src) ∨ s.reloc.waiting = some (.copy e src) → Entry.seq? e = some x →
        q < x)) ∧
  (let tombstone (k : Key) (q : Nat) (loc : Loc) (s : State) : Handled :=
     if dropTest loc.seg q s = true then .done (dropTombstone k q loc s) else handCopy (.tombstone k q) loc s
   (∀ (loc : Loc) (e : Entry) (k : Key) (q : Nat) (s : State), Entry.key? e = some k → Entry.seq? e = some q →
     ((∀ x, lookup k s = some x → ¬ (x.seq = q ∧ x.loc? = some loc)) → handleItem (.entry loc e) s = .done s) ∧
     ∀ x, lookup k s = some x → x.seq = q → x.loc? = some loc →
       (∀ len chk v, e = .record k q len chk v → handleItem (.entry loc e) s = handCopy e loc s) ∧
       (e = .tombstone k q → handleItem (.entry loc e) s = tombstone k q loc s)) ∧
   (∀ (loc : Loc) (s : State), Store.Canonical s.index →
     (∀ c q p, Store.get c s.index = some (.tombstone q loc p) →
       (∀ d r p', Store.get d s.index = some (.tombstone r loc p') → c ≤ d) →
       handleItem (.unreadable loc) s = tombstone (Key.ofCode c) q loc s) ∧
     ((∀ c q p, Store.get c s.index ≠ some (.tombstone q loc p)) → handleItem (.unreadable loc) s = .done s)) ∧
   ∀ (k : Key) (v : Victim) (s : State), s.comp.victim = some v →
     (∀ q loc p, lookup k s = some (.tombstone q loc p) → loc.seg = v.seg →
       handleItem (.sweep k) s = tombstone k q loc s) ∧
     (∀ q len cells loc p, lookup k s = some (.live q len cells loc p) → loc.seg = v.seg →
       handleItem (.sweep k) s = .done (markLost k q loc s)) ∧
     ((∀ x, lookup k s = some x → x.inSeg v.seg = false) → handleItem (.sweep k) s = .done s)) ∧
  (let victimIs (v : Victim) (s : State) : State := { s with comp := { s.comp with victim := some v } }
   (∀ (s : State) (v : Victim), s.comp.victim = some v →
     (v.sweeping = false → copyLoop [] s = victimIs { v with phase := .reading, todo := [] } s) ∧
     (v.sweeping = true →
       copyLoop [] s = commitCause .relocate (victimIs { v with phase := .draining, todo := [] } s))) ∧
   (∀ (i : CopyItem) (rest : List CopyItem) (s : State),
     (∀ t, handleItem i s = .done t → copyLoop (i :: rest) s = copyLoop rest t) ∧
     (∀ t v, handleItem i s = .waits t → t.comp.victim = some v →
       copyLoop (i :: rest) s = victimIs { v with todo := rest } t) ∧
     (∀ t, handleItem i s = .stopped t → copyLoop (i :: rest) s = t)) ∧
   (∀ (s : State) (v : Victim) (r : SegRec) (g page : Nat), s.comp.victim = some v → segAt g s = some r →
     let onPage : Victim := { v with phase := .copying, nextPage := page + 1 }
     (v.seg ≠ g ∨ v.phase ≠ .reading ∨ v.nextPage ≠ page ∨ r.live = 0 → ∀ o, engineRead g page o s = s) ∧
     (v.seg = g → v.phase = .reading → v.nextPage = page → r.live ≠ 0 →
       engineRead g page .blank s = victimIs { v with nextPage := 48 } s ∧
       ∀ w : Written,
         (w.trailer = none → engineRead g page (.written w) s =
           copyLoop [] (victimIs onPage (refreshArrival g .uncorrectable s))) ∧
         ∀ tr, w.trailer = some tr → engineRead g page (.written w) s =
           copyLoop (tr.starts.filterMap (fun cell => match Codewords.countAt w.codewords (cell / 4) with
             | none => some (.unreadable ⟨g, page, cell⟩)
             | some _ => if cell ∈ w.mismatch then none
               else (w.entryAt cell).map (fun e => .entry ⟨g, page, cell⟩ e))) (victimIs onPage s))) ∧
   ∀ (s : State) (v : Victim), s.comp.victim = some v → beginSweep v.seg s =
     copyLoop ((s.index.filter (fun p => p.2.inSeg v.seg)).map (fun p => .sweep (Key.ofCode p.1)))
       (victimIs { v with phase := .copying, sweeping := true, nextPage := 48, todo := [] } s))

/-! ## Segments and streams (chapters 2 and 3) -/

/-- A stream's ask for a segment fails when the open stamp counter holds no value, when no segment is FREE, and for a HOST ask
other than the retry while 4 or fewer are FREE. Otherwise the least worn FREE segment, the lowest number among equals, is
opened with the stamp for the stream, whose buffer is destined for page 1, and the free count falls, with a SPACE_LOW notice
at the entry into the low-free condition (R30 to R34). -/
def Obligations.AllocatorOpensLeastWorn : Prop :=
  ∀ (id : StreamId) (retry : Bool) (s : State), Store.Canonical s.segs →
    (Sys2Proof.Machine.openSegment id retry s = none ↔ s.nextStamp = none ∨
      (∀ h x, segAt h s = some x → x.state ≠ .free) ∨ (id = .host ∧ retry = false ∧ s.freeCount ≤ 4)) ∧
    ∀ u, Sys2Proof.Machine.openSegment id retry s = some u →
    ∃ g r stamp, segAt g s = some r ∧ r.state = .free ∧ s.nextStamp = some stamp ∧
      (∀ h x, segAt h s = some x → x.state = .free → r.eraseCount < x.eraseCount ∨
        (r.eraseCount = x.eraseCount ∧ g ≤ h)) ∧
      (id = .host → retry = false → 5 ≤ s.freeCount) ∧
      segAt g u = some { r with state := .opened, stream := some id, openStamp := some stamp, nextPage := some 1 } ∧
      (∀ h, h ≠ g → segAt h u = segAt h s) ∧ (streamOf id u).openSeg = some g ∧
      ((streamOf id s).stranded = false → bufferDest id u = some (g, 1)) ∧ u.flash = s.flash ∧
      u.nextStamp = (if stamp + 1 < 2 ^ 32 then some (stamp + 1) else none) ∧ u.freeCount = s.freeCount - 1 ∧
      (s.freeCount - 1 ≤ 4 ∧ s.lowFree = false →
        u.lowFree = true ∧ u.link.notices = pushNotice (.spaceLow (s.freeCount - 1)) s.link.notices) ∧
      (¬ (s.freeCount - 1 ≤ 4 ∧ s.lowFree = false) → u.lowFree = s.lowFree ∧ u.link = s.link)

/-- A commit cause: none on an empty buffer or a stranded stream; a mark behind a page in flight; otherwise the buffer's
entries, filled with PAD, become the page in flight with its trailer, the buffer empties, and the program of the page is
claimed or waits outside its place (R51).
COMMIT_WINDOW_EXPIRY is a commit cause of the HOST stream; an expiry that finds the timer stopped has no effect
(R52). -/
def Obligations.CommitCausesActByTheStream : Prop :=
  (∀ (id : StreamId) (s : State),
    let st := streamOf id s
    (st.stranded = true ∨ st.buffer = [] → commitCause id s = s) ∧
    (st.stranded = false → st.buffer ≠ [] → st.inFlight.isSome →
      commitCause id s = modStream id (fun x => { x with commitRequested := true }) s) ∧
    (st.stranded = false → st.buffer ≠ [] → st.inFlight = none → ∀ g p, bufferDest id s = some (g, p) →
      let page := if st.ended ∨ 16 ≤ st.cellsUsed then st.buffer else st.buffer ++ [⟨st.cellsUsed, .pad⟩]
      let t := commitCause id s
      ∃ tr, (streamOf id t).inFlight = some ⟨g, p, page, tr⟩ ∧ tr.stream = id ∧ tr.page = p ∧
        tr.stamp = ((segAt g s).bind SegRec.openStamp).getD 0 ∧ tr.count = (withoutPads page).length ∧
        tr.starts = (withoutPads page).map Placed.cell ∧ tr.lowest = lowestOf (seqsOf page) ∧
        tr.highest = highestOf (seqsOf page) ∧
        (streamOf id t).buffer = [] ∧ (streamOf id t).cellsUsed = 0 ∧ (streamOf id t).ended = false ∧
        (streamOf id t).commitRequested = false ∧ (streamOf id t).finalPage = false ∧
        (p < 47 → st.finalPage = false → segAt g t = (segAt g s).map (fun r => { r with nextPage := some (p + 1) })) ∧
        (p = 47 ∨ st.finalPage = true → (streamOf id t).openSeg = none ∧ segState g t = some .full) ∧
        (id = .host → t.commitTimer = none) ∧ t.index = s.index ∧ t.nextSeq = s.nextSeq ∧
        (⟨streamClass id, streamOrigin id, .program g p (.entries page tr)⟩ : Claim) ∈
          (t.arr.place (streamClass id)).toList ++ t.arr.outside)) ∧
  (∀ s : State, isHeld s = false →
    (∀ w, s.commitTimer = some w →
      exec .commitWindowExpiry s = .next (settle (commitCause .host { s with commitTimer := none }))) ∧
    (s.commitTimer = none → exec .commitWindowExpiry s = .next s))

/-! ## The other requests (chapters 1, 5, 7, 9, 11) -/

/-- A GET by what its key is (R16, R63, R189): NOT_FOUND, LOST with sequence and length, the value from RAM for a pending
record, or a HOST read claim for a programmed one.
The value of a pending record is the one its stream holds: GET finds, in the page in flight or the buffer that its location
names, the bytes of the entry at its cell, of the HOST stream for a record just placed and of the RELOCATE stream for a
relocated copy, whose page is none of the HOST stream's (R63, R62). In UNFORMATTED it is answered UNFORMATTED (Table 9-4). -/
def Obligations.GetByTheIndexEntry : Prop :=
  (∀ s n k, Takes n (.get k) s → s.startup.mode = .unformatted →
    exec .get s = .next (settle (answeredIn n .unformatted .none s))) ∧
  (∀ s n k, Takes n (.get k) s → Serves s →
    (16 ≤ k.space → exec .get s = .next (settle (answeredIn n .badRequest .none s))) ∧
    (k.space < 16 →
      (isPresent (lookup k s) = false → exec .get s = .next (settle (answeredIn n .notFound .none s))) ∧
      (∀ q len, lookup k s = some (.lost q len) →
        exec .get s = .next (settle (answeredIn n .lost (.lostRecord q len) s))) ∧
      (∀ q len cells loc, lookup k s = some (.live q len cells loc false) →
        exec .get s = .next (settle (answeredIn n .ok (.value q len 0 (ramValue loc s)) s))) ∧
      ∀ q len cells loc, lookup k s = some (.live q len cells loc true) →
        exec .get s = .next (settle (makeClaim .host .requestEngine (.readKey k) (takenSlot n s))))) ∧
  ∀ (s : State) (id : StreamId) (g p : Nat) (front back : List Placed) (cell : Nat) (k : Key) (q len : Nat)
    (chk : BitVec 16) (v : List Byte), (∀ x ∈ front, x.cell ≠ cell) →
    (id = .relocate → bufferDest .host s ≠ some (g, p) ∧ ∀ f, s.host.inFlight = some f → ¬ (f.seg = g ∧ f.page = p)) →
    (bufferDest id s = some (g, p) → (∀ f, (streamOf id s).inFlight = some f → ¬ (f.seg = g ∧ f.page = p)) →
      (streamOf id s).buffer = front ++ ⟨cell, .record k q len chk v⟩ :: back → ramValue ⟨g, p, cell⟩ s = v) ∧
    ∀ tr, (streamOf id s).inFlight = some ⟨g, p, front ++ ⟨cell, .record k q len chk v⟩ :: back, tr⟩ →
      ramValue ⟨g, p, cell⟩ s = v

/-- A LIST is answered OK with the walk of R17: the elements are the present keys of the space after the cursor, LIVE or
LOST with length and sequence, in strictly rising item order, the first `maximum` of them, and the more flag says whether
more follow (R17, R190). In UNFORMATTED it is answered UNFORMATTED (Table 9-4). -/
def Obligations.ListWalksThePresentKeys : Prop :=
  (∀ s n space after m, Takes n (.list space after m) s → s.startup.mode = .unformatted →
    exec .list s = .next (settle (answeredIn n .unformatted .none s))) ∧
  (∀ s n space after m, Takes n (.list space after m) s → Serves s → 16 ≤ space →
    exec .list s = .next (settle (answeredIn n .badRequest .none s))) ∧
  ∀ s n space after m, Takes n (.list space after m) s → Serves s → space < 16 → Store.Canonical s.index →
    ∃ all : List ListItem,
      exec .list s = .next (settle (answeredIn n .ok (.listing (decide (m < all.length)) (all.take m)) s)) ∧
      (all.map ListItem.item).Pairwise (· < ·) ∧
      ∀ x : ListItem, x ∈ all ↔ x.item < 65536 ∧ (∀ a, after = some a → a < x.item) ∧
        ∃ e, lookup ⟨space, x.item⟩ s = some e ∧ e.present = true ∧ x.seq = e.seq ∧
          ((∃ q cells loc pr, e = .live q x.len cells loc pr ∧ x.lost = false) ∨
            (∃ q, e = .lost q x.len ∧ x.lost = true))

/-- A SYNC: MEDIA_FAULT over a stranded HOST stream, OK at once when no HOST entry is pending, otherwise its mark, the
highest pending sequence, joins the list, its slot goes AWAITING_COMMIT, and the HOST buffer gains a commit cause (R58, R53,
R191).
A COMPACT is answered OK with the free count when its target, or the stop watermark, is reached, and joins the COMPACT
list otherwise; in READ_ONLY it is answered READ_ONLY_MODE with the free count (R93, R191). In UNFORMATTED both are
answered UNFORMATTED (Table 9-4). -/
def Obligations.SyncAndCompactAnswerOrWait : Prop :=
  (∀ s n, Takes n .sync s → s.startup.mode = .unformatted →
    exec .sync s = .next (settle (answeredIn n .unformatted .none s))) ∧
  (∀ s n target, Takes n (.compact target) s → s.startup.mode = .unformatted →
    exec .compact s = .next (settle (answeredIn n .unformatted .none s))) ∧
  (∀ s n, Takes n .sync s → Serves s →
    (s.host.stranded = true → exec .sync s = .next (settle (answeredIn n .mediaFault .none s))) ∧
    (s.host.stranded = false → s.host.pendingEntries = [] →
      exec .sync s = .next (settle (answeredIn n .ok .none s))) ∧
    (s.host.stranded = false → s.host.pendingEntries ≠ [] → exec .sync s = .next (settle (commitCause .host
      { modSlot n (fun sl => { sl with state := .awaitingCommit }) s with
        syncMarks := s.syncMarks ++ [⟨n, (highestOf (seqsOf s.host.pendingEntries)).getD 0⟩] })))) ∧
  (∀ s n target, Takes n (.compact target) s →
    let goal := match target with
      | some x => x
      | none => s.params.compactStop
    (s.startup.mode = .readOnly →
      exec .compact s = .next (settle (answeredIn n .readOnlyMode (.freeCount s.freeCount) s))) ∧
    (s.startup.mode = .ready → goal ≤ s.freeCount →
      exec .compact s = .next (settle (answeredIn n .ok (.freeCount s.freeCount) s))) ∧
    (s.startup.mode = .ready → s.freeCount < goal → exec .compact s = .next (settle
      { modSlot n (fun sl => { sl with state := .awaitingCompaction }) s with
        comp := { s.comp with compacts := s.comp.compacts ++ [⟨n, goal⟩] } })))

/-- SEGMENT_INFO reports a data segment's record, or a mirror's erase count, whether it is current, its next page and its
generation; SPACE_INFO reports the space record; out of range they are BAD_REQUEST (R192, R125). In UNFORMATTED both are
answered UNFORMATTED (Table 9-4). -/
def Obligations.InfoRequestsReport : Prop :=
  (∀ s n g, Takes n (.segmentInfo g) s → s.startup.mode = .unformatted →
    exec .segmentInfo s = .next (settle (answeredIn n .unformatted .none s))) ∧
  (∀ s n sp, Takes n (.spaceInfo sp) s → s.startup.mode = .unformatted →
    exec .spaceInfo s = .next (settle (answeredIn n .unformatted .none s))) ∧
  (∀ s n g, Takes n (.segmentInfo g) s → Serves s →
    (g = 0 → exec .segmentInfo s = .next (settle (answeredIn n .ok (.mirror s.cat.mirrorA.eraseCount
      (s.cat.current == .a) (if s.cat.current = .a then s.cat.nextPage.getD 0 else 0) (s.cat.mirrorA.gen.getD 0)) s))) ∧
    (g = 1 → exec .segmentInfo s = .next (settle (answeredIn n .ok (.mirror s.cat.mirrorB.eraseCount
      (s.cat.current == .b) (if s.cat.current = .b then s.cat.nextPage.getD 0 else 0) (s.cat.mirrorB.gen.getD 0)) s))) ∧
    (2 ≤ g → g < 1024 → ∀ r, segAt g s = some r →
      exec .segmentInfo s = .next (settle (answeredIn n .ok (.segment r) s))) ∧
    (1024 ≤ g → exec .segmentInfo s = .next (settle (answeredIn n .badRequest .none s)))) ∧
  ∀ s n sp, Takes n (.spaceInfo sp) s → Serves s →
    (16 ≤ sp → exec .spaceInfo s = .next (settle (answeredIn n .badRequest .none s))) ∧
    (sp < 16 → ∀ r, Store.get sp s.spaces = some r →
      exec .spaceInfo s = .next (settle (answeredIn n .ok (.space r) s)))

/-- SET_PARAM by Table 11-3: a value in its range is taken at once and answered OK, any other is BAD_PARAM and changes
nothing. A patrol interval restarts or stops the timer (R120) (R193). In UNFORMATTED it is answered UNFORMATTED (Table 9-4).
A lowered threshold brings a THRESHOLD arrival for every OPEN, FULL or EVACUATING segment whose worst health is a corrected
count at or above it, in ascending segment number (R112): those without a reason join the ordinary part in that order, a
reason none or WEAR becomes THRESHOLD, any other stays, and no worst health and no urgent member changes. -/
def Obligations.SetParamByItsTable : Prop :=
  (∀ s n code v, Takes n (.setParam code v) s → s.startup.mode = .unformatted →
    exec .setParam s = .next (settle (answeredIn n .unformatted .none s))) ∧
  (∀ (v : Nat) (s : State), Store.Canonical s.segs →
    let t := thresholdLowered v s
    let hit (g : Nat) : Prop := ∃ r k, segAt g s = some r ∧
      (r.state = .opened ∨ r.state = .full ∨ r.state = .evacuating) ∧ r.worst = .bits k ∧ v ≤ k
    (∃ gs : List Nat, gs.Pairwise (· < ·) ∧ (∀ g, g ∈ gs ↔ hit g) ∧
      t = gs.foldl (fun x g => refreshArrival g .threshold x) s) ∧
    t.urgent = s.urgent ∧
    (∃ new : List Nat, t.ordinary = s.ordinary ++ new ∧ new.Pairwise (· < ·) ∧
      ∀ g, g ∈ new ↔ hit g ∧ (segAt g s).bind SegRec.reason = none) ∧
    ∀ g r, segAt g s = some r → ∃ r', segAt g t = some r' ∧ r'.worst = r.worst ∧
      (hit g → r.reason = none ∨ r.reason = some .wear → r'.reason = some .threshold) ∧
      (¬ hit g ∨ (r.reason ≠ none ∧ r.reason ≠ some .wear) → r'.reason = r.reason)) ∧
  ∀ s n code v, Takes n (.setParam code v) s → Serves s →
    let p := s.params
    let q := { s with engine := { s.engine with active := some n } }
    (code = 1 → v ≤ 50 → exec .setParam s =
      .next (settle (answeredIn n .ok .none { s with params := { p with commitWindow := v } }))) ∧
    (code = 2 → v = 0 ∨ 10 ≤ v ∧ v ≤ 10000 → exec .setParam s = .next (settle (answeredIn n .ok .none { s with
      params := { p with patrolInterval := v }
      patrol := { s.patrol with timer := if v = 0 then none else some v } }))) ∧
    (code = 3 → 1 ≤ v ∧ v ≤ 12 → p.threshold ≤ v → exec .setParam s =
      .next (settle (answeredIn n .ok .none { s with params := { p with threshold := v } }))) ∧
    (code = 3 → 1 ≤ v ∧ v ≤ 12 → v < p.threshold → exec .setParam s = .next (settle (answer n .ok .none
      (thresholdLowered v { modSlot n (fun sl => { sl with state := .active }) q with
        params := { p with threshold := v } })))) ∧
    (code = 4 → 6 ≤ v ∧ v ≤ 64 ∧ v + 2 ≤ p.compactStop → exec .setParam s =
      .next (settle (answeredIn n .ok .none { s with params := { p with compactStart := v } }))) ∧
    (code = 5 → p.compactStart + 2 ≤ v ∧ v ≤ 96 → exec .setParam s =
      .next (settle (answeredIn n .ok .none { s with params := { p with compactStop := v } }))) ∧
    (¬ (code = 1 ∧ v ≤ 50) → ¬ (code = 2 ∧ (v = 0 ∨ 10 ≤ v ∧ v ≤ 10000)) → ¬ (code = 3 ∧ 1 ≤ v ∧ v ≤ 12) →
      ¬ (code = 4 ∧ 6 ≤ v ∧ v ≤ 64 ∧ v + 2 ≤ p.compactStop) → ¬ (code = 5 ∧ p.compactStart + 2 ≤ v ∧ v ≤ 96) →
      exec .setParam s = .next (settle (answeredIn n .badParam .none s)))

/-- FREEZE sets the frozen field of its space, in READY and READ_ONLY, and is answered OK (R128, R194). In UNFORMATTED it,
SET_POLICY and SET_QUOTA are answered UNFORMATTED, and in READ_ONLY the latter two READ_ONLY_MODE (Table 9-4).
A barrier request whose change is made waits for the catalogue: its slot goes AWAITING_CATALOGUE, the engine holds it,
the catalogue is dirty, and a waiter needs the generation after the begun one (R136, R145). `s` is the state with the
change made. -/
def Obligations.FreezePolicyAndQuotaChangeTheSpace : Prop :=
  (∀ s n sp, Takes n (.freeze sp) s → s.startup.mode = .unformatted →
    exec .freeze s = .next (settle (answeredIn n .unformatted .none s))) ∧
  (∀ s n sp pol pin, Takes n (.setPolicy sp pol pin) s →
    (s.startup.mode = .unformatted → exec .setPolicy s = .next (settle (answeredIn n .unformatted .none s))) ∧
    (s.startup.mode = .readOnly → exec .setPolicy s = .next (settle (answeredIn n .readOnlyMode .none s)))) ∧
  (∀ s n sp quota, Takes n (.setQuota sp quota) s →
    (s.startup.mode = .unformatted → exec .setQuota s = .next (settle (answeredIn n .unformatted .none s))) ∧
    (s.startup.mode = .readOnly → exec .setQuota s = .next (settle (answeredIn n .readOnlyMode .none s)))) ∧
  (∀ s n sp, Takes n (.freeze sp) s → Serves s →
    (16 ≤ sp → exec .freeze s = .next (settle (answeredIn n .badRequest .none s))) ∧
    (sp < 16 → exec .freeze s =
      .next (settle (answeredIn n .ok .none { s with spaces := Store.modify sp (fun r => { r with frozen := true }) s.spaces })))) ∧
  (let waits (n : Nat) (s : State) : State := { modSlot n (fun sl => { sl with state := .awaitingCatalogue }) s with
     engine := { s.engine with active := some n }
     cat := { s.cat with dirty := true, waiters := s.cat.waiters ++ [⟨.slot n, s.cat.begun + 1⟩] } }
   (∀ s n sp pol pin, Takes n (.setPolicy sp pol pin) s → s.startup.mode = .ready →
     let r := spaceAt sp s
     (s.pfw = true → exec .setPolicy s = .next (settle (answeredIn n .powerLow .none s))) ∧
     (s.pfw = false → (16 ≤ sp ∨ 2 < pol ∨ 1 < pin) →
       exec .setPolicy s = .next (settle (answeredIn n .badRequest .none s))) ∧
     (s.pfw = false → sp < 16 → pin ≤ 1 → ∀ named, policyOf pol = some named →
       (Policy.code named < Policy.code r.policy →
         exec .setPolicy s = .next (settle (answeredIn n .downgrade .none s))) ∧
       (Policy.code r.policy ≤ Policy.code named → r.pinGuard = true ∧ s.wp = true →
         exec .setPolicy s = .next (settle (answeredIn n .writeProtected .none s))) ∧
       (Policy.code r.policy ≤ Policy.code named → r.pinGuard = false ∨ s.wp = false →
         exec .setPolicy s = .next (settle (waits n { s with
           spaces := Store.modify sp (fun x => { x with policy := named, pinGuard := pin == 1 }) s.spaces }))))) ∧
   ∀ s n sp quota, Takes n (.setQuota sp quota) s → s.startup.mode = .ready →
     let r := spaceAt sp s
     (s.pfw = true → exec .setQuota s = .next (settle (answeredIn n .powerLow .none s))) ∧
     (s.pfw = false → (16 ≤ sp ∨ 768544 < quota) →
       exec .setQuota s = .next (settle (answeredIn n .badRequest .none s))) ∧
     (s.pfw = false → sp < 16 → quota ≤ 768544 →
       (r.pinGuard = true ∧ s.wp = true → exec .setQuota s = .next (settle (answeredIn n .writeProtected .none s))) ∧
       (r.pinGuard = false ∨ s.wp = false → quota ≠ 0 → quota < r.usage →
         exec .setQuota s = .next (settle (answeredIn n .quotaBelowUsage .none s))) ∧
       (r.pinGuard = false ∨ s.wp = false → quota = 0 ∨ r.usage ≤ quota →
         exec .setQuota s = .next (settle (waits n { s with
           spaces := Store.modify sp (fun x => { x with quota := if quota = 0 then none else some quota }) s.spaces })))))

/-- The seven checks of a CLEAR_SPACE in order; the first that fails answers it and nothing else changes (R137).
A CLEAR_SPACE that passes its checks: the clear sequence becomes the next sequence, which is not raised, no key of the
space has an entry, every other key keeps its entry, and usage and key count are 0; the cells of the removed LIVE and
TOMBSTONE entries leave their segments' live cells; the slot waits for the catalogue (R138, R15). -/
def Obligations.ClearSpaceRemovesEveryEntry : Prop :=
  (∀ (sp : Nat) (s : State), firstRefusal (clearChecks sp s) =
    let r := spaceAt sp s
    if s.startup.mode = .mounting then some (.notReady, .none)
    else if s.startup.mode = .unformatted then some (.unformatted, .none)
    else if s.startup.mode = .readOnly then some (.readOnlyMode, .none)
    else if s.pfw then some (.powerLow, .none)
    else if 16 ≤ sp then some (.badRequest, .none)
    else if r.frozen then some (.frozen, .none)
    else if r.policy = .readOnly then some (.readOnlySpace, .none)
    else if r.pinGuard ∧ s.wp then some (.writeProtected, .none)
    else if r.policy = .writeOnce then some (.exists, .none)
    else none) ∧
  (∀ s n sp st data, Takes n (.clearSpace sp) s → firstRefusal (clearChecks sp s) = some (st, data) →
    exec .clearSpace s = .next (settle (answeredIn n st data s))) ∧
  ∀ s n sp r, Takes n (.clearSpace sp) s → firstRefusal (clearChecks sp s) = none → TablesCanonical s →
    Store.get sp s.spaces = some r →
    ∃ u, exec .clearSpace s = .next (settle u) ∧
      (∀ i, i < 65536 → lookup ⟨sp, i⟩ u = none) ∧
      (∀ k : Key, k.space ≠ sp → k.item < 65536 → lookup k u = lookup k s) ∧
      Store.get sp u.spaces = some { r with clearSeq := nextSeqOf s, usage := 0, keyCount := 0 } ∧
      (∀ m, m ≠ sp → Store.get m u.spaces = Store.get m s.spaces) ∧
      (∀ g,
        let gone := total ((s.index.filter (fun p => (Key.ofCode p.1).space == sp)).map (fun p => cellsIn g (some p.2)))
        segAt g u = (segAt g s).map (fun x => { x with live := x.live - gone })) ∧
      u.nextSeq = s.nextSeq ∧ u.host = s.host ∧ u.reloc = s.reloc ∧ u.flash = s.flash ∧
      slotAt n u = (slotAt n s).map (fun sl => { sl with state := .awaitingCatalogue }) ∧ u.engine.active = some n ∧
      u.cat = { s.cat with dirty := true, waiters := s.cat.waiters ++ [⟨.slot n, s.cat.begun + 1⟩] }

/-- A FORMAT's five checks in order; the first that fails answers it and nothing else changes (R169). Its beginning:
FORMATTING with no cause and a MODE_CHANGED notice, the HOST buffer's commit cause, which makes the buffer the page in
flight and claims its program, the evacuation abandoned and the patrol claim withdrawn; the slot stays ACTIVE (R170, R69,
R51, R109, R124). -/
def Obligations.FormatChecksAndBegins : Prop :=
  (∀ s : State, firstRefusal (formatChecks s) =
    if s.startup.mode = .mounting then some (.notReady, .none)
    else if s.pfw = true then some (.powerLow, .none)
    else if s.host.stranded = true ∨ s.reloc.stranded = true then some (.mediaFault, .none)
    else if ∃ p ∈ s.spaces, p.2.policy ≠ .opened then some (.permanentSpaces, .none)
    else if s.wp = true ∧ ∃ p ∈ s.spaces, p.2.pinGuard = true then some (.writeProtected, .none)
    else none) ∧
  ∀ s n, Takes n .format s →
    (∀ st data, firstRefusal (formatChecks s) = some (st, data) →
      exec .format s = .next (settle (answeredIn n st data s))) ∧
    (firstRefusal (formatChecks s) = none → ∃ u, exec .format s = .next (settle u) ∧
      u.startup.mode = .formatting ∧ u.startup.cause = none ∧
      (∃ f, u.startup.format = some f ∧ f.phase = .resting ∧ f.slot = some n) ∧
      u.link.notices = pushNotice (.modeChanged .formatting none) s.link.notices ∧
      u.engine.active = some n ∧ slotAt n u = (slotAt n s).map (fun sl => { sl with state := .active }) ∧
      u.index = s.index ∧ u.spaces = s.spaces ∧ u.flash = s.flash ∧ u.nextSeq = s.nextSeq ∧ u.cat = s.cat ∧
      u.host = (commitCause .host s).host ∧ u.commitTimer = (commitCause .host s).commitTimer ∧
      (s.host.buffer = [] → u.host = s.host) ∧
      (s.host.buffer ≠ [] → s.host.inFlight.isSome → u.host = { s.host with commitRequested := true }) ∧
      (s.host.buffer ≠ [] → s.host.inFlight = none → ∀ g p, bufferDest .host s = some (g, p) →
        u.host.buffer = [] ∧ ∃ page tr, u.host.inFlight = some ⟨g, p, page, tr⟩ ∧
          page = (if s.host.ended = true ∨ 16 ≤ s.host.cellsUsed then s.host.buffer
            else s.host.buffer ++ [⟨s.host.cellsUsed, .pad⟩]) ∧
          (⟨.host, .hostStream, .program g p (.entries page tr)⟩ : Claim) ∈ u.arr.hostPlace.toList ++ u.arr.outside) ∧
      (∀ v, u.comp.victim = some v → v.phase = .erasing ∨ v.phase = .header) ∧
      (∀ c ∈ u.arr.patPlace.toList ++ u.arr.outside.filter (fun c => c.cls == .patrol), c.origin ≠ .patrolUnit))

/-- FORMAT_EMPTYING, once the blocks are at rest: the index, the Refresh Queue and the streams are emptied, OPEN
segments become FULL, every live cells field, reason, usage and key count is cleared, every COMPACT is answered
NO_GAIN with the free count, the no-gain mark is cleared, condemned waiters leave, the catalogue is not dirty, the
next sequence and the open stamp counter become 1, and the first segment's header is read (R170, R43, R69, R18, R93,
R106, R109, R152). Before, it changes nothing, a model choice (assumption 4).
The erasing (R43, R171): the segments not RETIRED are taken in ascending number, each once its header is read. It
becomes ERASING, its record made where it has none, and its erase is claimed with its header's counts or, the header
unreadable, 0 strikes and the highest erase count of the records or, from UNFORMATTED, of the headers so far. Its
erase OK, its counts, one erase more, up to 1,000,000, enter the record and the header is claimed with the next
snapshot's generation as format stamp; its header OK, it is FREE, the free count unchanged. Either FAIL condemns it
with ERASE_FAULT into the pending retirement set.
At the end the free count is set and the low-free condition follows, SPACE_LOW at its entry; every
space takes its FORMAT values, its frozen mark kept (R140); the failed mark and failure count are cleared;
the final snapshot is begun: its generation is its format stamp, its spaces are fresh, and its retired list gains the
pending segments, ascending, up to 96. The slot, AWAITING_CATALOGUE, and the segments that fit wait for it; the others
leave RETIRED_LIST_FULL pending; a program or the mirror switch is claimed (R152(3), R171).
Of the model (assumptions): the counts enter at the erase's OK, where R43(1) has the header's (20); the worst health a
header read leaves, no cause from ERASING (21); no open stamp or lowest sequence in a new record (22); the slot is
the first waiter (29); a free stamp with no generation left (54). -/
def Obligations.FormatEmptyingEmptiesTheStore : Prop :=
  (∀ (s : State) (ok : Bool), isHeld s = false →
    (∀ g p d, s.arr.op = some (.program .startup g p d) → exec (.programCompletion ok) s =
      .next (settleAfterOp (startupHeader ok { s with
        arr := { s.arr with op := none }
        flash := Store.put (pageAddr g p) ⟨some d, if ok = true then .sound else .unknown⟩ s.flash }))) ∧
    ∀ e, s.arr.op = some (.erase e) → e.origin = .startup →
      let idle := { s with arr := { s.arr with op := none } }
      exec (.eraseCompletion ok) s = .next (settleAfterOp (startupErased ok
        (if ok = true then blankSegment e.seg idle else spoilSegment e.seg Quality.eraseFailed idle)))) ∧
  (∀ (s : State) (f : Format), s.startup.mount = none → s.startup.format = some f →
    let now (x : Format) (t : State) : State := { t with startup := { t.startup with format := some x } }
    let change (g : Nat) (h : SegRec → SegRec) : State := { s with segs := Store.modify g h s.segs }
    let failed (g : Nat) : State := now { f with pendingRetire := f.pendingRetire ++ [g] }
      (change g (fun r => { r with state := .condemned, cause := some .eraseFault }))
    (∀ g page o, f.phase = .header g → ∃ count strikes top,
      let taken : SegRec := match segAt g s with
        | some r => { r with state := .erasing, stream := none, nextPage := none, live := 0, reason := none, cause := none }
        | none => ⟨.erasing, none, count, strikes, none, none, 0, none, o.worst, none, none⟩
      startupReadEnded g page o s = makeClaim .catalogue .startup (.erase g)
        (now { f with phase := .erasing g, eraseCount := count, strikes := strikes, highestHeader := top }
          { s with segs := Store.put g taken s.segs }) ∧
      (∀ w n k st chk, o = .written w → w.ownCheck = true → w.data = some (.segHeader n k st chk) →
        count = n ∧ strikes = k ∧ top = max f.highestHeader n) ∧
      ((∀ w n k st chk, o = .written w → w.ownCheck = true → w.data ≠ some (.segHeader n k st chk)) →
        strikes = 0 ∧ top = f.highestHeader ∧
        (f.fromUnformatted = true → count = f.highestHeader) ∧
        (f.fromUnformatted = false → (∀ p ∈ s.segs, p.2.eraseCount ≤ count) ∧
          (s.segs ≠ [] → ∃ p ∈ s.segs, p.2.eraseCount = count)))) ∧
    (∀ g, f.phase = .erasing g →
      let count := min (f.eraseCount + 1) 1000000
      let claimed (stamp draws : Nat) : State := makeClaim .catalogue .startup
        (.program g 0 (segHeader count f.strikes stamp))
        { now { f with phase := .rewriting g }
            (change g (fun r => { r with eraseCount := count, strikes := f.strikes, worst := .bits 0 })) with
          freeDraws := draws }
      (s.cat.begun + 1 < 2 ^ 32 → startupErased true s = claimed (s.cat.begun + 1) s.freeDraws) ∧
      (¬ s.cat.begun + 1 < 2 ^ 32 → ∃ stamp, stamp < 2 ^ 32 ∧ startupErased true s = claimed stamp (s.freeDraws + 1)) ∧
      startupErased false s = formatTake (g + 1) (failed g)) ∧
    (∀ g, f.phase = .rewriting g →
      startupHeader true s = formatTake (g + 1) (change g (fun r => { r with
        state := .free, openStamp := none, lowestSeq := none, live := 0, worst := .bits 0, cause := none })) ∧
      startupHeader false s = formatTake (g + 1) (failed g)) ∧
    (∀ g n, g ≤ n → n < 1024 → segState n s ≠ some .retired →
      (∀ h, g ≤ h → h < n → segState h s = some .retired) →
      formatTake g s = makeClaim .catalogue .startup (.read n 0) (now { f with phase := .header n } s)) ∧
    ∀ g, (∀ n, g ≤ n → n < 1024 → segState n s = some .retired) → s.startup.mode = .formatting →
      (∀ x ∈ s.cat.waiters, ∀ h, x.who ≠ .segment h) → f.pendingRetire.Pairwise (· < ·) → s.cat.begun + 1 < 2 ^ 32 →
      let u := formatTake g s
      let gen := s.cat.begun + 1
      let free := (s.segs.filter (fun p => p.2.state == .free)).length
      let fits := f.pendingRetire.take (96 - s.cat.retired.length)
      u.segs = s.segs ∧ u.index = s.index ∧ u.freeCount = free ∧ u.lowFree = decide (free ≤ 4) ∧
      u.link.notices = (if free ≤ 4 ∧ s.lowFree = false then pushNotice (.spaceLow free) s.link.notices
        else s.link.notices) ∧
      (∀ n, n < 16 → Store.get n u.spaces = some ⟨.opened, false, (spaceAt n s).frozen, none, 0, 0, 0⟩) ∧
      u.startup.mode = .formatting ∧ u.startup.format = some { f with phase := .snapshot, retiring := fits.length } ∧
      u.startup.pendingCause = (if s.startup.pendingCause = none ∧ fits ≠ f.pendingRetire then some .retiredListFull
        else s.startup.pendingCause) ∧
      (∀ n, f.slot = some n → slotAt n u = (slotAt n s).map (fun sl => { sl with state := .awaitingCatalogue })) ∧
      (∀ n, f.slot ≠ some n → slotAt n u = slotAt n s) ∧
      u.cat.begun = gen ∧ u.cat.formatStamp = gen ∧ u.cat.dirty = false ∧ u.cat.failed = false ∧ u.cat.failures = 0 ∧
      u.cat.retired = s.cat.retired ∧
      u.cat.waiters = s.cat.waiters ++ f.slot.toList.map (fun n => ⟨.slot n, gen⟩) ++
        fits.map (fun h => ⟨.segment h, gen⟩) ∧
      ∃ w, u.cat.write = some w ∧ w.snap.gen = gen ∧ w.snap.stamp = gen ∧
        w.snap.spaces = List.replicate 16 ⟨.opened, false, none, 0⟩ ∧
        (∀ h, h ∈ w.snap.retired ↔ h ∈ s.cat.retired ∨ h ∈ fits) ∧
        (∀ p, s.cat.nextPage = some p → w.step = .program ∧ w.page = p ∧
          (⟨.catalogue, .writer, .program (Mirror.seg s.cat.current) p (.snapshot w.snap)⟩ : Claim) ∈
            u.arr.catPlace.toList ++ u.arr.outside) ∧
        (s.cat.nextPage = none → w.step = .erase ∧
          (⟨.catalogue, .writer, .erase (Mirror.seg (Mirror.other s.cat.current))⟩ : Claim) ∈
            u.arr.catPlace.toList ++ u.arr.outside)) ∧
  (∀ s : State, isHeld s = false → formatAtRest s = false → exec .formatEmptying s = .next s) ∧
  (∀ s : State, formatAtRest s = true ↔ ((∃ f, s.startup.format = some f ∧ f.phase = .resting) ∧
    s.host.inFlight = none ∧ s.reloc.inFlight = none ∧ s.host.buffer = [] ∧ s.comp.running = false ∧
    s.cat.write = none)) ∧
  ∀ s : State, isHeld s = false → formatAtRest s = true →
    ∃ u, exec .formatEmptying s = .next (settle (formatTake 2 u)) ∧
      u = { s with
        index := [], urgent := [], ordinary := [], host := Stream.empty, reloc := Stream.empty, commitTimer := none
        nextSeq := some 1, nextStamp := some 1
        segs := Store.mapVals (fun _ r => { r with
          state := if r.state = .opened then .full else r.state
          stream := none, nextPage := none, live := 0, reason := none }) s.segs
        spaces := Store.mapVals (fun _ r => { r with usage := 0, keyCount := 0 }) s.spaces
        comp := { s.comp with compacts := [], noGain := false }
        cat := { s.cat with dirty := false, waiters := s.cat.waiters.filter (fun w => match w.who with
          | .segment _ => false
          | .slot _ => true) }
        engine := u.engine
        link := { s.link with slots := u.link.slots } } ∧
      (∀ c ∈ s.comp.compacts, ∀ sl, slotAt c.slot s = some sl →
        slotAt c.slot u = some (Slot.answered .noGain (.freeCount s.freeCount) sl)) ∧
      (∀ n, (∀ c ∈ s.comp.compacts, c.slot ≠ n) → slotAt n u = slotAt n s) ∧
      ((∀ c ∈ s.comp.compacts, s.engine.active ≠ some c.slot) → u.engine = s.engine) ∧
      ∀ g, 2 ≤ g → g < 1024 → segState g s ≠ some .retired →
        (∀ h, 2 ≤ h → h < g → segState h s = some .retired) →
        formatTake 2 u = makeClaim .catalogue .startup (.read g 0) { u with
          startup := { u.startup with format := u.startup.format.map (fun f => { f with phase := .header g }) } }

/-! ## Patrol (R121, R122) -/

/-- PATROL_TIMER_EXPIRY in READY, with PFW deasserted and no patrol claim waiting: the page is the cursor's when its
segment is FULL, else page 1 of the lowest-numbered FULL segment above it, else page 1 of the lowest-numbered FULL segment;
its read is claimed in the PATROL class and the cursor moves to the page after it, from page 47 to page 1 of the next
segment number and from segment 1,023 to segment 2. With no FULL segment nothing changes.
A skipped expiry makes no claim and leaves the cursor: outside READY, with PFW asserted, or with the Patrol Unit's
earlier claim waiting (R121). -/
def Obligations.PatrolTimerExpiryReadsOrSkips : Prop :=
  (∀ (s : State) (i : Nat), isHeld s = false → s.patrol.timer = some i → s.startup.mode = .ready → s.pfw = false →
    (∀ c ∈ s.arr.patPlace.toList ++ s.arr.outside, c.origin ≠ .patrolUnit) →
    let full (g : Nat) : Prop := segState g s = some .full
    let moved (g p : Nat) : State :=
      let next : Nat × Nat := if p < 47 then (g, p + 1) else if g + 1 < 1024 then (g + 1, 1) else (2, 1)
      makeClaim .patrol .patrolUnit (.read g p) { s with patrol := { s.patrol with seg := next.1, page := next.2 } }
    (full s.patrol.seg → exec .patrolTimerExpiry s = .next (settle (moved s.patrol.seg s.patrol.page))) ∧
    (∀ g, ¬ full s.patrol.seg → s.patrol.seg < g → g < 1024 → full g → (∀ h, s.patrol.seg < h → h < g → ¬ full h) →
      exec .patrolTimerExpiry s = .next (settle (moved g 1))) ∧
    (∀ g, ¬ full s.patrol.seg → (∀ h, s.patrol.seg < h → h < 1024 → ¬ full h) → g < 1024 → full g →
      (∀ h, h < g → ¬ full h) → exec .patrolTimerExpiry s = .next (settle (moved g 1))) ∧
    ((∀ h, h < 1024 → ¬ full h) → ¬ full s.patrol.seg → exec .patrolTimerExpiry s = .next (settle s))) ∧
  (∀ s : State, isHeld s = false →
    (s.startup.mode ≠ .ready ∨ s.pfw = true ∨
      ∃ c ∈ s.arr.patPlace.toList ++ s.arr.outside, c.origin = .patrolUnit) →
    exec .patrolTimerExpiry s = .next s)

/-! ## The array (chapter 4) -/

/-- READ_COMPLETION of a GET's read: the GET is answered OK with the sequence and length taken at grant, the record's
corrected count and value, when every cell of the record lies in a readable codeword and its header and value check
match, and LOST otherwise, after Health has handled the outcome and before a suspended erase goes on (R119, R80,
R115). The GET's slot becomes REPLY_READY with the answer and the engine is released (R179, R181); with the discard mark set,
which a CANCEL and a soft reset leave, the outcome is dropped, the mark cleared and no slot changes (R181, R183, R184). READ_COMPLETION of any other originator's read goes to Health and then to its originator; of a patrol read only
to Health (R80, R123).
A blank page is reported blank and nothing else, and a page torn by a program cut short never is (R19); a report that says
otherwise changes nothing, which is the model's choice (assumption 4). What the report and the state each give to the
outcome is the model's choice (assumption 7). What Health does, and then the engine, mount and FORMAT, is stated in
`RefreshArrivalOfARead`, `RelocationComparesAndUpdates`, `SnapshotCapturesTheSpaces` with `MountScansAndMakesRecords`, and
`FormatEmptyingEmptiesTheStore`. -/
def Obligations.ReadsEndByTheirOriginator : Prop :=
  (∀ (s : State) (run : ReadRun) (t : GetTaken) (rep : ReadReport), isHeld s = false →
    s.arr.op = some (.read run) → canReport (pageAt run.seg run.page s) rep = true →
    run.origin = .requestEngine → run.get = some t →
    let o := deliver (pageAt run.seg run.page s) rep
    let h := healthHandles run o { s with arr := { s.arr with op := none } }
    exec (.readCompletion rep) s =
      .next (settleAfterOp (suspendNext 2 (answerGet (getOutcome t o).1 (getOutcome t o).2 h))) ∧
    (∀ w v chk, o = .written w → w.cellsReadable t.loc.cell t.cells = true →
      w.entryAt t.loc.cell = some (.record t.key t.seq t.len chk v) → t.loc.cell ∉ w.mismatch →
      getOutcome t o = (.ok, .value t.seq t.len (w.correctedOf t.loc.cell t.cells) v)) ∧
    (∀ w, o = .written w → (w.cellsReadable t.loc.cell t.cells = false ∨ t.loc.cell ∈ w.mismatch ∨
        ∀ chk v, w.entryAt t.loc.cell ≠ some (.record t.key t.seq t.len chk v)) →
      getOutcome t o = (.lost, .lostRecord t.seq t.len)) ∧
    (o = .blank → getOutcome t o = (.lost, .lostRecord t.seq t.len))) ∧
  (∀ (s : State) (st : Status) (d : ReplyData),
    (s.engine.discard = true → answerGet st d s = { s with engine := { s.engine with discard := false } }) ∧
    (s.engine.discard = false → s.engine.active = none → answerGet st d s = s) ∧
    ∀ n, s.engine.discard = false → s.engine.active = some n →
      let u := answerGet st d s
      u = { s with engine := { s.engine with active := none }, link := { s.link with slots := u.link.slots } } ∧
      (∀ sl, slotAt n s = some sl →
        slotAt n u = some { sl with state := .replyReady, wait := none, reply := some (st, d) }) ∧
      ∀ m, m ≠ n → slotAt m u = slotAt m s) ∧
  (∀ (s : State) (run : ReadRun) (rep : ReadReport), isHeld s = false → s.arr.op = some (.read run) →
    canReport (pageAt run.seg run.page s) rep = true →
    let o := deliver (pageAt run.seg run.page s) rep
    let h := healthHandles run o { s with arr := { s.arr with op := none } }
    (run.origin = .patrolUnit → exec (.readCompletion rep) s = .next (settleAfterOp (suspendNext 2 h))) ∧
    (run.origin = .compaction →
      exec (.readCompletion rep) s = .next (settleAfterOp (suspendNext 2 (engineRead run.seg run.page o h)))) ∧
    (run.origin = .startup →
      exec (.readCompletion rep) s = .next (settleAfterOp (suspendNext 2 (startupReadEnded run.seg run.page o h))))) ∧
  (∀ (s : State) (run : ReadRun) (rep : ReadReport), isHeld s = false → s.arr.op = some (.read run) →
    canReport (pageAt run.seg run.page s) rep = false → exec (.readCompletion rep) s = .next s) ∧
  (∀ (page : Option StoredPage) (rep : ReadReport), canReport page rep = true ↔
    ((page = none → rep = .blank) ∧ ∀ x, page = some x → x.quality = .torn → rep ≠ .blank)) ∧
  ∀ (page : Option StoredPage) (cws : Codewords) (trailer check : Bool) (mis : List Nat) (w : Written),
    deliver page (.written cws trailer check mis) = .written w →
    (w.pageCheck = true → w.mismatch = [] ∧ w.trailer.isSome = (page.bind StoredPage.data).any (fun d => match d with
        | .entries _ _ => true
        | _ => false)) ∧
    ((∃ i, i < 4 ∧ Codewords.countAt cws i = none) ∨ trailer = false → w.pageCheck = false) ∧
    ((∃ i, i < 4 ∧ Codewords.countAt cws i = none) → w.ownCheck = false) ∧
    ∀ x, page = some x → x.quality = .torn ∨ x.quality = .halfErased → w.pageCheck = false ∧ w.ownCheck = false

/-- A record reported unreadable: when the key's entry is LIVE with that sequence and location it becomes LOST, keeping
sequence and length, and a RECORD_LOST notice is queued; otherwise nothing changes (R14, R116). -/
def Obligations.UnreadableRecordBecomesLost : Prop :=
  ∀ (k : Key) (q : Nat) (loc : Loc) (s : State), Store.Canonical s.index →
    let t := markLost k q loc s
    (∀ len cells p, lookup k s = some (.live q len cells loc p) →
      lookup k t = some (.lost q len) ∧ (∀ c, c ≠ Key.code k → Store.get c t.index = Store.get c s.index) ∧
      t.link = { s.link with notices := pushNotice (.recordLost k.space k.item q) s.link.notices } ∧
      (∀ g, segAt g t = (segAt g s).map (fun r => { r with live := r.live - (if g = loc.seg then cells else 0) })) ∧
      ∀ m r, Store.get m s.spaces = some r → (m = k.space → 1 ≤ r.keyCount) →
        Store.get m t.spaces = some (if m = k.space then { r with usage := r.usage - cells } else r)) ∧
    ((∀ len cells p, lookup k s ≠ some (.live q len cells loc p)) → t = s)

/-- How Health handles a read outcome, before its originator sees it (R113, R114, R118). Of a system segment it keeps
nothing. In MOUNTING, UNFORMATTED and FORMATTING it only raises the segment's worst health. In READY and READ_ONLY it first
raises the worst health by a written outcome, then judges every LIVE programmed entry located in the page in ascending first
cell and marks LOST each that is unreadable (R115), and last a refresh reason may arrive: R117's, where the record of a GET's
read is judged beside them, or UNCORRECTABLE for a blank page in which an index entry, pending or not, is located. That a
pending entry counts, that a blank outcome passes through Health, and that the worst health rises in CONDEMNED and RETIRED
too, is the model's reading (assumptions 17, 43 and 53).
The refresh arrival of a written read of a data segment (R117): UNCORRECTABLE, else THRESHOLD, else none.
A reason that arrives (R87, R88, R29): for a segment that is no member it enters the record, and the segment joins the end
of the urgent part with an urgent reason and of the ordinary part with any other, while it is OPEN, FULL or EVACUATING; in
any other state nothing changes. An OPEN one is closed: at once over an empty buffer, and otherwise by a commit cause with
the buffer marked final (R36, R55), in READ_ONLY too, which is the model's reading (assumption 50). For a member a reason of the same or a lower rank changes nothing, THRESHOLD replaces
WEAR in place, and an urgent one moves the member to the end of the urgent part. -/
def Obligations.RefreshArrivalOfARead : Prop :=
  (∀ (run : ReadRun) (o : ReadOutcome) (s : State),
    let raise (w : Written) (r : SegRec) : SegRec := { r with worst := Health.worse r.worst (Codewords.worst w.codewords) }
    let raised := match o with
      | .blank => s
      | .written w => { s with segs := Store.modify run.seg (raise w) s.segs }
    (run.seg < 2 → healthHandles run o s = s) ∧
    (2 ≤ run.seg → s.startup.mode ≠ .ready → s.startup.mode ≠ .readOnly → healthHandles run o s = raised) ∧
    (2 ≤ run.seg → Serves s → Store.Canonical s.index → ∃ js : List Judged,
      (js.map (fun j => j.loc.cell)).Pairwise (· ≤ ·) ∧
      (∀ j, j ∈ js ↔ j.key.item < 65536 ∧ lookup j.key s = some (.live j.seq j.len j.cells j.loc true) ∧
        j.loc.seg = run.seg ∧ j.loc.page = run.page) ∧
      let lost := (js.filter (fun j => !j.readable o)).foldl (fun t j => markLost j.key j.seq j.loc t) raised
      (∀ w, o = .written w → healthHandles run o s =
        match arrivalOf s.params.threshold w (js ++ (run.get.map GetTaken.judged).toList) with
        | some r => refreshArrival run.seg r lost
        | none => lost) ∧
      (o = .blank →
        ((∃ c x, Store.get c s.index = some x ∧ x.inPage run.seg run.page = true) →
          healthHandles run o s = refreshArrival run.seg .uncorrectable lost) ∧
        ((∀ c x, Store.get c s.index = some x → x.inPage run.seg run.page = false) → healthHandles run o s = lost)))) ∧
  (∀ (j : Judged) (w : Written), Judged.readable .blank j = false ∧
    (Judged.readable (.written w) j = true ↔ w.cellsReadable j.loc.cell j.cells = true ∧
      (∃ chk v, w.entryAt j.loc.cell = some (.record j.key j.seq j.len chk v)) ∧ j.loc.cell ∉ w.mismatch)) ∧
  (∀ (th : Nat) (w : Written) (js : List Judged),
    let worse : Prop := (∃ i, i < 4 ∧ Codewords.countAt w.codewords i = none) ∨ w.trailer = none ∨
      ∃ j ∈ js, w.cellsReadable j.loc.cell j.cells = true ∧ w.recordMatches j.key j.seq j.len j.loc = false
    let marginal : Prop := ∃ i c, i < 4 ∧ Codewords.countAt w.codewords i = some c ∧ c ≠ 0 ∧ th ≤ c
    (worse → arrivalOf th w js = some .uncorrectable) ∧
    (¬ worse → marginal → arrivalOf th w js = some .threshold) ∧
    (¬ worse → ¬ marginal → arrivalOf th w js = none)) ∧
  ∀ (g : Nat) (new : RefreshReason) (s : State) (r : SegRec), segAt g s = some r →
    let t := refreshArrival g new s
    let isUrgent := new = .uncorrectable ∨ new = .programFault
    let named := { s with segs := Store.modify g (fun x => { x with reason := some new }) s.segs }
    let joined := { named with
      urgent := if isUrgent then s.urgent ++ [g] else s.urgent
      ordinary := if isUrgent then s.ordinary else s.ordinary ++ [g] }
    (r.state ≠ .opened ∧ r.state ≠ .full ∧ r.state ≠ .evacuating → t = s) ∧
    (r.state = .full ∨ r.state = .evacuating → r.reason = none → t = joined) ∧
    (r.state = .opened → r.reason = none →
      (s.host.openSeg ≠ some g → s.reloc.openSeg ≠ some g → t = joined) ∧
      ∀ id, (streamOf id s).openSeg = some g → (id = .relocate → s.host.openSeg ≠ some g) →
        ((streamOf id s).buffer ≠ [] →
          t = commitCause id (modStream id (fun st => { st with finalPage := true }) joined)) ∧
        ((streamOf id s).buffer = [] → (streamOf id t).openSeg = none ∧ t.urgent = joined.urgent ∧
          t.ordinary = joined.ordinary ∧ (∀ h, h ≠ g → segAt h t = segAt h s) ∧
          segAt g t = some { r with reason := some new, state := .full, stream := none, nextPage := none })) ∧
    (r.state = .opened ∨ r.state = .full ∨ r.state = .evacuating → ∀ old, r.reason = some old →
      (old = .uncorrectable ∨ old = .programFault ∨ new = .wear ∨ old = new → t = s) ∧
      (old = .wear → new = .threshold → t = named) ∧
      (old = .wear ∨ old = .threshold → isUrgent →
        t = { named with ordinary := s.ordinary.filter (· != g), urgent := s.urgent ++ [g] }))

/-- PROGRAM_COMPLETION OK of a stream's page, HOST or RELOCATE: the page holds the data sent, every index entry located in
it is programmed and the page in flight is released (R59, R73, R10(1)). For the HOST stream every slot that waits for the
page is answered OK with its sequence, and every SYNC mark below every sequence still in the buffer is removed and its
SYNC answered OK (R58); for the RELOCATE stream no slot changes. Then a buffer that is marked commit requested, or ended,
is committed (R59(a)). A waiting entry stays for WAITING_ENTRY_PLACED, a command of its own, where R59(b) places it in the
same change when the buffer is empty: the model's reading (assumption 8). -/
def Obligations.ProgramOkMakesEntriesProgrammed : Prop :=
  ∀ (id : StreamId) (s : State) (f : InFlight) (g p : Nat) (data : PageData), isHeld s = false →
    s.arr.op = some (.program (streamOrigin id) g p data) → (streamOf id s).inFlight = some f → f.seg = g → f.page = p →
    ∃ u, exec (.programCompletion true) s = .next (settleAfterOp
        (if (streamOf id s).commitRequested = true ∨ (streamOf id s).ended = true then commitCause id u else u)) ∧
      pageAt g p u = some ⟨some data, .sound⟩ ∧ (∀ h q, pageAddr h q ≠ pageAddr g p → pageAt h q u = pageAt h q s) ∧
      (∀ c, Store.get c u.index =
        (Store.get c s.index).map (fun e => if e.inPage g p then e.setProgrammed else e)) ∧
      (∀ other, streamOf other u =
        if other = id then { streamOf id s with inFlight := none } else streamOf other s) ∧
      u = { s with
        arr := { s.arr with op := none }, flash := u.flash, index := u.index, host := u.host, reloc := u.reloc
        syncMarks := u.syncMarks, engine := u.engine, link := { s.link with slots := u.link.slots } } ∧
      (id = .relocate → u.link = s.link ∧ u.engine = s.engine ∧ u.syncMarks = s.syncMarks) ∧
      (id = .host → Store.Canonical s.link.slots →
        let satisfied (m : SyncMark) : Prop := ∀ q ∈ seqsOf s.host.buffer, m.mark < q
        (∀ m, m ∈ u.syncMarks ↔ m ∈ s.syncMarks ∧ ¬ satisfied m) ∧
        (∀ m ∈ s.syncMarks, satisfied m → ∀ sl, slotAt m.slot s = some sl →
          slotAt m.slot u = some (Slot.answered .ok .none sl)) ∧
        (∀ n sl w, slotAt n s = some sl → sl.state = .awaitingCommit → sl.wait = some w → w.seg = g → w.page = p →
          (∀ m ∈ s.syncMarks, m.slot ≠ n) → slotAt n u = some (Slot.answered .ok (.sequence w.seq) sl)) ∧
        ∀ n, (∀ sl w, slotAt n s = some sl → sl.state = .awaitingCommit → sl.wait = some w → ¬ (w.seg = g ∧ w.page = p)) →
          (∀ m ∈ s.syncMarks, m.slot ≠ n) → slotAt n u = slotAt n s)

/-- PROGRAM_COMPLETION FAIL of a stream's page: the page is of unknown content (R73), and no entry the stream holds is lost.
The failed segment becomes FULL when it was OPEN, with no stream and no next page, keeps its open stamp and lowest sequence,
takes the reason PROGRAM_FAULT, leaving the ordinary part, and joins the end of the urgent part of the Refresh Queue; a
member with an urgent reason keeps it and its place (R37, R60, R88).
Its pages in flight and in the buffer keep every entry (R60(a), (b), R61, R62), and no sequence is taken.
A retarget segment is the one the stream has open beside the failed one (R60(1)), or, where it has none, one that was FREE
and is opened for it, which succeeds whenever a segment is FREE and the open stamp counter has a value (R60(2), R32, R34).
With a retarget segment `g`, the page in flight becomes page 1 of it with a new trailer, and its program is claimed; the
buffer's page becomes page 2. Every pending index entry and every waiting slot of the one page follows to page 1, and of
the other to page 2, at the same cell (R60(a) to (g)).
Without one, the stream is stranded, the part goes READ_ONLY with cause NO_SPACE_FOR_RETRY, no index entry changes, and
the HOST stream's waiting slots of either page and its SYNC marks that cover a stranded entry are answered MEDIA_FAULT
(R61), and its waiting entry is dropped.
Entry into READ_ONLY, whatever the cause: the mode and the cause change with one MODE_CHANGED notice; a waiting HOST entry is
not placed and its request answered READ_ONLY_MODE, as the held request is, and every COMPACT in the list READ_ONLY_MODE with
the free count; an evacuation is abandoned, its victim FULL again and the engine's claim withdrawn, while a victim in ERASING
or HEADER is kept; a RELOCATE buffer with entries is committed, and the patrol claim withdrawn (R61(2), R66, R107(a) to (c),
R109(1), R123(3), R156). -/
def Obligations.ProgramFailureKeepsTheEntries : Prop :=
  (∀ (id : StreamId) (s : State), Store.Canonical s.index →
    ((streamOf id (pageFailed id s)).pendingEntries.filter (fun x => x.entry != .pad) =
      (streamOf id s).pendingEntries.filter (fun x => x.entry != .pad)) ∧
    (pageFailed id s).nextSeq = s.nextSeq ∧ (pageFailed id s).flash = s.flash ∧
    (pageFailed id s).index.map Prod.fst = s.index.map Prod.fst) ∧
  (∀ (id : StreamId) (s : State) (g p : Nat) (data : PageData), isHeld s = false →
    s.arr.op = some (.program (streamOrigin id) g p data) →
    exec (.programCompletion false) s = .next (settleAfterOp (pageFailed id { s with
      arr := { s.arr with op := none }, flash := Store.put (pageAddr g p) ⟨some data, .unknown⟩ s.flash }))) ∧
  (∀ (id : StreamId) (s : State) (f : InFlight), Store.Canonical s.index → Store.Canonical s.link.slots →
    Store.Canonical s.segs → (streamOf id s).inFlight = some f → bufferDest id s ≠ some (f.seg, f.page) →
    let t := pageFailed id s
    let dest := bufferDest id s
    (∀ r, segAt f.seg s = some r → r.state = .full ∨ (r.state = .opened ∧ (streamOf id s).openSeg = some f.seg) →
      ∃ r', segAt f.seg t = some r' ∧ r'.state = .full ∧ r'.openStamp = r.openStamp ∧ r'.lowestSeq = r.lowestSeq ∧
        r'.eraseCount = r.eraseCount ∧ r'.strikes = r.strikes ∧
        (r.state = .opened → r'.stream = none ∧ r'.nextPage = none) ∧
        (r.reason = none ∨ r.reason = some .wear ∨ r.reason = some .threshold →
          r'.reason = some .programFault ∧ t.urgent = s.urgent ++ [f.seg] ∧
          t.ordinary = if r.reason = none then s.ordinary else s.ordinary.filter (· != f.seg)) ∧
        (r.reason = some .uncorrectable ∨ r.reason = some .programFault →
          r'.reason = r.reason ∧ t.urgent = s.urgent ∧ t.ordinary = s.ordinary)) ∧
    (∀ g, (streamOf id s).openSeg = some g → g ≠ f.seg → (streamOf id t).openSeg = some g) ∧
    ((streamOf id s).openSeg = none ∨ (streamOf id s).openSeg = some f.seg → s.nextStamp ≠ none →
      segState f.seg s ≠ some .free → (∃ h x, segAt h s = some x ∧ x.state = .free) →
      ∃ g, (streamOf id t).openSeg = some g ∧ g ≠ f.seg ∧ segState g s = some .free ∧ segState g t = some .opened) ∧
    (∀ g, (streamOf id t).openSeg = some g → g ≠ f.seg →
      let follow (seg page : Nat) : Nat × Nat :=
        if (seg, page) = (f.seg, f.page) then (g, 1) else if dest = some (seg, page) then (g, 2) else (seg, page)
      (∃ tr, (streamOf id t).inFlight = some ⟨g, 1, f.placed, tr⟩ ∧ tr = buildTrailer id (stampOf g t) 1 f.placed ∧
        (⟨streamClass id, streamOrigin id, .program g 1 (.entries f.placed tr)⟩ : Claim) ∈
          (t.arr.place (streamClass id)).toList ++ t.arr.outside) ∧
      (∀ r, segAt g s = some r → (segAt g t).bind SegRec.nextPage = some 2) ∧
      (∀ c, Store.get c t.index = (Store.get c s.index).map (fun e => match e.loc? with
        | some l => if e.programmed = false then
            if (l.seg, l.page) = (f.seg, f.page) ∨ dest = some (l.seg, l.page) then
              e.movedTo ⟨(follow l.seg l.page).1, (follow l.seg l.page).2, l.cell⟩ else e
          else e
        | none => e)) ∧
      ∀ n, slotAt n t = (slotAt n s).map (fun sl => { sl with
        wait := sl.wait.map (fun w => { w with seg := (follow w.seg w.page).1, page := (follow w.seg w.page).2 }) })) ∧
    ((streamOf id s).openSeg = none ∨ (streamOf id s).openSeg = some f.seg →
      (∀ h x, segAt h s = some x → x.state ≠ .free) ∨ s.nextStamp = none →
      (streamOf id t).stranded = true ∧ (streamOf id t).strandedDest = dest ∧ t.index = s.index ∧
      (s.startup.mode = .ready → s.startup.format = none →
        t.startup.mode = .readOnly ∧ t.startup.cause = some .noSpaceForRetry) ∧
      (id = .host → t.commitTimer = none ∧
        ((∀ e l, s.host.waiting ≠ some (.copy e l)) → t.host.waiting = none) ∧
        ∀ n sl, slotAt n s = some sl → sl.state = .awaitingCommit → (∀ c ∈ s.comp.compacts, c.slot ≠ n) →
          (∀ k v, s.host.waiting ≠ some (.host n k v)) → (∀ x, s.startup.format = some x → x.slot ≠ some n) →
          ((∃ w, sl.wait = some w ∧ ((w.seg, w.page) = (f.seg, f.page) ∨ dest = some (w.seg, w.page))) ∨
            ∃ m ∈ s.syncMarks, m.slot = n ∧ ∃ q ∈ seqsOf s.host.pendingEntries, q ≤ m.mark) →
          slotAt n t = some (Slot.answered .mediaFault .none sl)))) ∧
  ∀ (c : Cause) (s : State), let t := enterReadOnly c s
    t.startup = { s.startup with mode := .readOnly, cause := some c } ∧
    t.link.notices = pushNotice (.modeChanged .readOnly (some c)) s.link.notices ∧
    t.comp.compacts = [] ∧ (∀ k ∈ s.comp.compacts, ∀ sl, slotAt k.slot s = some sl →
      slotAt k.slot t = some (Slot.answered .readOnlyMode (.freeCount s.freeCount) sl)) ∧
    (∀ n k v sl, s.host.waiting = some (.host n k v) → slotAt n s = some sl → t.host.waiting = none ∧
      ((∀ x ∈ s.comp.compacts, x.slot ≠ n) → slotAt n t = some (Slot.answered .readOnlyMode .none sl))) ∧
    (∀ n sl, Store.Canonical s.link.slots → heldSlot s = some n → slotAt n s = some sl →
      (∀ x ∈ s.comp.compacts, x.slot ≠ n) → slotAt n t = some (Slot.answered .readOnlyMode .none sl)) ∧
    (∀ v, t.comp.victim = some v → s.comp.victim = some v ∧ (v.phase = .erasing ∨ v.phase = .header)) ∧
    (∀ v r, s.comp.victim = some v → v.phase ≠ .erasing → v.phase ≠ .header → segAt v.seg s = some r →
      segState v.seg t = some .full ∧ t.comp.running = false ∧ t.reloc.waiting = none ∧
      ∀ x ∈ t.arr.relPlace.toList ++ t.arr.outside.filter (fun x => x.cls == .relocate), x.origin ≠ .compaction) ∧
    (∀ g p, s.reloc.stranded = false → s.reloc.buffer ≠ [] → s.reloc.inFlight = none →
      bufferDest .relocate s = some (g, p) → (∀ v, s.comp.victim = some v → v.seg ≠ g) →
      t.reloc.buffer = [] ∧ ∃ page tr, t.reloc.inFlight = some ⟨g, p, page, tr⟩ ∧ ∀ x ∈ s.reloc.buffer, x ∈ page) ∧
    (∀ x ∈ t.arr.patPlace.toList ++ t.arr.outside.filter (fun x => x.cls == .patrol), x.origin ≠ .patrolUnit) ∧
    t.host = { s.host with waiting := t.host.waiting } ∧ t.index = s.index ∧ t.spaces = s.spaces ∧ t.flash = s.flash ∧
    t.nextSeq = s.nextSeq ∧ t.cat = s.cat ∧ t.freeCount = s.freeCount ∧ t.params = s.params

/-- ERASE_COMPLETION of the Compaction Engine's victim: OK leaves every page of the segment blank, raises the erase count
up to 1,000,000 and claims the header with the format stamp; FAIL leaves the pages of unknown content and condemns the
segment, which no stream has open, with ERASE_FAULT (R40, R74, R104). A page whose checks failed before an erase that
failed is not mended by it (assumption 16).
Its header programmed OK, the segment becomes FREE and the engine goes on: open stamp, lowest sequence and cause absent,
live cells and worst health 0; the free count rises by one and at 5 ends the low-free condition; every COMPACT whose target
it reaches is answered OK with it; the no-gain mark is cleared; and the wear-spread check queues the least worn FULL
segment with WEAR when a FREE or FULL one has over 2,000 erases more, unless it has a reason (R40(2), R30, R93, R106(3),
R42). In FORMATTING the check does not run (R43), which is the model's reading where R42 has it at each (assumption 55). -/
def Obligations.EngineEraseEnds : Prop :=
  (∀ (s : State) (v : Victim) (e : EraseRun) (r : SegRec), isHeld s = false → Store.Canonical s.segs →
    s.arr.op = some (.erase e) → e.origin = .compaction → s.comp.victim = some v → e.seg = v.seg →
    segAt v.seg s = some r →
    (∃ u, exec (.eraseCompletion true) s = .next (settleAfterOp u) ∧
      (∀ p, p < 48 → pageAt v.seg p u = none) ∧
      (∀ h p, p < 48 → h ≠ v.seg → pageAt h p u = pageAt h p s) ∧
      segAt v.seg u = some { r with eraseCount := min (r.eraseCount + 1) 1000000 } ∧
      (∀ h, h ≠ v.seg → segAt h u = segAt h s) ∧ u.comp.victim = some { v with phase := .header } ∧
      (⟨.relocate, .compaction, .program v.seg 0
        (segHeader (min (r.eraseCount + 1) 1000000) r.strikes s.cat.formatStamp)⟩ : Claim) ∈
        u.arr.relPlace.toList ++ u.arr.outside) ∧
    (s.reloc.openSeg ≠ some v.seg → ∃ u, exec (.eraseCompletion false) s = .next (settleAfterOp u) ∧
      segState v.seg u = some .condemned ∧
      (segAt v.seg u).bind SegRec.cause = some .eraseFault ∧ u.comp.victim ≠ some v ∧
      (∀ h p, p < 48 → h ≠ v.seg → pageAt h p u = pageAt h p s) ∧
      ∀ p, p < 48 → pageAt v.seg p u = some (match pageAt v.seg p s with
        | none => ⟨none, .halfErased⟩
        | some x => ⟨x.data, if x.quality = .sound ∨ x.quality = .unknown then .unknown else .halfErased⟩))) ∧
  (∀ (s : State) (v : Victim) (p : Nat) (data : PageData), isHeld s = false →
    s.arr.op = some (.program .compaction v.seg p data) → s.comp.victim = some v →
    exec (.programCompletion true) s = .next (settleAfterOp (runDecision (segmentFreed v.seg { s with
      arr := { s.arr with op := none }, flash := Store.put (pageAddr v.seg p) ⟨some data, .sound⟩ s.flash
      comp := { s.comp with victim := none } })))) ∧
  ∀ (s : State) (g : Nat) (r : SegRec), Store.Canonical s.segs → segAt g s = some r →
    let t := segmentFreed g s
    segAt g t = some { r with state := .free, openStamp := none, lowestSeq := none, live := 0, worst := .bits 0,
                              cause := none } ∧
    t.freeCount = s.freeCount + 1 ∧ (t.lowFree = true ↔ s.lowFree = true ∧ s.freeCount + 1 ≤ 4) ∧
    t.comp = { s.comp with
      noGain := false, compacts := s.comp.compacts.filter (fun c => decide (s.freeCount + 1 < c.target)) } ∧
    (∀ c ∈ s.comp.compacts, c.target ≤ s.freeCount + 1 → ∀ sl, slotAt c.slot s = some sl →
      slotAt c.slot t = some (Slot.answered .ok (.freeCount (s.freeCount + 1)) sl)) ∧
    t.urgent = s.urgent ∧
    (s.startup.mode = .formatting ∨ (∀ h x, h ≠ g → segAt h s = some x → x.state ≠ .full) → t.ordinary = s.ordinary ∧
      ∀ h, h ≠ g → segAt h t = segAt h s) ∧
    ∀ h x, s.startup.mode ≠ .formatting → h ≠ g → segAt h s = some x → x.state = .full →
      (∀ i y, i ≠ g → segAt i s = some y → y.state = .full →
        x.eraseCount < y.eraseCount ∨ (x.eraseCount = y.eraseCount ∧ h ≤ i)) →
      let wide := 2000 + x.eraseCount < r.eraseCount ∨
        ∃ i y, i ≠ g ∧ segAt i s = some y ∧ (y.state = .free ∨ y.state = .full) ∧ 2000 + x.eraseCount < y.eraseCount
      (wide → x.reason = none → segAt h t = some { x with reason := some .wear } ∧ t.ordinary = s.ordinary ++ [h] ∧
        ∀ i, i ≠ g → i ≠ h → segAt i t = segAt i s) ∧
      (¬ wide ∨ x.reason ≠ none → t.ordinary = s.ordinary ∧ ∀ i, i ≠ g → segAt i t = segAt i s)

/-- ARRAY_OPERATION_TIMEOUT stops the operation: a program or an erase ends as the PROGRAM_COMPLETION or ERASE_COMPLETION
that reports FAIL, a read as one with four UNCORRECTABLE codewords and an unreadable trailer, for which a GET is answered
LOST (R70, R72 to R74, R119); with no operation nothing changes. Each outcome goes to the originator of the operation (R80).
The suspension of an erase (R81): it is requested while a GET's read stands in the HOST place and fewer than 6 suspensions
were made, which is the model's choice (assumption 37). Then ERASE_SUSPENDED suspends the erase, and the read is granted as a
suspend read; ERASE_SUSPEND_TIMEOUT ends the erase as the completion that reports FAIL (R81, R74).
While an erase is suspended (R82): with no GET's read in the HOST place the erase resumes; with one and fewer than 6
suspensions made, the count rises by one and that read is resolved by the index as it stands (R83): it runs, for a programmed
record, or it is withdrawn, its GET answered by what else the key is and the next read looked for; at 6 the erase resumes and
the read waits. The starvation guard count stays (R79). When a further read is there is the model's reading (assumption 35).
The clauses that nothing changes are the model's choice (assumption 4). -/
def Obligations.TimeoutsAndSuspensionsEnd : Prop :=
  (∀ s : State, isHeld s = false →
    (s.arr.op = none → exec .arrayOperationTimeout s = .next s) ∧
    (∀ o g p d, s.arr.op = some (.program o g p d) →
      exec .arrayOperationTimeout s = exec (.programCompletion false) s ∧
      exec .arrayOperationTimeout s = .next (settleAfterOp (programOriginator o false
        { s with arr := { s.arr with op := none }, flash := Store.put (pageAddr g p) ⟨some d, .unknown⟩ s.flash }))) ∧
    (∀ e, s.arr.op = some (.erase e) →
      exec .arrayOperationTimeout s = exec (.eraseCompletion false) s ∧
      exec .arrayOperationTimeout s = .next (settleAfterOp (eraseOriginator e.origin false
        (spoilSegment e.seg Quality.eraseFailed { s with arr := { s.arr with op := none } })))) ∧
    ∀ run, s.arr.op = some (.read run) → exec .arrayOperationTimeout s =
      let o := ReadOutcome.written ⟨⟨none, none, none, none⟩, none, false, false, none, []⟩
      .next (settleAfterOp (suspendNext 2 (readOriginator run o
        (healthHandles run o { s with arr := { s.arr with op := none } }))))) ∧
  (∀ (s : State) (ok : Bool),
    programOriginator .hostStream ok s = (if ok = true then pageProgrammed .host s else pageFailed .host s) ∧
    programOriginator .relocStream ok s = (if ok = true then pageProgrammed .relocate s else pageFailed .relocate s) ∧
    programOriginator .compaction ok s = engineHeader ok s ∧ programOriginator .writer ok s = writerProgrammed ok s ∧
    programOriginator .startup ok s = startupHeader ok s ∧ eraseOriginator .compaction ok s = engineErased ok s ∧
    eraseOriginator .writer ok s = writerErased ok s ∧ eraseOriginator .startup ok s = startupErased ok s) ∧
  (∀ (s : State) (run : ReadRun) (o : ReadOutcome),
    (∀ t, run.origin = .requestEngine → run.get = some t →
      readOriginator run o s = answerGet (getOutcome t o).1 (getOutcome t o).2 s ∧
      (o = .written ⟨⟨none, none, none, none⟩, none, false, false, none, []⟩ →
        getOutcome t o = (.lost, .lostRecord t.seq t.len))) ∧
    (run.origin = .compaction → readOriginator run o s = engineRead run.seg run.page o s) ∧
    (run.origin = .startup → readOriginator run o s = startupReadEnded run.seg run.page o s) ∧
    (run.origin = .patrolUnit → readOriginator run o s = s)) ∧
  (∀ (s : State) (e : EraseRun), isHeld s = false → s.arr.op = some (.erase e) →
    (s.arr.suspendRequested = true ↔
      (∃ c k, s.arr.hostPlace = some c ∧ c.op = .readKey k) ∧ e.suspensions < 6) ∧
    (s.arr.suspendRequested = false →
      exec .eraseSuspended s = .next s ∧ exec .eraseSuspendTimeout s = .next s) ∧
    (s.arr.suspendRequested = true →
      exec .eraseSuspendTimeout s = exec (.eraseCompletion false) s ∧
      exec .eraseSuspendTimeout s = .next (settleAfterOp (eraseOriginator e.origin false
        (spoilSegment e.seg Quality.eraseFailed { s with arr := { s.arr with op := none } }))) ∧
      let u := suspendNext 2 { s with arr := { s.arr with op := none, suspended := some e } }
      exec .eraseSuspended s = .next (settle u) ∧
        ∀ c k q len cells loc, s.arr.hostPlace = some c → c.op = .readKey k →
          lookup k s = some (.live q len cells loc true) →
          u.arr.suspended = some { e with suspensions := e.suspensions + 1 } ∧
          u.arr.op = some (.read ⟨.requestEngine, loc.seg, loc.page, some ⟨k, q, len, loc, cells⟩⟩) ∧
          u.arr.guardCount = s.arr.guardCount)) ∧
  ∀ (s : State) (fuel : Nat),
    (s.arr.op ≠ none ∨ s.arr.suspended = none → suspendNext fuel s = s) ∧
    ∀ e, s.arr.op = none → s.arr.suspended = some e →
      let resumed : State := { s with arr := { s.arr with op := some (.erase e), suspended := none } }
      let left := { s.arr.leave .host with suspended := some { e with suspensions := e.suspensions + 1 } }
      let withdrawn (st : Status) (d : ReplyData) : State := suspendNext fuel (answerGet st d { s with arr := left })
      ((∀ c k, s.arr.hostPlace = some c → c.op ≠ .readKey k) → suspendNext (fuel + 1) s = resumed) ∧
      ∀ c k, s.arr.hostPlace = some c → c.op = .readKey k →
        (6 ≤ e.suspensions → suspendNext (fuel + 1) s = resumed) ∧
        (e.suspensions < 6 →
          (∀ q len cells loc, lookup k s = some (.live q len cells loc true) → suspendNext (fuel + 1) s =
            { s with arr := { left with
              op := some (.read ⟨.requestEngine, loc.seg, loc.page, some ⟨k, q, len, loc, cells⟩⟩) } }) ∧
          (∀ q len cells loc, lookup k s = some (.live q len cells loc false) →
            suspendNext (fuel + 1) s = withdrawn .ok (.value q len 0 (ramValue loc s))) ∧
          (∀ q len, lookup k s = some (.lost q len) →
            suspendNext (fuel + 1) s = withdrawn .lost (.lostRecord q len)) ∧
          (isPresent (lookup k s) = false → suspendNext (fuel + 1) s = withdrawn .notFound .none))

/-- The arbiter's choice while the array is idle: RELOCATE when the starvation guard count is 4 and its place holds a
claim; otherwise the first class of Table 4-3 with a claim in its place (R78, R79). The count then follows R79(1) to
(3). Among claims made at one moment the grant order is the model's reading (assumption 6).
A claim that is made enters the place of its class when that is empty, and otherwise joins the end of the claims that wait
outside, in the order made; nothing else of the array changes (R75, R76).
The grant itself: while no operation runs and no erase is suspended, the chosen claim leaves its place, the oldest claim of
its class waiting outside enters it (R76), and the array begins the claim's operation (R78); the guard count follows R79
when an operation has just ended, and is 0 when the claim found the array idle, since no other claim waited then (R78(1),
R79(2), (3)). A GET's read is resolved by the index as it stands: to the page of a programmed record, or, by what else
the key is, withdrawn and the GET answered, and the arbiter chooses again (R83). -/
def Obligations.GrantOrderAndGuard : Prop :=
  (∀ (a : ArrayCtl) (low : Bool),
    (a.guardCount = 4 → a.relPlace.isSome → a.nextClass low = some .relocate) ∧
    (a.guardCount ≠ 4 ∨ a.relPlace = none →
      (a.catPlace.isSome → a.nextClass low = some .catalogue) ∧
      (a.catPlace = none →
        (low = false → a.hostPlace.isSome → a.nextClass low = some .host) ∧
        (low = false → a.hostPlace = none → a.relPlace.isSome → a.nextClass low = some .relocate) ∧
        (low = true → a.relPlace.isSome → a.nextClass low = some .relocate) ∧
        (low = true → a.relPlace = none → a.hostPlace.isSome → a.nextClass low = some .host) ∧
        (a.hostPlace = none → a.relPlace = none → a.patPlace.isSome → a.nextClass low = some .patrol) ∧
        (a.hostPlace = none → a.relPlace = none → a.patPlace = none → a.nextClass low = none))) ∧
    (a.relPlace.isSome → a.guardAfter .host = min (a.guardCount + 1) 4) ∧
    (a.relPlace = none → a.guardAfter .host = 0) ∧
    (∀ cls, cls ≠ .host → a.guardAfter cls = 0)) ∧
  (∀ (s : State) (c : Claim),
    let t := makeClaim c.cls c.origin c.op s
    (s.arr.place c.cls = none → t.arr.place c.cls = some c ∧ t.arr.outside = s.arr.outside) ∧
    (∀ x, s.arr.place c.cls = some x → t.arr.place c.cls = some x ∧ t.arr.outside = s.arr.outside ++ [c]) ∧
    (∀ other, other ≠ c.cls → t.arr.place other = s.arr.place other) ∧
    t.arr.op = s.arr.op ∧ t.arr.suspended = s.arr.suspended ∧ t.arr.guardCount = s.arr.guardCount ∧
    t = { s with arr := t.arr }) ∧
  (∀ (a : ArrayCtl) (cls : ClaimClass),
    (a.leave cls).place cls = a.outside.find? (fun c => c.cls == cls) ∧
    (∀ other, other ≠ cls → (a.leave cls).place other = a.place other) ∧
    (a.leave cls).outside = Store.dropFirst (fun c => c.cls == cls) a.outside ∧
    (a.leave cls).op = a.op ∧ (a.leave cls).suspended = a.suspended ∧ (a.leave cls).guardCount = a.guardCount) ∧
  ∀ (s : State) (ended : Bool) (fuel : Nat),
    ((s.arr.op ≠ none ∨ s.arr.suspended ≠ none ∨ s.arr.nextClass s.lowFree = none) → arbitrate ended fuel s = s) ∧
    ∀ cls c, s.arr.op = none → s.arr.suspended = none → s.arr.nextClass s.lowFree = some cls → s.arr.place cls = some c →
      let begun (op : ArrayOp) : State := { s with arr := { s.arr.leave cls with
        op := some op
        guardCount := if ended = true then s.arr.guardAfter cls else 0 } }
      let withdrawn (st : Status) (d : ReplyData) : State :=
        arbitrate ended fuel (answerGet st d { s with arr := s.arr.leave .host })
      (∀ g p, c.op = .read g p → arbitrate ended (fuel + 1) s = begun (.read ⟨c.origin, g, p, none⟩)) ∧
      (∀ g p d, c.op = .program g p d → arbitrate ended (fuel + 1) s = begun (.program c.origin g p d)) ∧
      (∀ g, c.op = .erase g → arbitrate ended (fuel + 1) s = begun (.erase ⟨c.origin, g, 0⟩)) ∧
      ∀ k, c.op = .readKey k →
        (∀ q len cells loc, lookup k s = some (.live q len cells loc true) → arbitrate ended (fuel + 1) s =
          begun (.read ⟨.requestEngine, loc.seg, loc.page, some ⟨k, q, len, loc, cells⟩⟩)) ∧
        (∀ q len cells loc, lookup k s = some (.live q len cells loc false) → arbitrate ended (fuel + 1) s =
          withdrawn .ok (.value q len 0 (ramValue loc s))) ∧
        (∀ q len, lookup k s = some (.lost q len) →
          arbitrate ended (fuel + 1) s = withdrawn .lost (.lostRecord q len)) ∧
        (isPresent (lookup k s) = false → arbitrate ended (fuel + 1) s = withdrawn .notFound .none)

/-! ## The part's own steps (R49, R105, R102) -/

/-- WAITING_ENTRY_PLACED for the HOST stream, once its buffer is empty: the entry is placed against the index as it
stands, and its slot is acted on as at a first placement; with no open segment it asks for one first, and is placed at
page 1 of the segment opened, or made HELD, or answered MEDIA_FULL under the no-gain mark (R49, R59(b), R50). Before that it
changes nothing.
HELD_REQUEST_PROCEEDS once the low-free condition has ended: the held PUT or DELETE is placed against the index as it
stands, at page 1 of the segment its ask opens, or in the segment the HOST stream has open (R105(1), R50); when its ask is
refused it stays HELD, or is answered MEDIA_FULL under the no-gain mark (R50(2), R105). In the low-free condition, or with
no request held, it changes nothing. `t` is the state with the segment open, which `AllocatorOpensLeastWorn` describes.
Each placement brings the commit window timer and the commit causes of `HostBuffered`, as a first one does (R51, R52;
assumption 25).
That these are commands of their own is the model's reading, and what they do before their conditions hold its choice
(assumptions 8, 12 and 4). -/
def Obligations.WaitingAndHeldEntriesAreHandled : Prop :=
  ((∀ (s : State) (id : StreamId), isHeld s = false →
    ((streamOf id s).waiting = none ∨ (streamOf id s).buffer ≠ [] ∨ (streamOf id s).stranded = true) →
    exec (.waitingEntryPlaced id) s = .next s) ∧
  (∀ (s : State) (e : Entry) (src : Loc), isHeld s = false → s.reloc.waiting = some (.copy e src) →
    s.reloc.buffer = [] → s.reloc.stranded = false → exec (.waitingEntryPlaced .relocate) s =
      .next (settle (resumeCopying (handCopy e src { s with reloc := { s.reloc with waiting := none } })
        { s with reloc := { s.reloc with waiting := none } }))) ∧
  ∀ (s : State) (n : Nat) (sl : Slot) (k : Key) (value : Option (List Byte)), isHeld s = false →
    s.host.waiting = some (.host n k value) → s.host.buffer = [] → slotAt n s = some sl → s.engine.active = some n →
    (∀ g p, HostRoom g p (hostCells value) s →
      ∃ u, exec (.waitingEntryPlaced .host) s = .next (settle u) ∧ u.host.waiting = none ∧
        HostPlaced n k value (Request.durable sl.request) g p s u) ∧
    (s.host.openSeg = none → s.host.stranded = false →
      (∀ t, Sys2Proof.Machine.openSegment .host false s = some t → ∃ g u, t.host.openSeg = some g ∧
        exec (.waitingEntryPlaced .host) s = .next (settle u) ∧ u.host.waiting = none ∧
        HostPlaced n k value (Request.durable sl.request) g 1 t u) ∧
      (Sys2Proof.Machine.openSegment .host false s = none →
        let w := { s with host := { s.host with waiting := none } }
        (s.comp.noGain = false → exec (.waitingEntryPlaced .host) s =
          .next (settle (modSlot n (fun x => { x with state := .held }) w))) ∧
        (s.comp.noGain = true → exec (.waitingEntryPlaced .host) s =
          .next (settle (answeredIn n .mediaFull .none { w with engine := { s.engine with active := none } })))))) ∧
  ((∀ s : State, isHeld s = false → s.lowFree = true ∨ heldSlot s = none → exec .heldRequestProceeds s = .next s) ∧
  ∀ (s : State) (n : Nat) (sl : Slot) (k : Key) (d : Bool) (exp : Option Nat) (value : Option (List Byte)),
    isHeld s = false → s.lowFree = false → Store.Canonical s.link.slots → heldSlot s = some n → slotAt n s = some sl →
    s.engine.active = some n →
    sl.request = (match value with
      | some v => .put k d exp v
      | none => .delete k d exp) →
    (∀ g p, HostRoom g p (hostCells value) s →
      ∃ u, exec .heldRequestProceeds s = .next (settle u) ∧ HostPlaced n k value d g p s u) ∧
    (s.host.openSeg = none → s.host.stranded = false →
      (∀ t, Sys2Proof.Machine.openSegment .host false s = some t → ∃ g u, t.host.openSeg = some g ∧
        exec .heldRequestProceeds s = .next (settle u) ∧ HostPlaced n k value d g 1 t u) ∧
      (Sys2Proof.Machine.openSegment .host false s = none →
        (s.comp.noGain = false → exec .heldRequestProceeds s = .next (settle s)) ∧
        (s.comp.noGain = true → exec .heldRequestProceeds s =
          .next (settle (answeredIn n .mediaFull .none { s with engine := { s.engine with active := none } }))))))

/-- EVACUATION_END, once the victim drains with no live cells and the RELOCATE stream holds no pending entry: the fate
and the strike count are those of Table 5-4, and the segment leaves the Refresh Queue with no reason; before that it
changes nothing (R101 to R103). That last is the model's choice (assumption 4).
Where the run goes on in READY, the next victim is the first eligible member of the Refresh Queue: FULL, with no page in
flight destined for it. With none, the run ends once the stop watermark and every COMPACT's target are reached; otherwise
the victim is the FULL segment that is no member with the fewest live cells, then the lowest open stamp, if it has 720 or
fewer, and without one the run ends with no gain: every COMPACT is answered NO_GAIN and the held request whose ask is
refused MEDIA_FULL (R92, R94, R93, R105(2), R106). That the lowest number breaks a full tie is the model's choice
(assumption 44). The evacuation begins when the victim holds no live cell, a segment is FREE, or the RELOCATE stream has one
open; otherwise the part goes READ_ONLY with NO_SPACE_FOR_RELOCATION (R95, R107). -/
def Obligations.EvacuationEndDecidesTheFate : Prop :=
  (∀ (s : State) (v : Victim), isHeld s = false → s.comp.victim = some v → evacuationEnded v s = false →
    exec .evacuationEnd s = .next s) ∧
  (∀ (v : Victim) (s : State), evacuationEnded v s = true ↔ (v.phase = .draining ∧ liveOf v.seg s = 0 ∧
    s.reloc.buffer = [] ∧ s.reloc.inFlight = none ∧ s.reloc.waiting = none)) ∧
  (∀ (s : State) (v : Victim) (r : SegRec), isHeld s = false → s.comp.victim = some v → segAt v.seg s = some r →
    Store.Canonical s.segs → evacuationEnded v s = true →
    let strikes := if r.reason = some .threshold then r.strikes + 1 else r.strikes
    ((r.reason = none ∨ r.reason = some .wear ∨ (r.reason = some .threshold ∧ r.strikes + 1 < 3)) →
      ∃ u, exec .evacuationEnd s = .next (settle u) ∧
        segAt v.seg u = some { r with state := .erasing, strikes := strikes, reason := none, live := 0 } ∧
        u.comp.victim = some { v with phase := .erasing } ∧ v.seg ∉ u.urgent ∧ v.seg ∉ u.ordinary) ∧
    (∀ cause, (r.reason = some .threshold ∧ 3 ≤ r.strikes + 1 ∧ cause = CondemnCause.strikes) ∨
        (r.reason = some .uncorrectable ∧ cause = .uncorrectable) ∨
        (r.reason = some .programFault ∧ cause = .programFault) →
      ∃ u, exec .evacuationEnd s = .next (settle u) ∧
        segAt v.seg u = some { r with state := .condemned, strikes := strikes, reason := none, live := 0,
                                      cause := some cause } ∧
        u.comp.victim ≠ some v ∧ v.seg ∉ u.urgent ∧ v.seg ∉ u.ordinary)) ∧
  (let pendingFor (s : State) (g : Nat) : Prop :=
     (∃ f, s.host.inFlight = some f ∧ f.seg = g) ∨ ∃ f, s.reloc.inFlight = some f ∧ f.seg = g
   let eligible (s : State) (g : Nat) : Prop := segState g s = some .full ∧ ¬ pendingFor s g
   let forGain (s : State) (g : Nat) (r : SegRec) : Prop :=
     segAt g s = some r ∧ r.state = .full ∧ r.reason = none ∧ ¬ pendingFor s g
   ∀ s : State, Store.Canonical s.segs → s.startup.mode = .ready →
     (∀ front g back, s.urgent ++ s.ordinary = front ++ g :: back → eligible s g → (∀ h ∈ front, ¬ eligible s h) →
       runDecision s = beginEvacuation g s) ∧
     ((∀ h ∈ s.urgent ++ s.ordinary, ¬ eligible s h) →
       let reached := s.params.compactStop ≤ s.freeCount ∧ ∀ c ∈ s.comp.compacts, c.target ≤ s.freeCount
       (reached → runDecision s = { s with comp := { s.comp with running := false, victim := none } }) ∧
       (¬ reached →
         (∀ g r, forGain s g r →
           (∀ h x, forGain s h x → r.live < x.live ∨ (r.live = x.live ∧ (r.openStamp.getD 0 < x.openStamp.getD 0 ∨
             (r.openStamp.getD 0 = x.openStamp.getD 0 ∧ g ≤ h)))) →
           (r.live ≤ 720 → runDecision s = beginEvacuation g s) ∧ (720 < r.live → runDecision s = endNoGain s)) ∧
         ((∀ g r, ¬ forGain s g r) → runDecision s = endNoGain s)))) ∧
  (∀ s : State, let t := endNoGain s
    t.comp = { s.comp with running := false, victim := none, compacts := [], noGain := true } ∧
    (∀ c ∈ s.comp.compacts, ∀ sl, slotAt c.slot s = some sl →
      slotAt c.slot t = some (Slot.answered .noGain (.freeCount s.freeCount) sl)) ∧
    ∀ n sl, heldSlot s = some n → (∀ c ∈ s.comp.compacts, c.slot ≠ n) → slotAt n s = some sl →
      Sys2Proof.Machine.openSegment .host false s = none → slotAt n t = some (Slot.answered .mediaFull .none sl)) ∧
  ∀ (s : State) (g : Nat) (r : SegRec), Store.Canonical s.segs → segAt g s = some r →
    let t := beginEvacuation g s
    let may := r.live = 0 ∨ (∃ h x, segAt h s = some x ∧ x.state = .free) ∨ s.reloc.openSeg.isSome
    (may → segAt g t = some { r with state := .evacuating } ∧ (∀ h, h ≠ g → segAt h t = segAt h s) ∧
      t.comp = { s.comp with running := true, victim := some ⟨g, .reading, 1, [], false⟩ } ∧
      t.urgent = s.urgent ∧ t.ordinary = s.ordinary ∧ t.startup = s.startup ∧
      ∀ c ∈ t.arr.patPlace.toList ++ t.arr.outside.filter (fun c => c.cls == .patrol), ∀ p, c.op ≠ .read g p) ∧
    (¬ may → s.reloc.stranded = false → t.comp.victim = none ∧ segAt g t = some r ∧
      (s.startup.mode = .ready → t.startup.mode = .readOnly ∧ t.startup.cause = some .noSpaceForRelocation))

/-! ## The catalogue (R142, R147, R149) -/

/-- A snapshot is begun: the begun generation rises by one, the dirty flag is cleared, and the snapshot holds the generation,
the format stamp, the persistent fields of the 16 spaces as they stand, and the union of the retired list and the condemned
waiters; its program is claimed at the next page of the current mirror, or the switch to the other mirror begins with its
erase (R142, R147, R148).
How mount finds the newest valid snapshot and takes it back. It reads page 0 and then pages 1 to 47 of mirror A and of mirror
B, a mirror up to its first blank page above page 0 (R160). Page 0 gives the mirror's erase count where its header is
readable (R153(4)); any other written page may be the mirror's highest non-blank one, and holds a valid snapshot when its own
check passes, which it does in no page with an UNCORRECTABLE codeword, and its fields are well formed (R143). With no valid
snapshot the mode becomes UNFORMATTED with its MOUNTED notice, the current mirror is B and the generations are 0 (R160(2),
R153). Otherwise the writer's state and the spaces come from the snapshot with the highest generation, in the mirror that
holds it, or, when both do, in the one whose highest non-blank page is the lower; the writes go on above that page, the
catalogue is dirty when a codeword of it was MARGINAL, every frozen field is no, and the scan begins (R160(1), R153, R140).
Among copies of that generation in one mirror the one at the highest page is taken, which is the model's reading (assumption
28), and nothing is said of two mirrors with equal highest pages (assumption 14). -/
def Obligations.SnapshotCapturesTheSpaces : Prop :=
  (∀ (s : State) (m : Mount) (which : Mirror) (page : Nat) (o : ReadOutcome), s.startup.mount = some m →
    m.phase = .catalogue → ∃ x : MirrorScan,
      let old := m.scanOf which
      let m' : Mount := match which with
        | .a => { m with scanA := x }
        | .b => { m with scanB := x }
      let with' (y : Mount) : State := { s with startup := { s.startup with mount := some y } }
      let t := startupReadEnded (Mirror.seg which) page o s
      (page = 0 ∨ (o ≠ .blank ∧ page < 47) → t = makeClaim .catalogue .startup (.read (Mirror.seg which) (page + 1))
        (with' { m' with seg := Mirror.seg which, page := page + 1 })) ∧
      (page ≠ 0 → o = .blank ∨ 47 ≤ page →
        (which = .a → t = makeClaim .catalogue .startup (.read 1 0) (with' { m' with seg := 1, page := 0 })) ∧
        (which = .b → t = catalogueRead (with' m'))) ∧
      (page = 0 → x.top = old.top ∧ x.found = old.found ∧
        (∀ w k n chk, o = .written w → w.ownCheck = true → w.data = some (.mirrorHeader k n chk) → x.eraseCount = some n) ∧
        ((∀ w k n chk, o = .written w → w.ownCheck = true → w.data ≠ some (.mirrorHeader k n chk)) →
          x.eraseCount = none)) ∧
      (page ≠ 0 → x.eraseCount = old.eraseCount ∧ x.top = (if o = .blank then old.top else page) ∧
        let valid (w : Written) (n : Snapshot) : Prop := w.ownCheck = true ∧ w.data = some (.snapshot n) ∧ 1 ≤ n.gen ∧
          n.retired.Pairwise (· < ·) ∧ n.retired.length ≤ 96 ∧ ∀ g ∈ n.retired, 2 ≤ g ∧ g < 1024
        (∀ w n, o = .written w → valid w n → x.found = ⟨n, w.hasMarginal s.params.threshold⟩ :: old.found) ∧
        ((∀ w n, o = .written w → ¬ valid w n) → x.found = old.found))) ∧
  (∀ (s : State) (m : Mount), s.startup.mount = some m →
    let count (which : Mirror) : Nat := match (m.scanOf which).eraseCount with
      | some n => n
      | none => ((m.scanOf (Mirror.other which)).eraseCount).getD 0
    (m.scanA.found = [] → m.scanB.found = [] → catalogueRead s = { s with
      cat := ⟨.b, none, 0, 0, none, false, [], [], 0, 0, 0, false, ⟨count .a, none⟩, ⟨count .b, none⟩⟩
      startup := { s.startup with mode := .unformatted, mount := none }
      link := { s.link with notices := pushNotice (.mounted .unformatted 0 0 0 0) s.link.notices } }) ∧
    ∀ which front copy back, (m.scanOf which).found = front ++ copy :: back →
      (∀ f ∈ front, f.snap.gen ≠ copy.snap.gen) →
      (∀ f ∈ m.scanA.found ++ m.scanB.found, f.snap.gen ≤ copy.snap.gen) →
      ((∀ f ∈ (m.scanOf (Mirror.other which)).found, f.snap.gen ≠ copy.snap.gen) ∨
        (m.scanOf which).top < (m.scanOf (Mirror.other which)).top) →
      catalogueRead s = scanFrom 2 { s with
        cat := { current := which
                 nextPage := if (m.scanOf which).top < 47 then some ((m.scanOf which).top + 1) else none
                 completed := copy.snap.gen, begun := copy.snap.gen, write := none, dirty := copy.marginal, waiters := []
                 retired := copy.snap.retired, formatStamp := copy.snap.stamp, completedStamp := copy.snap.stamp
                 failures := 0, failed := false, mirrorA := ⟨count .a, none⟩, mirrorB := ⟨count .b, none⟩ }
        spaces := numbered (copy.snap.spaces.map (fun f => ⟨f.policy, f.pinGuard, false, f.quota, 0, 0, f.clearSeq⟩)) }) ∧
  ∀ s : State, s.cat.begun + 1 < 2 ^ 32 →
    let u := beginSnapshot false s
    u.cat.begun = s.cat.begun + 1 ∧ u.cat.dirty = false ∧ u.spaces = s.spaces ∧ u.index = s.index ∧
    ∃ w, u.cat.write = some w ∧ w.snap.gen = s.cat.begun + 1 ∧ w.snap.stamp = s.cat.formatStamp ∧
      w.snap.spaces.length = 16 ∧
      (∀ n, n < 16 → w.snap.spaces[n]? = some ⟨(spaceAt n s).policy, (spaceAt n s).pinGuard, (spaceAt n s).quota,
        (spaceAt n s).clearSeq⟩) ∧
      (∀ g, g ∈ w.snap.retired ↔ g ∈ s.cat.retired ∨ (WaiterWho.segment g) ∈ s.cat.waiters.map Waiter.who) ∧
      (∀ p, s.cat.nextPage = some p → w.step = .program ∧ w.page = p ∧
        (⟨.catalogue, .writer, .program (Mirror.seg s.cat.current) p (.snapshot w.snap)⟩ : Claim) ∈
          u.arr.catPlace.toList ++ u.arr.outside) ∧
      (s.cat.nextPage = none → w.step = .erase ∧
        (⟨.catalogue, .writer, .erase (Mirror.seg (Mirror.other s.cat.current))⟩ : Claim) ∈
          u.arr.catPlace.toList ++ u.arr.outside)

/-- The program of a snapshot completes OK outside a FORMAT: its generation is the completed one, its retired list is the
writer's, the failure count is 0, waiters that need it or less are released and no other. A SET_POLICY or SET_QUOTA is
answered OK with the generation and a CLEAR_SPACE with its clear sequence as well, and a condemned segment becomes RETIRED,
its open stamp and lowest sequence absent, with a SEGMENT_RETIRED notice that carries its condemn cause (R149, R41,
R136(1), R194).
When the snapshot of a FORMAT completes, its waiters are released likewise, the FORMAT is answered OK with the generation and
the number of segments it retired, and the mode becomes READY, or READ_ONLY with the pending cause, with its MODE_CHANGED
notice (R171(1), (2), R152, R156); in READ_ONLY the victim's and the RELOCATE stream's segments may also become FULL (R107).
Every program and erase of the writer ends at it. A snapshot's program that fails raises the failure count and the same
snapshot goes to the next page, or through the mirror switch when there is none (R150); a header's program that ends, with
either outcome, leads to page 1 of the new mirror, OK setting the failure count to 0 (R148(3)); the third failure in a row
fails the catalogue. The erase of the other mirror, OK, makes it the current one with next page 1, raises its erase count up
to 1,000,000, takes its generation and claims its header (R148(2)); FAIL fails the catalogue (R148(4)). While the write is
in ERASE or HEADER its target page is 0, the model's choice (assumption 45).
The catalogue fails: the failed mark is set, the write discarded, no waiter left and the format stamp that of the completed
generation, with nothing else of the writer changed; every barrier slot among the waiters is answered MEDIA_FAULT, condemned
segments stay CONDEMNED, a FORMAT is answered MEDIA_FAULT and ends, and the part goes READ_ONLY with CATALOGUE_FAILED (R151,
R171, R156). -/
def Obligations.SnapshotCompletionReleasesWaiters : Prop :=
  (∀ (s : State) (ok : Bool), isHeld s = false →
    (∀ g p d, s.arr.op = some (.program .writer g p d) → exec (.programCompletion ok) s =
      .next (settleAfterOp (writerProgrammed ok { s with
        arr := { s.arr with op := none }
        flash := Store.put (pageAddr g p) ⟨some d, if ok = true then .sound else .unknown⟩ s.flash }))) ∧
    ∀ e, s.arr.op = some (.erase e) → e.origin = .writer →
      let idle := { s with arr := { s.arr with op := none } }
      exec (.eraseCompletion ok) s = .next (settleAfterOp (writerErased ok
        (if ok = true then blankSegment e.seg idle else spoilSegment e.seg Quality.eraseFailed idle)))) ∧
  (∀ (s : State) (w : CatWrite), s.cat.write = some w →
    let counted (n : Nat) : State := { s with cat := { s.cat with failures := n } }
    let toPage (p : Nat) (x : State) : State :=
      makeClaim .catalogue .writer (.program (Mirror.seg x.cat.current) p (.snapshot w.snap)) { x with cat := { x.cat with
        write := some ⟨w.snap, p, .program⟩, nextPage := if p < 47 then some (p + 1) else none } }
    let n := s.cat.failures + 1
    (w.step = .program →
      (3 ≤ n → writerProgrammed false s = catalogueFails (counted n)) ∧
      (n < 3 → (∀ p, s.cat.nextPage = some p → writerProgrammed false s = toPage p (counted n)) ∧
        (s.cat.nextPage = none → writerProgrammed false s =
          makeClaim .catalogue .writer (.erase (Mirror.seg (Mirror.other s.cat.current))) { counted n with
            cat := { s.cat with failures := n, write := some ⟨w.snap, 0, .erase⟩ } }))) ∧
    (w.step = .header → writerProgrammed true s = toPage 1 (counted 0) ∧
      (3 ≤ n → writerProgrammed false s = catalogueFails (counted n)) ∧
      (n < 3 → writerProgrammed false s = toPage 1 (counted n))) ∧
    writerErased false s = catalogueFails s ∧
    ∀ m, m = Mirror.other s.cat.current →
      let count := min ((s.cat.mirror m).eraseCount + 1) 1000000
      writerErased true s = makeClaim .catalogue .writer (.program (Mirror.seg m) 0 (mirrorHeader m count)) { s with
        cat := { s.cat with
          current := m, nextPage := some 1, write := some ⟨w.snap, 0, .header⟩
          mirrorA := if m = .a then ⟨count, none⟩ else s.cat.mirrorA
          mirrorB := if m = .b then ⟨count, none⟩ else s.cat.mirrorB } }) ∧
  (∀ s : State, let t := catalogueFails s
    t.cat = { s.cat with failed := true, write := none, waiters := [], formatStamp := s.cat.completedStamp } ∧
    t.spaces = s.spaces ∧ t.index = s.index ∧ t.flash = s.flash ∧
    (∀ g, (∀ v, s.comp.victim = some v → v.seg ≠ g) → s.reloc.openSeg ≠ some g → segAt g t = segAt g s) ∧
    (s.startup.mode = .ready ∨ s.startup.format.isSome →
      t.startup.mode = .readOnly ∧ t.startup.cause = some .catalogueFailed ∧ t.startup.format = none) ∧
    ∀ n sl, Store.Canonical s.link.slots → slotAt n s = some sl → (∀ c ∈ s.comp.compacts, c.slot ≠ n) →
      (∀ k v, s.host.waiting ≠ some (.host n k v)) →
      (s.startup.format = none ∧ (∃ x ∈ s.cat.waiters, x.who = .slot n)) ∨
        (∃ f, s.startup.format = some f ∧ f.slot = some n) →
      slotAt n t = some (Slot.answered .mediaFault .none sl)) ∧
  (∀ (s : State) (w : CatWrite) (f : Format), s.startup.format = some f → f.phase = .snapshot →
    let u := snapshotCompleted w s
    let released := s.cat.waiters.filter (fun x => decide (x.needed ≤ w.snap.gen))
    u.cat.completed = w.snap.gen ∧ u.cat.retired = w.snap.retired ∧ u.cat.formatStamp = w.snap.stamp ∧
    u.cat.failures = 0 ∧ u.cat.write = none ∧
    u.cat.waiters = s.cat.waiters.filter (fun x => decide (w.snap.gen < x.needed)) ∧
    u.startup.format = none ∧ u.startup.pendingCause = none ∧ u.startup.cause = s.startup.pendingCause ∧
    u.startup.mode = (match s.startup.pendingCause with
      | none => .ready
      | some _ => .readOnly) ∧
    u.link.notices = pushNotice (.modeChanged u.startup.mode u.startup.cause) ((released.filterMap (fun x => match x.who with
      | .segment g => some (Notice.segmentRetired g ((segAt g s).bind SegRec.cause))
      | .slot _ => none)).foldl (fun q x => pushNotice x q) s.link.notices) ∧
    (∀ x ∈ released, ∀ n sl, x.who = .slot n → slotAt n s = some sl → Store.Canonical s.link.slots →
      (∀ c ∈ s.comp.compacts, c.slot ≠ n) → (∀ k v, s.host.waiting ≠ some (.host n k v)) →
      slotAt n u = some (Slot.answered .ok (.formatted w.snap.gen f.retiring) sl)) ∧
    ∀ g, s.startup.pendingCause = none ∨
        ((∀ v, s.comp.victim = some v → v.seg ≠ g) ∧ s.reloc.openSeg ≠ some g) →
      (∀ x ∈ released, ∀ r, x.who = .segment g → segAt g s = some r →
        segAt g u = some { r with state := .retired, openStamp := none, lowestSeq := none }) ∧
      ((∀ x ∈ released, x.who ≠ .segment g) → segAt g u = segAt g s)) ∧
  (∀ (s : State) (w : CatWrite) (g p : Nat) (d : PageData), isHeld s = false →
    s.arr.op = some (.program .writer g p d) → s.cat.write = some w → w.step = .program →
    exec (.programCompletion true) s = .next (settleAfterOp (snapshotCompleted w { s with
      arr := { s.arr with op := none }, flash := Store.put (pageAddr g p) ⟨some d, .sound⟩ s.flash }))) ∧
  ∀ (s : State) (w : CatWrite), s.startup.format = none →
    let u := snapshotCompleted w s
    u.cat.completed = w.snap.gen ∧ u.cat.retired = w.snap.retired ∧ u.cat.failures = 0 ∧ u.cat.write = none ∧
    u.cat.waiters = s.cat.waiters.filter (fun x => decide (w.snap.gen < x.needed)) ∧
    (∀ x ∈ s.cat.waiters, ∀ g r, x.needed ≤ w.snap.gen → x.who = .segment g → segAt g s = some r →
      segAt g u = some { r with state := .retired, openStamp := none, lowestSeq := none }) ∧
    (∀ g, (∀ x ∈ s.cat.waiters, x.needed ≤ w.snap.gen → x.who ≠ .segment g) → segAt g u = segAt g s) ∧
    u.link.notices = ((s.cat.waiters.filter (fun x => decide (x.needed ≤ w.snap.gen))).filterMap (fun x => match x.who with
      | .segment g => some (Notice.segmentRetired g ((segAt g s).bind SegRec.cause))
      | .slot _ => none)).foldl (fun q x => pushNotice x q) s.link.notices ∧
    (∀ x ∈ s.cat.waiters, ∀ n sl, x.needed ≤ w.snap.gen → x.who = .slot n → slotAt n s = some sl →
      ((∃ sp p q, sl.request = .setPolicy sp p q) ∨ (∃ sp q, sl.request = .setQuota sp q) →
        slotAt n u = some (Slot.answered .ok (.generation w.snap.gen) sl)) ∧
      ∀ sp, sl.request = .clearSpace sp →
        slotAt n u = some (Slot.answered .ok (.cleared (spaceAt sp s).clearSeq w.snap.gen) sl)) ∧
    ∀ n, (∀ x ∈ s.cat.waiters, x.needed ≤ w.snap.gen → x.who ≠ .slot n) → slotAt n u = slotAt n s

/-! ## Mount (R163) -/

/-- The winner of a key at mount: every key with a candidate has one, of its candidates, and no other of them
has a higher sequence, or with the same sequence a higher open stamp, or with the same stamp a higher
page, or on the same page a higher first cell (R163(2)).
The index that mount builds: the candidates not below their space's clear sequence take part. The first 16,384 keys with a
winner, in key order, get an entry, LIVE or TOMBSTONE as the winner is, programmed, and no other key does; more keys make
INDEX_OVERFLOW the pending cause; the spaces count what the index holds (R139, R163, R164).
The marked segments are erased one at a time in order: the record is ERASING with the marked counts, its erase claimed;
the erase OK, its header with those counts and the format stamp is claimed; the header OK, the segment is FREE.
Either FAIL makes it CONDEMNED with ERASE_FAULT and reports it to the writer: it waits for the next snapshot while the retired
list and condemned waiters are fewer than 96, and leaves RETIRED_LIST_FULL pending otherwise (R166, R146, R156).
The end of mount, streams and engine empty: the next sequence is one more than the highest
found, or the highest clear sequence if higher (R45(2)); the open stamp counter is one more than the highest stamp
found (R33); the free count is the number of FREE records; a quota below its space's usage is raised to it and the
catalogue is dirty (R167). The mode becomes READY, or READ_ONLY with the pending cause, which becomes absent; the notices are
MOUNTED with the mode and the counts of index entries, torn and damaged pages and unreadable codewords, then
MODE_CHANGED for READ_ONLY, then SPACE_LOW at 4 or fewer FREE segments. The least worn FULL segment is queued with WEAR when a
FREE or FULL one has over 2,000 erases more, unless it has a reason (R168, R42, R30). What an erase's new record
holds, and that a stamp outside a record counts, are the model's readings (assumptions 22 and 47). -/
def Obligations.MountKeepsTheNewestEntry : Prop :=
  (∀ (s : State) (m : Mount) (e : EraseMark) (rest : List EraseMark), s.startup.mount = some m → m.toErase = e :: rest →
    let made (st : SegState) (worst : Health) (c : Option CondemnCause) : State := { s with
      segs := Store.put e.seg ⟨st, none, e.eraseCount, e.strikes, none, none, 0, none, worst, none, c⟩ s.segs }
    let after (t : State) : State := { t with startup := { t.startup with mount := some { m with toErase := rest } } }
    eraseNext s = makeClaim .catalogue .startup (.erase e.seg) (made .erasing e.worst none) ∧
    startupErased true s = makeClaim .catalogue .startup
      (.program e.seg 0 (segHeader e.eraseCount e.strikes s.cat.formatStamp)) s ∧
    startupHeader true s = eraseNext (after (made .free (.bits 0) none)) ∧
    ∃ v, startupErased false s = eraseNext (after v) ∧ startupHeader false s = eraseNext (after v) ∧
      let condemned := made .condemned e.worst (some .eraseFault)
      let listed := e.seg ∈ s.cat.retired ∨ (WaiterWho.segment e.seg) ∈ s.cat.waiters.map Waiter.who
      let room := s.cat.retired.length + s.cat.condemnedWaiters.length < 96
      (listed → v = condemned) ∧
      (¬ listed → room → s.cat.failed = false → v = { condemned with cat := { s.cat with
        dirty := true, waiters := s.cat.waiters ++ [⟨.segment e.seg, s.cat.begun + 1⟩] } }) ∧
      (¬ listed → ¬ room → s.startup.mode = .mounting →
        (s.startup.pendingCause = none →
          v = { condemned with startup := { s.startup with pendingCause := some .retiredListFull } }) ∧
        (s.startup.pendingCause ≠ none → v = condemned))) ∧
  (∀ (s : State) (m : Mount), s.startup.mount = some m → m.toErase = [] → Store.Canonical s.segs →
    s.comp.victim = none → s.reloc.buffer = [] → s.host.waiting = none →
    let t := eraseNext s
    let free := (s.segs.filter (fun p => p.2.state == .free)).length
    let clears := s.spaces.map (fun p => p.2.clearSeq)
    let stamps := m.highestStamp :: s.segs.filterMap (fun p => p.2.openStamp)
    let mounted (x : Mode) := pushNotice (.mounted x s.index.length m.torn m.damaged m.unreadable) s.link.notices
    let low (q : List Notice) := if free ≤ 4 ∧ s.lowFree = false then pushNotice (.spaceLow free) q else q
    (s.startup.pendingCause = none → t.startup = { s.startup with mount := none, mode := .ready } ∧
      t.link.notices = low (mounted .ready)) ∧
    (∀ c, s.startup.pendingCause = some c →
      t.startup = { s.startup with mount := none, pendingCause := none, mode := .readOnly, cause := some c } ∧
      t.link.notices = low (pushNotice (.modeChanged .readOnly (some c)) (mounted .readOnly))) ∧
    (∀ c ∈ clears, m.highestSeq < c → (∀ d ∈ clears, d ≤ c) → t.nextSeq = some c) ∧
    ((∀ d ∈ clears, d ≤ m.highestSeq) → m.highestSeq + 1 < 2 ^ 48 → t.nextSeq = some (m.highestSeq + 1)) ∧
    (∀ x ∈ stamps, (∀ y ∈ stamps, y ≤ x) → t.nextStamp = if x + 1 < 2 ^ 32 then some (x + 1) else none) ∧
    t.freeCount = free ∧ t.lowFree = decide (free ≤ 4) ∧ t.index = s.index ∧ t.flash = s.flash ∧ t.urgent = s.urgent ∧
    (∀ n r, Store.get n s.spaces = some r →
      Store.get n t.spaces = some { r with quota := r.quota.map (fun q => max q r.usage) }) ∧
    (t.cat.dirty = true ↔ s.cat.dirty = true ∨ ∃ p ∈ s.spaces, ∃ q, p.2.quota = some q ∧ q < p.2.usage) ∧
    t.cat = { s.cat with dirty := t.cat.dirty } ∧
    ((∀ h x, segAt h s = some x → x.state ≠ .full) → t.ordinary = s.ordinary ∧ t.segs = s.segs) ∧
    ∀ h x, segAt h s = some x → x.state = .full →
      (∀ i y, segAt i s = some y → y.state = .full →
        x.eraseCount < y.eraseCount ∨ (x.eraseCount = y.eraseCount ∧ h ≤ i)) →
      let wide := ∃ i y, segAt i s = some y ∧ (y.state = .free ∨ y.state = .full) ∧ 2000 + x.eraseCount < y.eraseCount
      (wide → x.reason = none → t.ordinary = s.ordinary ++ [h] ∧
        t.segs = Store.modify h (fun r => { r with reason := some .wear }) s.segs) ∧
      (¬ wide ∨ x.reason ≠ none → t.ordinary = s.ordinary ∧ t.segs = s.segs)) ∧
  (∀ cs : List Candidate,
    (∀ d ∈ cs, (Store.get (Key.code d.key) (winners cs)).isSome) ∧
    ∀ (k : Nat) (c : Candidate), Store.get k (winners cs) = some c →
      c ∈ cs ∧ Key.code c.key = k ∧ ∀ d ∈ cs, Key.code d.key = k →
        d.seq < c.seq ∨ (d.seq = c.seq ∧ (d.stamp < c.stamp ∨ (d.stamp = c.stamp ∧
          (d.loc.page < c.loc.page ∨ (d.loc.page = c.loc.page ∧ d.loc.cell ≤ c.loc.cell)))))) ∧
  ∀ (m : Mount) (s : State),
    let taken := m.candidates.filter (fun c => decide ((spaceAt c.key.space s).clearSeq ≤ c.seq))
    let t := buildIndex m s
    let entry (c : Candidate) : IndexEntry := match c.len with
      | some len => .live c.seq len c.cells c.loc true
      | none => .tombstone c.seq c.loc true
    let before (k : Key) := ((winners taken).filter (fun p => decide (p.1 < Key.code k))).length
    (∀ k, lookup k t = (Store.get (Key.code k) (winners taken)).bind (fun c =>
      if before k < 16384 then some (entry c) else none)) ∧
    (∀ n r, Store.get n s.spaces = some r → Store.get n t.spaces = some { r with
      usage := ((t.index.filter (fun p => (Key.ofCode p.1).space == n)).map (fun p => p.2.usage)).sum
      keyCount := (t.index.filter (fun p => (Key.ofCode p.1).space == n && p.2.present)).length }) ∧
    ((winners taken).length ≤ 16384 → (s.startup.pendingCause = t.startup.pendingCause) ∧
      ∀ k, lookup k t = (Store.get (Key.code k) (winners taken)).map entry) ∧
    (16384 < (winners taken).length → t.index.length = 16384 ∧
      (s.startup.mode = .mounting → s.startup.pendingCause = none → t.startup.pendingCause = some .indexOverflow))

/-- The scan of mount. A header decides its segment's mark: matching with its counts, of another format with the erase count
plus one up to 1,000,000, blank, or unreadable and marked UNCORRECTABLE; the entry pages follow, but for a header of
another format, which sends the scan on (R161). An entry page raises the highest sequence and open stamp found and lowers
its segment's lowest sequence by its trailer, whose open stamp the segment's record will carry; a page whose check passes
gives its entries as candidates; a page whose check fails is held until the next is read, and is then torn if that one is
blank, and damaged if it is written: its passing entries are taken, its UNCORRECTABLE codewords counted and its segment is
marked UNCORRECTABLE. The first blank page, and page 47, end the segment (R162).
The records made: RETIRED for the retired list, FREE or FULL by Table 9-5 for a segment not marked for erasing, which is
one with a header of another format or with no entry page behind a blank or unreadable header (R161, R165). -/
def Obligations.MountScansAndMakesRecords : Prop :=
  (∀ (s : State) (m : Mount) (g : Nat) (o : ReadOutcome), s.startup.mount = some m → m.phase = .scan →
    ∃ (k : ScanMark) (count : Nat),
      let m' := { m with marks := Store.put g k m.marks, highestErase := max m.highestErase count }
      let with' (x : Mount) : State := { s with startup := { s.startup with mount := some x } }
      (k.header ≠ .foreign → startupReadEnded g 0 o s =
        makeClaim .catalogue .startup (.read g 1) (with' { m' with page := 1 })) ∧
      (k.header = .foreign → startupReadEnded g 0 o s = scanFrom (g + 1) (with' m')) ∧
      k.hasPages = false ∧ k.lowestSeq = none ∧ k.openStamp = none ∧
      (o = .blank → k.header = .blank ∧ count = 0 ∧ k.worst = .bits 0 ∧ k.reason = none) ∧
      ∀ w, o = .written w → k.worst = Codewords.worst w.codewords ∧
        (∀ n strikes stamp chk, w.ownCheck = true → w.data = some (.segHeader n strikes stamp chk) →
          count = n ∧ k.strikes = strikes ∧ k.reason = none ∧
          (stamp = s.cat.formatStamp → k.header = .matching ∧ k.eraseCount = n) ∧
          (stamp ≠ s.cat.formatStamp → k.header = .foreign ∧ k.eraseCount = min (n + 1) 1000000)) ∧
        ((w.ownCheck = false ∨ ∀ n strikes stamp chk, w.data ≠ some (.segHeader n strikes stamp chk)) →
          k.header = .unreadable ∧ k.reason = some .uncorrectable ∧ count = 0)) ∧
  (∀ (s : State) (m : Mount) (g page : Nat) (o : ReadOutcome), s.startup.mount = some m → m.phase = .scan → page ≠ 0 →
    ∃ m' : Mount,
      let next : State := { s with startup := { s.startup with mount := some m' } }
      (o ≠ .blank → page < 47 → startupReadEnded g page o s = makeClaim .catalogue .startup (.read g (page + 1)) next) ∧
      (o = .blank ∨ 47 ≤ page → startupReadEnded g page o s = scanFrom (g + 1) next) ∧
      (o = .blank → m' = { m with suspect := none, torn := m.torn + (if m.suspect.isSome then 1 else 0) }) ∧
      ∀ w, o = .written w →
        m'.highestSeq = max m.highestSeq ((w.trailer.bind Trailer.highest).getD 0) ∧
        m'.highestStamp = max m.highestStamp ((w.trailer.map Trailer.stamp).getD 0) ∧
        m'.damaged = m.damaged + (if m.suspect.isSome then 1 else 0) ∧
        m'.torn = m.torn + (if 47 ≤ page ∧ w.pageCheck = false then 1 else 0) ∧
        m'.suspect = (if page < 47 ∧ w.pageCheck = false then some (page, w) else none) ∧
        m'.candidates = m.candidates ++
          (match m.suspect with
            | some (p, v) => candidatesOf g p v (fun cell e =>
                v.cellsReadable cell (Entry.cells e) && !(v.mismatch.contains cell))
            | none => []) ++
          (if w.pageCheck = true then candidatesOf g page w (fun _ _ => true) else []) ∧
        (∀ h, h ≠ g → Store.get h m'.marks = Store.get h m.marks) ∧
        m'.unreadable = m.unreadable + ((m.suspect.map (fun x => Codewords.lostCount x.2.codewords)).getD 0) ∧
        ∀ k, Store.get g m.marks = some k → ∃ k', Store.get g m'.marks = some k' ∧ k'.hasPages = true ∧
          k'.header = k.header ∧ k'.eraseCount = k.eraseCount ∧ k'.strikes = k.strikes ∧
          k'.lowestSeq = lowestOf (k.lowestSeq.toList ++ (w.trailer.bind Trailer.lowest).toList) ∧
          k'.openStamp = highestOf (k.openStamp.toList ++ (w.trailer.map Trailer.stamp).toList) ∧
          k'.worst = Health.worse k.worst (Codewords.worst w.codewords) ∧
          (m.suspect.isSome → k'.reason = some .uncorrectable) ∧
          (m.suspect = none → k'.reason = if w.pageCheck = true ∧ w.hasMarginal s.params.threshold = true ∧ k.reason = none
            then some .threshold else k.reason)) ∧
  (∀ (g page : Nat) (w : Written) (ok : Nat → Entry → Bool) (c : Candidate), c ∈ candidatesOf g page w ok ↔
    ∃ tr cell e, w.trailer = some tr ∧ cell ∈ tr.starts ∧ w.entryAt cell = some e ∧ ok cell e = true ∧
      ((∃ k q len chk v, e = .record k q len chk v ∧ c = ⟨k, q, some len, cellsOf len, ⟨g, page, cell⟩, tr.stamp⟩) ∨
        ∃ k q, e = .tombstone k q ∧ c = ⟨k, q, none, 1, ⟨g, page, cell⟩, tr.stamp⟩)) ∧
  (∀ (s : State) (g : Nat),
    (∀ h, g ≤ h → h < 1024 → h ∉ s.cat.retired → (∀ i, g ≤ i → i < h → i ∈ s.cat.retired) → ∀ m, s.startup.mount = some m →
      scanFrom g s = makeClaim .catalogue .startup (.read h 0) { s with startup := { s.startup with
        mount := some { m with phase := .scan, seg := h, page := 0, suspect := none } } }) ∧
    ((∀ h, g ≤ h → h < 1024 → h ∈ s.cat.retired) → scanFrom g s = mountStates s)) ∧
  (∀ (s : State) (m : Mount), s.startup.mount = some m →
    ∃ t, mountStates s = eraseNext t ∧ t.index = (buildIndex m s).index ∧ t.segs = scanRecords m (buildIndex m s) ∧
      t.urgent = membersWith .uncorrectable t.segs ∧ t.ordinary = membersWith .threshold t.segs) ∧
  ∀ (m : Mount) (s : State), Store.Canonical m.marks →
    (∀ g ∈ s.cat.retired, Store.get g (scanRecords m s) =
      some ⟨.retired, none, 0, 0, none, none, 0, none, .bits 0, none, none⟩) ∧
    ∀ g k, Store.get g m.marks = some k → g ∉ s.cat.retired →
      let erased := k.header = .foreign ∨ (k.header ≠ .matching ∧ k.hasPages = false)
      let counts := if k.header = .blank ∨ k.header = .unreadable then (m.highestErase, 0) else (k.eraseCount, k.strikes)
      (erased → Store.get g (scanRecords m s) = none ∧
        (⟨g, counts.1, counts.2, k.worst⟩ : EraseMark) ∈ eraseMarks m) ∧
      (¬ erased → k.hasPages = false → Store.get g (scanRecords m s) =
        some ⟨.free, none, counts.1, counts.2, none, none, liveIn g s.index, none, .bits 0, none, none⟩) ∧
      (¬ erased → k.hasPages = true → Store.get g (scanRecords m s) =
        some ⟨.full, none, counts.1, counts.2, some (k.openStamp.getD 1), none, liveIn g s.index,
          some (k.lowestSeq.getD 1), k.worst, k.reason, none⟩)

/-! ## Invariants that every step keeps -/

/-- Every table of the state stays in its canonical form, its numbers strictly rising, so that equal tables are equal
data. The form is the model's choice (assumption 36). -/
def Obligations.EveryStepKeepsTablesCanonical : Prop :=
  ∀ s t : State, TablesCanonical s → step s = .next t → TablesCanonical t

/-- The Notice Queue holds at most 12 notices, at most one of them OVERFLOW, which is the newest (R186). -/
def Obligations.EveryStepKeepsNoticesBounded : Prop :=
  ∀ s t : State, NoticesBounded s.link.notices → step s = .next t → NoticesBounded t.link.notices

/-- The Request Table holds at most 8 requests, none with tag 0 and no two with the same tag, and arrival numbers from 1 to
the number of occupied slots, each once (R178). -/
def Obligations.EveryStepKeepsRequestTableSound : Prop :=
  ∀ s t : State, RequestTableSound s.link.slots → step s = .next t → RequestTableSound t.link.slots

/-- The immediate reply list holds at most 4 answers, both guard counts stay from 0 to 4 and the link counters at or below
65,535 (R177, R185, R79, R175). -/
def Obligations.EveryStepKeepsCountsBounded : Prop :=
  ∀ s t : State, CountsBounded s → step s = .next t → CountsBounded t

/-- The state after reset meets the four invariants. The array of that state is the model's choice (assumption 1). -/
def Obligations.ResetMeetsTheInvariants : Prop :=
  TablesCanonical State.reset ∧ NoticesBounded State.reset.link.notices ∧
    RequestTableSound State.reset.link.slots ∧ CountsBounded State.reset

/-! ## Rules of the whole machine -/

/-- No command but those of the supply and RST takes a serving part, in which neither mount nor FORMAT is in progress, out of
READY and READ_ONLY, but for a FORMAT; from READ_ONLY it does not go back to READY and keeps its cause (R155, R156). -/
def Obligations.ServingModesAreLeftOnlyByFormat : Prop :=
  ∀ (c : Instr) (s t : State), Settled s → Serves s → isResetCommand c = false → c ≠ .format → exec c s = .next t →
    Settled t ∧ Serves t ∧
      (s.startup.mode = .readOnly → t.startup.mode = .readOnly ∧ t.startup.cause = s.startup.cause)

/-- Between two mounts or FORMATs the policy of a space never falls and a frozen space stays frozen (R126, R128). -/
def Obligations.PoliciesAndFrozenMarksNeverFall : Prop :=
  ∀ (c : Instr) (s t : State), Settled s → isResetCommand c = false → exec c s = .next t → SpacesRise s t

/-- A page of the array changes only when an operation ends or is cut short, and then only if it is the page of the program,
or in the segment of the erase, that ran or was suspended (R73, R74, R84). -/
def Obligations.ArrayChangesOnlyAtItsOperations : Prop :=
  ∀ (c : Instr) (s t : State), exec c s = .next t →
    (∀ a, ¬ isTarget s.arr.op a → (∀ e, s.arr.suspended = some e → inSegment e.seg a = false) →
      Store.get a t.flash = Store.get a s.flash) ∧
    (isResetCommand c = false → c ≠ .arrayOperationTimeout → c ≠ .eraseSuspendTimeout →
      (∀ ok, c ≠ .programCompletion ok) → (∀ ok, c ≠ .eraseCompletion ok) → t.flash = s.flash)

/-- The parameters change only at SET_PARAM and return to their defaults at power-on and RST (R193, R158). -/
def Obligations.ParametersChangeOnlyBySetParam : Prop :=
  ∀ (c : Instr) (s t : State), exec c s = .next t →
    (isResetCommand c = false → c ≠ .setParam → t.params = s.params) ∧
    (c = .rstAsserted ∨ c = .powerOn ∨ c = .powerLoss → t.params = ⟨4, 500, 8, 16, 24⟩)

/-- The tests made at the end of a change touch neither the array's pages nor the lines, the parameters, the next
sequence, the patrol cursor, the SYNC marks, the receiver, the link counters, a soft reset or the queue of commands,
and no space's policy, pin guard, quota, frozen mark or clear sequence; no slot changes its tag, request or arrival
number, and a slot in REPLY_READY that no list of the part still names keeps its answer (R179). So it is whether an array
operation has ended or not, and at the end of a change of the Host Link alone, which is the transmitter's choice and
nothing else unless every occupied slot awaits a commit (R54). That these tests are made at the end of a change is the
model's reading (assumption 6).
When they act, in the order in which they stand, twice over: a snapshot is begun when the writer is idle and not failed, the
dirty flag is yes and the mode is READY or READ_ONLY (R147); a run is started when the mode is READY, the engine idle, and the
Refresh Queue holds an eligible member, the free count is below the start watermark with the no-gain mark clear, or a COMPACT
is listed (R91, R89); in READING the final sweep begins at no live cells or past page 47, the engine's waiting claim
withdrawn, and otherwise the next page's read is claimed, in ERASING the segment's erase, in the RELOCATE class, unless the
engine has one waiting or under way or PFW pauses it (R96, R104, R108); the HOST stream gains a commit cause when
every occupied slot, of at least one, is AWAITING_COMMIT (R54); and the arbiter grants and the transmitter chooses. Where its
condition does not hold, a test changes nothing. -/
def Obligations.EndOfChangeFrame : Prop :=
  (∀ s : State,
    let round (ended : Bool) (x : State) : State :=
      arbitrate ended 3 (pressureTest (engineTest (startTest (snapshotTest x))))
    settle s = finish (round false (round false s)) ∧ settleAfterOp s = finish (round true (round true s))) ∧
  (∀ s : State,
    let snapshots := s.cat.write = none ∧ s.cat.dirty = true ∧ s.cat.failed = false ∧ Serves s
    let pending (g : Nat) : Prop :=
      (∃ f, s.host.inFlight = some f ∧ f.seg = g) ∨ ∃ f, s.reloc.inFlight = some f ∧ f.seg = g
    let starts := s.startup.mode = .ready ∧ s.comp.running = false ∧
      ((∃ g, g ∈ s.urgent ++ s.ordinary ∧ segState g s = some .full ∧ ¬ pending g) ∨
        (s.freeCount < s.params.compactStart ∧ s.comp.noGain = false) ∨ s.comp.compacts ≠ [])
    let presses := s.link.slots ≠ [] ∧ ∀ p ∈ s.link.slots, p.2.state = .awaitingCommit
    (snapshots → snapshotTest s = beginSnapshot false s) ∧ (¬ snapshots → snapshotTest s = s) ∧
    (starts → startTest s = runDecision s) ∧ (¬ starts → startTest s = s) ∧
    (presses → pressureTest s = commitCause .host s) ∧ (¬ presses → pressureTest s = s)) ∧
  (∀ s : State, s.comp.victim = none → engineTest s = s) ∧
  (∀ (s : State) (v : Victim), s.comp.victim = some v →
    let live := ((segAt v.seg s).map SegRec.live).getD 0
    let engine (c : Claim) : Prop := c.origin = .compaction
    let waits := ∃ c ∈ s.arr.relPlace.toList ++ s.arr.outside, engine c
    let reads := ∃ r, s.arr.op = some (.read r) ∧ r.origin = .compaction ∧ r.seg = v.seg ∧ r.page = v.nextPage
    let erases := (∃ e, s.arr.op = some (.erase e) ∧ e.origin = .compaction) ∨
      ∃ e, s.arr.suspended = some e ∧ e.origin = .compaction
    (v.phase = .reading → (live = 0 ∨ 47 < v.nextPage →
        engineTest s = beginSweep v.seg (withdrawOf .relocate .compaction s)) ∧
      (0 < live → v.nextPage ≤ 47 →
        (reads ∨ waits ∨ s.comp.paused = true → engineTest s = s) ∧
        (¬ reads → ¬ waits → s.comp.paused = false →
          engineTest s = makeClaim .relocate .compaction (.read v.seg v.nextPage) s))) ∧
    (v.phase = .erasing →
      (erases ∨ waits ∨ s.comp.paused = true → engineTest s = s) ∧
      (¬ erases → ¬ waits → s.comp.paused = false →
        engineTest s = makeClaim .relocate .compaction (.erase v.seg) s)) ∧
    (v.phase ≠ .reading → v.phase ≠ .erasing → engineTest s = s)) ∧
  (∀ (s : State) (p : Claim → Bool), let a := s.arr.withdraw .relocate p
    (∀ c ∈ a.relPlace.toList ++ a.outside.filter (fun c => c.cls == .relocate), p c = false) ∧
    a.op = s.arr.op ∧ a.suspended = s.arr.suspended) ∧
  (∀ s t : State, t = settle s ∨ t = settleAfterOp s ∨ t = calm s →
    t.powered = s.powered ∧ t.rst = s.rst ∧ t.wp = s.wp ∧ t.pfw = s.pfw ∧ t.flash = s.flash ∧ t.params = s.params ∧
    t.nextSeq = s.nextSeq ∧ t.patrol = s.patrol ∧ t.syncMarks = s.syncMarks ∧ t.pending = s.pending ∧
    t.link.inside = s.link.inside ∧ t.link.counters = s.link.counters ∧ t.link.softReset = s.link.softReset ∧
    t.spaces.map (fun p => (p.1, SpaceRec.fields p.2, p.2.frozen)) =
      s.spaces.map (fun p => (p.1, SpaceRec.fields p.2, p.2.frozen)) ∧
    t.link.slots.map (fun p => (p.1, p.2.tag, p.2.request, p.2.arrival)) =
      s.link.slots.map (fun p => (p.1, p.2.tag, p.2.request, p.2.arrival)) ∧
    ∀ n sl, Store.Canonical s.link.slots → slotAt n s = some sl → sl.state = .replyReady → s.engine.active ≠ some n →
      (∀ c ∈ s.comp.compacts, c.slot ≠ n) → (∀ w ∈ s.cat.waiters, w.who ≠ .slot n) →
      (∀ k v, s.host.waiting ≠ some (.host n k v)) → (∀ f, s.startup.format = some f → f.slot ≠ some n) →
      slotAt n t = some sl) ∧
  (∀ s : State, ∃ l, finish s = { s with link := l } ∧
    l = { s.link with
      replyOrder := l.replyOrder, sending := l.sending, immediate := l.immediate, notices := l.notices
      noticeGuard := l.noticeGuard, resetReplies := l.resetReplies }) ∧
  ∀ s : State, (s.link.slots = [] ∨ (∃ p ∈ s.link.slots, p.2.state ≠ .awaitingCommit) ∨ s.host.buffer = [] ∨
    s.host.stranded = true) → calm s = finish s
end

