-- ==== Sys2Proof/Laws/Store.lean ====
section
/-! SUPPORT. Laws/Store.lean: a read after a change of a table, and that every table operation keeps the canonical
form. -/

namespace Sys2Proof.Machine.Store

variable {α β : Type}

/-! ## A read after a change -/

theorem get_put_same (k : Nat) (v : α) (m : List (Nat × α)) : get k (put k v m) = some v := by
  induction m with
  | nil => simp [put, get]
  | cons p rest ih =>
    obtain ⟨j, w⟩ := p
    by_cases h1 : k < j
    · simp [put, get, h1]
    · by_cases h2 : j = k
      · simp [put, get, h2]
      · simp [put, get, h1, h2, ih]

theorem get_put_other {k j : Nat} (h : k ≠ j) (v : α) (m : List (Nat × α)) : get k (put j v m) = get k m := by
  induction m with
  | nil => simp [put, get, Ne.symm h]
  | cons p rest ih =>
    obtain ⟨i, w⟩ := p
    by_cases h1 : j < i
    · simp [put, get, h1, Ne.symm h]
    · by_cases h2 : i = j
      · subst h2; simp [put, get, Ne.symm h]
      · simp [put, get, h1, h2, ih]

theorem get_del_other {k j : Nat} (h : k ≠ j) (m : List (Nat × α)) : get k (del j m) = get k m := by
  induction m with
  | nil => rfl
  | cons p rest ih =>
    obtain ⟨i, w⟩ := p
    by_cases h2 : i = j
    · subst h2; simp [del, get, Ne.symm h]
    · simp [del, get, h2, ih]

theorem get_modify_same (k : Nat) (f : α → α) (m : List (Nat × α)) : get k (modify k f m) = (get k m).map f := by
  induction m with
  | nil => rfl
  | cons p rest ih =>
    obtain ⟨i, w⟩ := p
    by_cases h2 : i = k
    · simp [modify, get, h2]
    · simp [modify, get, h2, ih]

theorem get_modify_other {k j : Nat} (h : k ≠ j) (f : α → α) (m : List (Nat × α)) :
    get k (modify j f m) = get k m := by
  induction m with
  | nil => rfl
  | cons p rest ih =>
    obtain ⟨i, w⟩ := p
    by_cases h2 : i = j
    · subst h2; simp [modify, get, Ne.symm h]
    · simp [modify, get, h2, ih]

theorem get_mapVals (k : Nat) (f : Nat → α → β) (m : List (Nat × α)) :
    get k (mapVals f m) = (get k m).map (f k) := by
  induction m with
  | nil => rfl
  | cons p rest ih =>
    obtain ⟨i, w⟩ := p
    by_cases h2 : i = k
    · subst h2; simp [mapVals, get]
    · have : get k (mapVals f rest) = (get k rest).map (f k) := ih
      simpa [mapVals, get, h2] using this

theorem get_filter (k : Nat) (p : Nat → Bool) (m : List (Nat × α)) :
    get k (m.filter (fun e => p e.1)) = if p k then get k m else none := by
  induction m with
  | nil => simp [get]
  | cons e rest ih =>
    obtain ⟨i, w⟩ := e
    by_cases h2 : i = k
    · subst h2
      by_cases hp : p i
      · simp [get, hp]
      · simpa [get, hp] using ih
    · by_cases hp : p i
      · simpa [get, hp, h2] using ih
      · simpa [get, hp, h2] using ih

theorem mem_of_get {k : Nat} {v : α} {m : List (Nat × α)} (h : get k m = some v) : (k, v) ∈ m := by
  induction m with
  | nil => simp [get] at h
  | cons e rest ih =>
    obtain ⟨i, w⟩ := e
    by_cases h2 : i = k
    · subst h2
      simp [get] at h
      simp [h]
    · simp [get, h2] at h
      exact List.mem_cons_of_mem _ (ih h)

theorem get_of_mem {k : Nat} {v : α} {m : List (Nat × α)} (hc : Canonical m) (h : (k, v) ∈ m) :
    get k m = some v := by
  induction m with
  | nil => simp at h
  | cons e rest ih =>
    obtain ⟨i, w⟩ := e
    simp only [Canonical, List.map_cons, List.pairwise_cons] at hc
    rcases List.mem_cons.mp h with h1 | h1
    · cases h1; simp [get]
    · have hlt : i < k := hc.1 k (List.mem_map.mpr ⟨(k, v), h1, rfl⟩)
      have hne : i ≠ k := Nat.ne_of_lt hlt
      simp [get, hne, ih hc.2 h1]

/-! ## The canonical form -/

theorem keys_modify (k : Nat) (f : α → α) (m : List (Nat × α)) :
    (modify k f m).map Prod.fst = m.map Prod.fst := by
  induction m with
  | nil => rfl
  | cons p rest ih =>
    obtain ⟨i, w⟩ := p
    by_cases h : i = k
    · simp [modify, h]
    · simp [modify, h, ih]

theorem keys_mapVals (f : Nat → α → β) (m : List (Nat × α)) :
    (mapVals f m).map Prod.fst = m.map Prod.fst := by
  simp [mapVals, Function.comp_def]

theorem mem_keys_put {k j : Nat} {v : α} {m : List (Nat × α)} (h : j ∈ (put k v m).map Prod.fst) :
    j = k ∨ j ∈ m.map Prod.fst := by
  induction m with
  | nil => simpa [put] using h
  | cons p rest ih =>
    obtain ⟨i, w⟩ := p
    by_cases h1 : k < i
    · simp [put, h1] at h ⊢; omega
    · by_cases h2 : i = k
      · simp [put, h2] at h ⊢; tauto
      · simp only [put, h1, h2, if_false, List.map_cons, List.mem_cons] at h ⊢
        rcases h with h | h
        · exact .inr (.inl h)
        · rcases ih h with h | h
          · exact .inl h
          · exact .inr (.inr h)

theorem canonical_put {k : Nat} {v : α} {m : List (Nat × α)} (h : Canonical m) : Canonical (put k v m) := by
  induction m with
  | nil => simp [put, Canonical]
  | cons p rest ih =>
    obtain ⟨i, w⟩ := p
    simp only [Canonical, List.map_cons, List.pairwise_cons] at h
    by_cases h1 : k < i
    · simp only [put, h1, if_true, Canonical, List.map_cons, List.pairwise_cons, List.mem_cons]
      refine ⟨?_, h⟩
      rintro a (rfl | ha)
      · exact h1
      · exact Nat.lt_trans h1 (h.1 a ha)
    · by_cases h2 : i = k
      · simpa [put, h2, Canonical] using h
      · simp only [put, h1, h2, if_false, Canonical, List.map_cons, List.pairwise_cons]
        refine ⟨?_, ih h.2⟩
        intro a ha
        rcases mem_keys_put ha with rfl | ha
        · omega
        · exact h.1 a ha

theorem canonical_modify {k : Nat} {f : α → α} {m : List (Nat × α)} (h : Canonical m) :
    Canonical (modify k f m) := by
  rw [Canonical, keys_modify]; exact h

theorem canonical_mapVals {f : Nat → α → β} {m : List (Nat × α)} (h : Canonical m) : Canonical (mapVals f m) := by
  rw [Canonical, keys_mapVals]; exact h

theorem canonical_sublist {m m' : List (Nat × α)} (hs : List.Sublist m' m) (h : Canonical m) : Canonical m' :=
  h.sublist (hs.map Prod.fst)

theorem canonical_filter {p : Nat × α → Bool} {m : List (Nat × α)} (h : Canonical m) : Canonical (m.filter p) :=
  canonical_sublist List.filter_sublist h

theorem canonical_take {n : Nat} {m : List (Nat × α)} (h : Canonical m) : Canonical (m.take n) :=
  canonical_sublist (List.take_sublist n m) h

theorem del_sublist (k : Nat) (m : List (Nat × α)) : List.Sublist (del k m) m := by
  induction m with
  | nil => exact List.Sublist.slnil
  | cons p rest ih =>
    obtain ⟨i, w⟩ := p
    by_cases h : i = k
    · simp [del, h]
    · simpa [del, h] using ih

theorem canonical_del {k : Nat} {m : List (Nat × α)} (h : Canonical m) : Canonical (del k m) :=
  canonical_sublist (del_sublist k m) h

theorem get_del_same {k : Nat} {m : List (Nat × α)} (h : Canonical m) : get k (del k m) = none := by
  induction m with
  | nil => rfl
  | cons p rest ih =>
    obtain ⟨i, w⟩ := p
    simp only [Canonical, List.map_cons, List.pairwise_cons] at h
    by_cases h2 : i = k
    · subst h2
      simp only [del, if_true]
      cases hg : get i rest with
      | none => rfl
      | some v =>
        have := h.1 i (List.mem_map.mpr ⟨(i, v), mem_of_get hg, rfl⟩)
        omega
    · simp [del, get, h2, ih h.2]

end Sys2Proof.Machine.Store
end

