-- ==== Sys2Proof/Laws/Flash.lean ====
section
/-! SUPPORT. Laws/Flash.lean: what the array holds in a page after a program, an erase, and an erase that failed or was cut
short. -/

namespace Sys2Proof.Machine

/-- Two pages are listed under one number only if they are the same page. -/
theorem pageAddr_inj {g g' p p' : Nat} (hp : p < Config.pages) (hp' : p' < Config.pages)
    (h : pageAddr g p = pageAddr g' p') : g = g' ∧ p = p' := by
  simp only [pageAddr, Config.pages] at *; omega

/-- A page after a page was programmed (R73). -/
theorem pageAt_setPage {g g' p p' : Nat} (hp : p < Config.pages) (hp' : p' < Config.pages) (d : PageData) (q : Quality)
    (s : State) :
    pageAt g' p' (setPage g p d q s) = if g' = g ∧ p' = p then some ⟨some d, q⟩ else pageAt g' p' s := by
  simp only [pageAt, setPage]
  split
  · next h => rw [h.1, h.2]; exact Store.get_put_same _ _ _
  · next h => exact Store.get_put_other (fun e => h (pageAddr_inj hp' hp e)) _ _

/-- A page after a segment was made blank (R74(1)). -/
theorem pageAt_blankSegment {g g' p : Nat} (hp : p < Config.pages) (s : State) :
    pageAt g' p (blankSegment g s) = if g' = g then none else pageAt g' p s := by
  have he : pageAddr g' p / Config.pages = g' := by simp only [pageAddr, Config.pages] at *; omega
  have h := Store.get_filter (pageAddr g' p) (fun a => !inSegment g a) s.flash
  simp only [inSegment, he] at h
  rw [show pageAt g' p (blankSegment g s) = _ from h]
  by_cases hg : g' = g <;> simp [hg, pageAt]

/-- A page after some pages of a segment were spoiled. -/
theorem get_spoilPages {g g' p : Nat} (hp : p < Config.pages) (f : Quality → Quality) {l : List Nat} (hn : l.Nodup)
    (hl : ∀ i ∈ l, i < Config.pages) (m : List (Nat × StoredPage)) :
    Store.get (pageAddr g' p) (l.foldl (spoilPage g f) m) =
      if g' = g ∧ p ∈ l then some (spoiled f (Store.get (pageAddr g' p) m)) else Store.get (pageAddr g' p) m := by
  induction l generalizing m with
  | nil => simp
  | cons i l ih =>
    obtain ⟨hni, hnl⟩ := List.nodup_cons.mp hn
    rw [List.foldl_cons, ih hnl (fun j hj => hl j (List.mem_cons_of_mem _ hj))]
    by_cases h : g' = g ∧ p = i
    · obtain ⟨rfl, rfl⟩ := h
      simp [hni, spoilPage, Store.get_put_same]
    · have hne : pageAddr g' p ≠ pageAddr g i := fun e => h (pageAddr_inj hp (hl i (List.mem_cons_self ..)) e)
      simp only [spoilPage, Store.get_put_other hne, List.mem_cons]
      by_cases hg : g' = g
      · have hpi : p ≠ i := fun e => h ⟨hg, e⟩
        simp [hg, hpi]
      · simp [hg]

/-- A page after an erase of its segment that failed or was cut short (R74(2), R84(3)). -/
theorem pageAt_spoilSegment {g g' p : Nat} (hp : p < Config.pages) (f : Quality → Quality) (s : State) :
    pageAt g' p (spoilSegment g f s) = if g' = g then some (spoiled f (pageAt g' p s)) else pageAt g' p s := by
  have h := get_spoilPages (g := g) (g' := g') hp f (List.nodup_range (n := Config.pages))
    (fun _ => List.mem_range.mp) s.flash
  simp only [List.mem_range, hp, and_true] at h
  simp only [pageAt, spoilSegment]
  exact h

/-- A page after an erase ended (R74). -/
theorem pageAt_eraseLeaves {g g' p : Nat} (hp : p < Config.pages) (ok : Bool) (s : State) :
    pageAt g' p (eraseLeaves ok g s) =
      if g' = g then (if ok then none else some (spoiled Quality.eraseFailed (pageAt g' p s))) else pageAt g' p s := by
  unfold eraseLeaves
  cases ok
  · simp [pageAt_spoilSegment hp]
  · simp [pageAt_blankSegment hp]

end Sys2Proof.Machine
end

