-- ==== Sys2Proof/Laws/Stable.lean ====
section
/-! SUPPORT. Laws/Stable.lean: what the part's operations can do, said once. A property of states that the few basic changes
keep (`Stable`, and its extensions `Placing`, `Building` and `Whole`) is kept by every operation built from them: the
files Laws/Keeps*.lean have one lemma per operation, so that an invariant is proved on the basic changes alone. -/

namespace Sys2Proof.Machine

/-- What no change of a slot's state touches. -/
def slotId (p : Nat × Slot) : Nat × Byte × Request × Nat := (p.1, p.2.tag, p.2.request, p.2.arrival)

/-- What no change of a space's counts touches. -/
def spaceId (p : Nat × SpaceRec) : Nat × SpaceFields × Bool := (p.1, SpaceRec.fields p.2, p.2.frozen)

/-- The two states agree but for the work of the streams, the array, the engines and the catalogue. -/
def SameButWork (s t : State) : Prop :=
  t = { s with
    freeCount := t.freeCount, lowFree := t.lowFree, urgent := t.urgent, ordinary := t.ordinary
    nextStamp := t.nextStamp, host := t.host, reloc := t.reloc, commitTimer := t.commitTimer, arr := t.arr
    comp := t.comp, cat := t.cat, engine := t.engine }

/-- A property that the basic changes of the tests at the end of a change keep. -/
structure Stable (P : State → Prop) : Prop where
  work : ∀ s t, SameButWork s t → (s.arr.guardCount ≤ 4 → t.arr.guardCount ≤ 4) → P s → P t
  slots : ∀ s l, l.map slotId = s.link.slots.map slotId → P s → P { s with link := { s.link with slots := l } }
  notice : ∀ x s, P s → P (queueNotice x s)
  segs : ∀ s l, (Store.Canonical s.segs → Store.Canonical l) → P s → P { s with segs := l }
  index : ∀ s l, (Store.Canonical s.index → Store.Canonical l) → P s → P { s with index := l }
  counts : ∀ s l, l.map spaceId = s.spaces.map spaceId → P s → P { s with spaces := l }
  readOnly : ∀ s c, s.startup.mode = .ready → P s →
    P { s with startup := { s.startup with mode := .readOnly, cause := some c } }
  pendingCause : ∀ s c, s.startup.mode = .mounting ∨ s.startup.mode = .formatting → P s →
    P { s with startup := { s.startup with pendingCause := some c } }
  formatFails : ∀ s c, s.startup.format.isSome → P s →
    P { s with startup := { s.startup with mode := .readOnly, cause := some c, format := none, pendingCause := none } }

/-- `Stable`, kept by placing HOST entries and by the SYNC marks as well. -/
structure Placing (P : State → Prop) : Prop extends Stable P where
  sequence : ∀ s q n, P s → P { s with nextSeq := q, freeDraws := n }
  marks : ∀ s l, P s → P { s with syncMarks := l }

/-- `Placing`, kept by the work of mount and FORMAT as well. -/
structure Building (P : State → Prop) : Prop extends Placing P where
  startup : ∀ s u, (marksCanonical s → marksCanonical { s with startup := u }) → P s → P { s with startup := u }
  spaces : ∀ s l, (Store.Canonical s.spaces → Store.Canonical l) → P s → P { s with spaces := l }

/-! ## List and claim helpers -/

/-- A property kept by each step of a fold is kept by the fold. -/
theorem foldl_keeps {α σ : Type} {P : σ → Prop} {f : σ → α → σ} (hf : ∀ t a, P t → P (f t a)) (l : List α)
    {s : σ} (h : P s) : P (l.foldl f s) := by
  induction l generalizing s with
  | nil => exact h
  | cons a l ih => exact ih (hf s a h)

theorem ids_modify {n : Nat} {f : Slot → Slot} (hf : ∀ k sl, slotId (k, f sl) = slotId (k, sl))
    (l : List (Nat × Slot)) : (Store.modify n f l).map slotId = l.map slotId := by
  induction l with
  | nil => rfl
  | cons p l ih =>
    obtain ⟨k, sl⟩ := p
    unfold Store.modify
    split
    · simp [hf]
    · simp [ih]

theorem ids_mapVals {f : Nat → Slot → Slot} (hf : ∀ k sl, slotId (k, f k sl) = slotId (k, sl))
    (l : List (Nat × Slot)) : (Store.mapVals f l).map slotId = l.map slotId := by
  simp [Store.mapVals, Function.comp_def, hf]

theorem spaceIds_modify {n : Nat} {f : SpaceRec → SpaceRec} (hf : ∀ k r, spaceId (k, f r) = spaceId (k, r))
    (l : List (Nat × SpaceRec)) : (Store.modify n f l).map spaceId = l.map spaceId := by
  induction l with
  | nil => rfl
  | cons p l ih =>
    obtain ⟨k, r⟩ := p
    unfold Store.modify
    split
    · simp [hf]
    · simp [ih]

theorem ArrayCtl.setPlace_guardCount (a : ArrayCtl) (cls : ClaimClass) (c : Option Claim) :
    (a.setPlace cls c).guardCount = a.guardCount := by cases cls <;> rfl

theorem ArrayCtl.claim_guardCount (a : ArrayCtl) (c : Claim) : (a.claim c).guardCount = a.guardCount := by
  unfold ArrayCtl.claim; split
  · exact ArrayCtl.setPlace_guardCount ..
  · rfl

theorem ArrayCtl.refill_guardCount (a : ArrayCtl) (cls : ClaimClass) : (a.refill cls).guardCount = a.guardCount := by
  unfold ArrayCtl.refill; split
  · rfl
  · split
    · rfl
    · exact ArrayCtl.setPlace_guardCount ..

theorem ArrayCtl.leave_guardCount (a : ArrayCtl) (cls : ClaimClass) : (a.leave cls).guardCount = a.guardCount := by
  unfold ArrayCtl.leave; rw [ArrayCtl.refill_guardCount, ArrayCtl.setPlace_guardCount]

theorem ArrayCtl.leaveIf_guardCount (a : ArrayCtl) (cls : ClaimClass) (p : Claim → Bool) :
    (a.leaveIf cls p).guardCount = a.guardCount := by
  unfold ArrayCtl.leaveIf; split
  · rfl
  · split
    · exact ArrayCtl.leave_guardCount ..
    · rfl

theorem ArrayCtl.withdraw_guardCount {a : ArrayCtl} (cls : ClaimClass) (p : Claim → Bool) (h : a.guardCount ≤ 4) :
    (a.withdraw cls p).guardCount ≤ 4 := by
  unfold ArrayCtl.withdraw; dsimp only; split
  · exact Nat.zero_le 4
  · rw [ArrayCtl.leaveIf_guardCount]; exact h

theorem ArrayCtl.guardAfter_le (a : ArrayCtl) (cls : ClaimClass) : a.guardAfter cls ≤ 4 := by
  unfold ArrayCtl.guardAfter; split
  · split
    · omega
    · omega
  · omega

/-! ## Basic operations -/

namespace Stable

variable {P : State → Prop} {s : State}

theorem keeps_queueNotice (hP : Stable P) (x : Notice) (h : P s) : P (queueNotice x s) := hP.notice x s h

theorem keeps_modSlot (hP : Stable P) (n : Nat) {f : Slot → Slot} (hf : ∀ k sl, slotId (k, f sl) = slotId (k, sl)) (h : P s) :
    P (modSlot n f s) := hP.slots s _ (ids_modify hf _) h

theorem keeps_modSeg (hP : Stable P) (g : Nat) (f : SegRec → SegRec) (h : P s) : P (modSeg g f s) :=
  hP.segs s _ Store.canonical_modify h

theorem keeps_recount (hP : Stable P) (n : Nat) (old new : Option IndexEntry) (h : P s) :
    P (modSpace n (SpaceRec.recount old new) s) := hP.counts s _ (spaceIds_modify (f := SpaceRec.recount old new) (fun _ _ => rfl) _) h

theorem keeps_modStream (hP : Stable P) (id : StreamId) (f : Stream → Stream) (h : P s) : P (modStream id f s) := by
  cases id <;> exact hP.work s _ rfl (fun x => x) h

theorem keeps_modComp (hP : Stable P) (f : Compaction → Compaction) (h : P s) : P (modComp f s) :=
  hP.work s _ rfl (fun x => x) h

theorem keeps_modVictim (hP : Stable P) (f : Victim → Victim) (h : P s) : P (modVictim f s) := hP.keeps_modComp _ h

theorem keeps_modCat (hP : Stable P) (f : Catalogue → Catalogue) (h : P s) : P (modCat f s) :=
  hP.work s _ rfl (fun x => x) h

theorem keeps_makeClaim (hP : Stable P) (cls : ClaimClass) (o : Originator) (op : ClaimOp) (h : P s) :
    P (makeClaim cls o op s) :=
  hP.work s _ rfl (fun x => by unfold makeClaim; rw [ArrayCtl.claim_guardCount]; exact x) h

theorem keeps_withdraw (hP : Stable P) (cls : ClaimClass) (p : Claim → Bool) (h : P s) :
    P { s with arr := s.arr.withdraw cls p } :=
  hP.work s _ rfl (fun x => ArrayCtl.withdraw_guardCount cls p x) h

theorem keeps_answer (hP : Stable P) (n : Nat) (st : Status) (d : ReplyData) (h : P s) : P (answer n st d s) :=
  hP.work _ _ rfl (fun x => x) (hP.keeps_modSlot n (fun _ _ => rfl) h)

theorem keeps_answerAll (hP : Stable P) (ns : List Nat) (st : Status) (d : ReplyData) (h : P s) : P (answerAll ns st d s) :=
  foldl_keeps (fun _ n => hP.keeps_answer n st d) ns h

theorem keeps_answerOpt (hP : Stable P) (n : Option Nat) (st : Status) (d : ReplyData) (h : P s) : P (answerOpt n st d s) := by
  cases n with
  | none => exact h
  | some n => exact hP.keeps_answer n st d h

end Stable

end Sys2Proof.Machine
end

