-- ==== Sys2Proof/Laws/KeepsIndex.lean ====
section
/-! SUPPORT. Laws/KeepsIndex.lean: a stable property is kept by the operations of the Record Index, the Allocator, the
Refresh Queue and the mode (Machine/Index.lean, Machine/Modes.lean). -/

namespace Sys2Proof.Machine

theorem canonical_setEntry (k : Key) (new : Option IndexEntry) {l : List (Nat × IndexEntry)}
    (h : Store.Canonical l) : Store.Canonical (setEntry k new l) := by
  cases new with
  | none => exact Store.canonical_del h
  | some e => exact Store.canonical_put h

namespace Stable

variable {P : State → Prop} {s : State}

theorem keeps_dropLive (hP : Stable P) (g n : Nat) (h : P s) : P (dropLive g n s) := by
  have h1 := hP.keeps_modSeg g (fun r => { r with live := r.live - n }) h
  unfold dropLive; dsimp only; split
  · exact hP.work _ _ rfl (fun x => x) h1
  · exact h1

theorem keeps_addLive (hP : Stable P) (g n : Nat) (h : P s) : P (addLive g n s) := hP.keeps_modSeg g _ h

theorem keeps_uncountOld (hP : Stable P) (e : Option IndexEntry) (h : P s) : P (uncountOld e s) := by
  unfold uncountOld; split
  · exact h
  · split
    · exact h
    · exact hP.keeps_dropLive _ _ h

theorem keeps_countNew (hP : Stable P) (e : Option IndexEntry) (h : P s) : P (countNew e s) := by
  unfold countNew; split
  · exact h
  · split
    · exact h
    · exact hP.keeps_addLive _ _ h

theorem index_uncountOld (e : Option IndexEntry) (s : State) : (uncountOld e s).index = s.index := by
  unfold uncountOld dropLive; (repeat' split) <;> rfl

theorem index_countNew (e : Option IndexEntry) (s : State) : (countNew e s).index = s.index := by
  unfold countNew addLive; (repeat' split) <;> rfl

theorem keeps_changeEntry (hP : Stable P) (k : Key) (new : Option IndexEntry) (h : P s) : P (changeEntry k new s) := by
  unfold changeEntry; dsimp only
  refine hP.keeps_recount _ _ _ (hP.index _ _ ?_ (hP.keeps_countNew _ (hP.keeps_uncountOld _ h)))
  rw [index_countNew, index_uncountOld]
  exact canonical_setEntry k new

/-! ## Allocator -/

theorem keeps_freeCountFalls (hP : Stable P) (h : P s) : P (freeCountFalls s) := by
  unfold freeCountFalls; dsimp only; split
  · exact hP.notice _ _ (hP.work _ _ rfl (fun x => x) h)
  · exact hP.work _ _ rfl (fun x => x) h

theorem keeps_openSegment (hP : Stable P) {id : StreamId} {retry : Bool} {t : State}
    (ht : openSegment id retry s = some t) (h : P s) : P t := by
  unfold openSegment at ht; dsimp only at ht
  split at ht
  · split at ht
    · cases ht
      exact hP.keeps_freeCountFalls (hP.keeps_modStream _ _
        (hP.work _ _ rfl (fun x => x) (hP.keeps_modSeg _ _ h)))
    · cases ht
  · cases ht

theorem keeps_fillSegment (hP : Stable P) (g : Nat) (h : P s) : P (fillSegment g s) := by
  unfold fillSegment; exact hP.work _ _ rfl (fun x => x) (hP.keeps_modSeg g _ h)

theorem keeps_closeOpen (hP : Stable P) (id : StreamId) (h : P s) : P (closeOpen id s) := by
  unfold closeOpen; split
  · exact h
  · exact hP.keeps_fillSegment _ (hP.keeps_modStream _ _ h)

/-! ## Commit -/

theorem keeps_stopTimer (hP : Stable P) (id : StreamId) (h : P s) : P (stopTimer id s) := by
  cases id
  · exact hP.work _ _ rfl (fun x => x) h
  · exact h

theorem keeps_advancePage (hP : Stable P) (id : StreamId) (g page : Nat) (final : Bool) (h : P s) :
    P (advancePage id g page final s) := by
  unfold advancePage; split
  · exact hP.keeps_closeOpen _ h
  · exact hP.keeps_modSeg _ _ h

theorem keeps_claimProgram (hP : Stable P) (id : StreamId) (f : InFlight) (h : P s) : P (claimProgram id f s) :=
  hP.keeps_makeClaim _ _ _ h

theorem keeps_commitNow (hP : Stable P) (id : StreamId) (h : P s) : P (commitNow id s) := by
  unfold commitNow; split
  · exact h
  · exact hP.keeps_claimProgram _ _ (hP.keeps_stopTimer _ (hP.keeps_advancePage _ _ _ _ (hP.keeps_modStream _ _ h)))

theorem keeps_commitCause (hP : Stable P) (id : StreamId) (h : P s) : P (commitCause id s) := by
  unfold commitCause; dsimp only; split
  · exact h
  · split
    · exact hP.keeps_commitNow _ h
    · exact hP.keeps_modStream _ _ h

/-! ## Refresh Queue -/

theorem keeps_closeForRefresh (hP : Stable P) (g : Nat) (h : P s) : P (closeForRefresh g s) := by
  unfold closeForRefresh; split
  · exact h
  · split
    · exact hP.keeps_closeOpen _ h
    · exact hP.keeps_commitCause _ (hP.keeps_modStream _ _ h)

theorem keeps_joinQueue (hP : Stable P) (g : Nat) (r : RefreshReason) (h : P s) : P (joinQueue g r s) := by
  unfold joinQueue; split <;> exact hP.work _ _ rfl (fun x => x) h

theorem keeps_setReason (hP : Stable P) (g : Nat) (r : RefreshReason) (h : P s) : P (setReason g r s) :=
  hP.keeps_modSeg _ _ h

theorem keeps_upgradeReason (hP : Stable P) (g : Nat) (old new : RefreshReason) (h : P s) :
    P (upgradeReason g old new s) := by
  unfold upgradeReason; split
  · exact h
  · split
    · exact hP.keeps_setReason _ _ (hP.work _ _ rfl (fun x => x) h)
    · exact hP.keeps_setReason _ _ h

theorem keeps_refreshArrival (hP : Stable P) (g : Nat) (r : RefreshReason) (h : P s) : P (refreshArrival g r s) := by
  unfold refreshArrival; split
  · exact h
  · split
    · split
      · exact hP.keeps_upgradeReason _ _ _ h
      · exact h
    · split
      · exact hP.keeps_closeForRefresh _ (hP.keeps_joinQueue _ _ (hP.keeps_setReason _ _ h))
      · split
        · exact hP.keeps_joinQueue _ _ (hP.keeps_setReason _ _ h)
        · exact h

theorem keeps_leaveQueue (hP : Stable P) (g : Nat) (h : P s) : P (leaveQueue g s) := by
  unfold leaveQueue; exact hP.work _ _ rfl (fun x => x) (hP.keeps_modSeg g _ h)

theorem keeps_markLost (hP : Stable P) (k : Key) (seq : Nat) (loc : Loc) (h : P s) : P (markLost k seq loc s) := by
  unfold markLost; split
  · split
    · exact hP.notice _ _ (hP.keeps_changeEntry _ _ h)
    · exact h
  · exact h

/-! ## Modes -/

theorem keeps_withdrawOf (hP : Stable P) (cls : ClaimClass) (o : Originator) (h : P s) : P (withdrawOf cls o s) :=
  hP.keeps_withdraw _ _ h

theorem keeps_withdrawEngineWork (hP : Stable P) (h : P s) : P (withdrawEngineWork s) := hP.keeps_withdraw _ _ h

theorem keeps_withdrawPatrol (hP : Stable P) (h : P s) : P (withdrawPatrol s) := hP.keeps_withdraw _ _ h

theorem keeps_abandonEvacuation (hP : Stable P) (h : P s) : P (abandonEvacuation s) := by
  unfold abandonEvacuation; split
  · exact h
  · split
    · exact hP.keeps_modStream _ _
        (hP.work _ _ rfl (fun x => x) (hP.keeps_withdrawOf _ _ (hP.keeps_fillSegment _ h)))
    · exact h

theorem keeps_dropHostWaiting (hP : Stable P) (h : P s) : P (dropHostWaiting s) := by
  unfold dropHostWaiting; split
  · exact hP.keeps_answer _ _ _ (hP.keeps_modStream _ _ h)
  · exact h

theorem keeps_answerHeld (hP : Stable P) (st : Status) (h : P s) : P (answerHeld st s) := by
  unfold answerHeld; split
  · exact h
  · exact hP.keeps_answer _ _ _ h

theorem keeps_answerCompacts (hP : Stable P) (st : Status) (h : P s) : P (answerCompacts st s) :=
  hP.work _ _ rfl (fun x => x) (hP.keeps_answerAll _ _ _ h)

theorem keeps_readOnlyEffects (hP : Stable P) (h : P s) : P (readOnlyEffects s) :=
  hP.keeps_withdrawPatrol (hP.keeps_answerCompacts _ (hP.keeps_answerHeld _ (hP.keeps_commitCause _
    (hP.keeps_abandonEvacuation (hP.keeps_dropHostWaiting h)))))

theorem keeps_reportCause (hP : Stable P) (c : Cause) (h : P s) : P (reportCause c s) := by
  unfold reportCause; split
  · exact hP.keeps_readOnlyEffects (hP.notice _ _ (hP.readOnly _ _ ‹_› h))
  · split
    · exact hP.pendingCause _ _ (Or.inl ‹_›) h
    · exact h
  · split
    · exact hP.pendingCause _ _ (Or.inr ‹_›) h
    · exact h
  · exact h

/-- A FORMAT that ends in a failure leaves READ_ONLY, with no FORMAT in progress. -/
theorem keeps_endFormatFailed (hP : Stable P) (c : Cause) (h : P s) : P (endFormatFailed c s) := by
  unfold endFormatFailed; split
  · exact h
  · rename_i f hf
    refine hP.keeps_readOnlyEffects (hP.notice _ _ ?_)
    have e : (answerOpt f.slot .mediaFault .none s).startup = s.startup := by
      unfold answerOpt; split <;> rfl
    exact hP.formatFails (answerOpt f.slot .mediaFault .none s) c (by rw [e, hf]; rfl)
      (hP.keeps_answerOpt f.slot .mediaFault .none h)

theorem keeps_reportEnding (hP : Stable P) (c : Cause) (h : P s) : P (reportEnding c s) := by
  unfold reportEnding; split
  · exact hP.keeps_endFormatFailed _ h
  · exact hP.keeps_reportCause _ h

end Stable

end Sys2Proof.Machine
end

