-- ==== Sys2Proof/Laws/KeepsWork.lean ====
section
/-! SUPPORT. Laws/KeepsWork.lean: a stable property is kept by the operations of the Write Path, the Catalogue Writer, the
Compaction Engine and Health (Machine/WritePath.lean to Machine/HealthUnit.lean). -/

namespace Sys2Proof.Machine

/-! ## Write Path: placing HOST entries (level `Placing`) -/

namespace Stable

variable {P : State → Prop} {s : State}

theorem keeps_endBuffer (hP : Stable P) (id : StreamId) (w : WaitingEntry) (h : P s) : P (endBuffer id w s) :=
  hP.keeps_commitCause _ (hP.keeps_modStream _ _ h)

theorem keeps_pushEntry (hP : Stable P) (id : StreamId) (e : Entry) (h : P s) : P (pushEntry id e s) := by
  unfold pushEntry; dsimp only; split
  · exact hP.keeps_modStream _ _ h
  · exact hP.keeps_modSeg _ _ (hP.keeps_modStream _ _ h)

/-- The room found is the state itself or one with a segment opened for the stream. -/
theorem keeps_roomFor (hP : Stable P) {id : StreamId} {n : Nat} {t : State} (ht : roomFor id n s = .ready t) (h : P s) :
    P t := by
  unfold roomFor at ht; dsimp only at ht
  split at ht
  · split at ht
    · cases ht
    · cases ht; exact h
  · split at ht
    · cases ht
    · rename_i u hu
      cases ht; exact hP.keeps_openSegment hu h

theorem keeps_startTimer (hP : Stable P) (b : Bool) (h : P s) : P (startTimer b s) := by
  unfold startTimer; split
  · exact hP.work _ _ rfl (fun x => x) h
  · exact h

theorem keeps_hostPlacementCauses (hP : Stable P) (b : Bool) (h : P s) : P (hostPlacementCauses b s) := by
  unfold hostPlacementCauses; split
  · exact hP.keeps_commitCause _ h
  · exact h

theorem keeps_afterPlacement (hP : Stable P) (n : Nat) (loc : Loc) (q : Nat) (h : P s) : P (afterPlacement n loc q s) := by
  unfold afterPlacement; split
  · exact h
  · split
    · exact hP.work _ _ rfl (fun x => x) (hP.keeps_modSlot n (fun _ _ => rfl) h)
    · exact hP.keeps_answer _ _ _ h

theorem keeps_holdRequest (hP : Stable P) (n : Nat) (h : P s) : P (holdRequest n s) := by
  unfold holdRequest; split
  · exact hP.keeps_answer _ _ _ h
  · exact hP.keeps_modSlot n (fun _ _ => rfl) h

theorem keeps_relocateEntry (hP : Stable P) (e : Entry) (src dst : Loc) (h : P s) : P (relocateEntry e src dst s) := by
  unfold relocateEntry; split
  · split
    · exact hP.keeps_changeEntry _ _ h
    · exact h
  · exact h

theorem keeps_placeCopy (hP : Stable P) (e : Entry) (src : Loc) (h : P s) : P (placeCopy e src s) := by
  have h1 := hP.keeps_relocateEntry e src (placeLoc .relocate s) (hP.keeps_pushEntry .relocate e h)
  unfold placeCopy; dsimp only; split
  · exact hP.keeps_commitCause _ h1
  · exact h1

end Stable

namespace Placing

variable {P : State → Prop} {s : State}

theorem keeps_advanceSeq (hP : Placing P) (h : P s) : P (advanceSeq s) := by
  unfold advanceSeq; split
  · exact hP.sequence s _ s.freeDraws h
  · exact hP.sequence s _ _ h

theorem keeps_placeHost (hP : Placing P) (k : Key) (v : Option (List Byte)) (h : P s) : P (placeHost k v s) :=
  hP.keeps_advanceSeq (hP.keeps_changeEntry _ _ (hP.keeps_pushEntry _ _ h))

theorem keeps_placeFor (hP : Placing P) (n : Nat) (k : Key) (v : Option (List Byte)) (h : P s) : P (placeFor n k v s) :=
  hP.keeps_hostPlacementCauses _ (hP.keeps_startTimer _ (hP.keeps_afterPlacement _ _ _ (hP.keeps_placeHost _ _ h)))

theorem keeps_storeFor (hP : Placing P) (n : Nat) (k : Key) (v : Option (List Byte)) (h : P s) : P (storeFor n k v s) := by
  unfold storeFor; split
  · exact hP.keeps_placeFor _ _ _ (hP.keeps_roomFor ‹_› h)
  · exact hP.keeps_endBuffer _ _ h
  · exact hP.keeps_holdRequest _ h

end Placing

/-! ## Write Path: the end of a program -/

namespace Stable

variable {P : State → Prop} {s : State}

theorem keeps_programPage (hP : Stable P) (g p : Nat) (h : P s) : P (programPage g p s) :=
  hP.index s _ Store.canonical_mapVals h

theorem keeps_answerDurable (hP : Stable P) (n : Nat) (h : P s) : P (answerDurable n s) := by
  unfold answerDurable; split
  · exact hP.keeps_answer _ _ _ h
  · exact h

theorem keeps_retargetEntries (hP : Stable P) (g p g' p' : Nat) (h : P s) : P (retargetEntries g p g' p' s) := by
  refine foldl_keeps (fun t e ht => ?_) _ h
  split
  · exact hP.keeps_changeEntry _ _ ht
  · exact ht

theorem keeps_retargetSlots (hP : Stable P) (g p g' p' : Nat) (h : P s) : P (retargetSlots g p g' p' s) := by
  refine hP.slots s _ (ids_mapVals (fun _ sl => ?_) _) h
  dsimp only
  split
  · split <;> rfl
  · rfl

theorem keeps_retargetPage (hP : Stable P) (g p g' p' : Nat) (h : P s) : P (retargetPage g p g' p' s) :=
  hP.keeps_retargetSlots _ _ _ _ (hP.keeps_retargetEntries _ _ _ _ h)

theorem keeps_retargetBuffer (hP : Stable P) (d : Option (Nat × Nat)) (g : Nat) (h : P s) : P (retargetBuffer d g s) := by
  unfold retargetBuffer; split
  · exact h
  · exact hP.keeps_retargetPage _ _ _ _ h

theorem keeps_takeSeqs (hP : Stable P) (g : Nat) (l : List Nat) (h : P s) : P (takeSeqs g l s) := by
  refine foldl_keeps (fun t q ht => ?_) l h
  exact hP.keeps_modSeg g _ ht

theorem keeps_retarget (hP : Stable P) (id : StreamId) (f : InFlight) (d : Option (Nat × Nat)) (g : Nat) (h : P s) :
    P (retarget id f d g s) :=
  hP.keeps_claimProgram _ _ (hP.keeps_modStream _ _ (hP.keeps_modSeg _ _ (hP.keeps_takeSeqs _ _
    (hP.keeps_retargetPage _ _ _ _ (hP.keeps_retargetBuffer _ _ h)))))

theorem keeps_faultPage (hP : Stable P) (d : Option (Nat × Nat)) (h : P s) : P (faultPage d s) := by
  unfold faultPage; split
  · exact h
  · exact hP.keeps_answerAll _ _ _ h

theorem keeps_failSegment (hP : Stable P) (id : StreamId) (g : Nat) (h : P s) : P (failSegment id g s) := by
  unfold failSegment; split
  · exact hP.keeps_refreshArrival _ _ (hP.keeps_closeOpen _ h)
  · exact hP.keeps_refreshArrival _ _ h

end Stable

namespace Placing

variable {P : State → Prop} {s : State}

theorem keeps_answerSyncs (hP : Placing P) (h : P s) : P (answerSyncs s) :=
  hP.keeps_answerAll _ _ _ (hP.marks _ _ h)

theorem keeps_answerProgrammed (hP : Placing P) (id : StreamId) (g p : Nat) (h : P s) : P (answerProgrammed id g p s) := by
  cases id
  · exact hP.keeps_answerSyncs (foldl_keeps (fun _ n => hP.keeps_answerDurable n) _ h)
  · exact h

theorem keeps_pageProgrammed (hP : Placing P) (id : StreamId) (h : P s) : P (pageProgrammed id s) := by
  unfold pageProgrammed; split
  · exact h
  · have h1 := hP.keeps_answerProgrammed id ‹InFlight›.seg ‹InFlight›.page
      (hP.keeps_modStream id (fun st => { st with inFlight := none })
        (hP.keeps_programPage ‹InFlight›.seg ‹InFlight›.page h))
    dsimp only; split
    · exact hP.keeps_commitCause _ h1
    · exact h1

theorem keeps_faultSyncs (hP : Placing P) (h : P s) : P (faultSyncs s) := by
  unfold faultSyncs; split
  · exact h
  · exact hP.keeps_answerAll _ _ _ (hP.marks _ _ h)

theorem keeps_strandAnswers (hP : Placing P) (id : StreamId) (f : InFlight) (d : Option (Nat × Nat)) (h : P s) :
    P (strandAnswers id f d s) := by
  cases id
  · exact hP.keeps_dropHostWaiting (hP.keeps_faultSyncs (hP.keeps_faultPage _ (hP.keeps_faultPage _
      (hP.work _ _ rfl (fun x => x) h))))
  · exact h

theorem keeps_strand (hP : Placing P) (id : StreamId) (f : InFlight) (d : Option (Nat × Nat)) (h : P s) :
    P (strand id f d s) :=
  hP.keeps_reportEnding _ (hP.keeps_strandAnswers _ _ _ (hP.keeps_modStream _ _ h))

theorem keeps_pageFailed (hP : Placing P) (id : StreamId) (h : P s) : P (pageFailed id s) := by
  unfold pageFailed; split
  · exact h
  · rename_i f hf
    have h1 := hP.keeps_failSegment id f.seg h
    dsimp only; split
    · exact hP.keeps_retarget _ _ _ _ h1
    · split
      · rename_i u hu
        have h2 := hP.keeps_openSegment hu h1
        split
        · exact hP.keeps_retarget _ _ _ _ h2
        · exact h2
      · exact hP.keeps_strand _ _ _ h1

end Placing

/-! ## Catalogue Writer -/

namespace Stable

variable {P : State → Prop} {s : State}

theorem keeps_addWaiter (hP : Stable P) (w : WaiterWho) (h : P s) : P (addWaiter w s) := hP.keeps_modCat _ h

theorem keeps_reportCondemned (hP : Stable P) (g : Nat) (h : P s) : P (reportCondemned g s) := by
  unfold reportCondemned; split
  · exact h
  · split
    · split
      · exact h
      · exact hP.keeps_addWaiter _ h
    · exact hP.keeps_reportCause _ h

theorem keeps_catalogueFails (hP : Stable P) (h : P s) : P (catalogueFails s) := by
  refine hP.keeps_reportEnding _ (hP.keeps_modCat _ (foldl_keeps (fun t w ht => ?_) _ h))
  unfold faultWaiter; split
  · split
    · exact ht
    · exact hP.keeps_answer _ _ _ ht
  · exact ht

theorem keeps_claimSnapshot (hP : Stable P) (n : Snapshot) (p : Nat) (h : P s) : P (claimSnapshot n p s) :=
  hP.keeps_makeClaim _ _ _ (hP.keeps_modCat _ h)

theorem keeps_writeSnapshot (hP : Stable P) (n : Snapshot) (h : P s) : P (writeSnapshot n s) := by
  unfold writeSnapshot; split
  · exact hP.keeps_claimSnapshot _ _ h
  · exact hP.keeps_makeClaim _ _ _ (hP.keeps_modCat _ h)

theorem keeps_beginSnapshot (hP : Stable P) (b : Bool) (h : P s) : P (beginSnapshot b s) := by
  unfold beginSnapshot; split
  · exact hP.keeps_catalogueFails h
  · exact hP.keeps_writeSnapshot _ (hP.keeps_modCat _ h)

theorem keeps_snapshotTest (hP : Stable P) (h : P s) : P (snapshotTest s) := by
  unfold snapshotTest; split
  · exact hP.keeps_beginSnapshot _ h
  · exact h

theorem keeps_retireSegment (hP : Stable P) (g : Nat) (h : P s) : P (retireSegment g s) :=
  hP.notice _ _ (hP.keeps_modSeg _ _ h)

theorem keeps_releaseWaiter (hP : Stable P) (gen : Nat) (w : Waiter) (h : P s) : P (releaseWaiter gen s w) := by
  unfold releaseWaiter; split
  · exact hP.keeps_retireSegment _ h
  · split
    · exact h
    · split
      · exact hP.keeps_answer _ _ _ h
      · exact hP.keeps_answer _ _ _ h

theorem keeps_countFailure (hP : Stable P) {next : State → State} (hn : ∀ t, P t → P (next t)) (h : P s) :
    P (countFailure next s) := by
  have h1 := hP.keeps_modCat (fun c => { c with failures := c.failures + 1 }) h
  unfold countFailure; dsimp only; split
  · exact hP.keeps_catalogueFails h1
  · exact hn _ h1

theorem keeps_mirrorErased (hP : Stable P) (n : Snapshot) (h : P s) : P (mirrorErased n s) :=
  hP.keeps_makeClaim _ _ _ (hP.keeps_modCat _ h)

theorem keeps_writerErased (hP : Stable P) (ok : Bool) (h : P s) : P (writerErased ok s) := by
  unfold writerErased; split
  · exact h
  · split
    · exact hP.keeps_mirrorErased _ h
    · exact hP.keeps_catalogueFails h

/-! ## Compaction Engine -/

theorem keeps_endRun (hP : Stable P) (h : P s) : P (endRun s) := hP.keeps_modComp _ h

theorem keeps_answerReached (hP : Stable P) (h : P s) : P (answerReached s) :=
  hP.keeps_answerAll _ _ _ (hP.keeps_modComp _ h)

theorem keeps_freeCountRises (hP : Stable P) (h : P s) : P (freeCountRises s) :=
  hP.keeps_answerReached (hP.work _ _ rfl (fun x => x) h)

theorem keeps_wearSpreadCheck (hP : Stable P) (h : P s) : P (wearSpreadCheck s) := by
  unfold wearSpreadCheck; split
  · exact h
  · split
    · exact h
    · split
      · exact hP.keeps_refreshArrival _ _ h
      · exact h

theorem keeps_segmentFreed (hP : Stable P) (g : Nat) (h : P s) : P (segmentFreed g s) :=
  hP.keeps_wearSpreadCheck (hP.keeps_modComp _ (hP.keeps_freeCountRises (hP.keeps_modSeg _ _ h)))

theorem keeps_beginEvacuation (hP : Stable P) (g : Nat) (h : P s) : P (beginEvacuation g s) := by
  unfold beginEvacuation; split
  · exact hP.keeps_withdraw _ _ (hP.keeps_modComp _ (hP.keeps_modSeg _ _ h))
  · exact hP.keeps_reportCause _ (hP.keeps_endRun h)

theorem keeps_heldMediaFull (hP : Stable P) (h : P s) : P (heldMediaFull s) := by
  unfold heldMediaFull; split
  · exact h
  · exact hP.keeps_answerHeld _ h

theorem keeps_endNoGain (hP : Stable P) (h : P s) : P (endNoGain s) :=
  hP.keeps_modComp _ (hP.keeps_answerCompacts _ (hP.keeps_heldMediaFull (hP.keeps_endRun h)))

theorem keeps_runDecision (hP : Stable P) (h : P s) : P (runDecision s) := by
  unfold runDecision; split
  · exact hP.keeps_endRun h
  · split
    · exact hP.keeps_beginEvacuation _ h
    · split
      · exact hP.keeps_endRun h
      · split
        · exact hP.keeps_beginEvacuation _ h
        · exact hP.keeps_endNoGain h

theorem keeps_startTest (hP : Stable P) (h : P s) : P (startTest s) := by
  unfold startTest; split
  · exact hP.keeps_runDecision h
  · exact h

end Stable

/-- The state a handled entry leaves. -/
def Handled.state : Handled → State
  | .done t => t
  | .waits t => t
  | .stopped t => t

namespace Stable

variable {P : State → Prop} {s : State}

theorem keeps_handCopy (hP : Stable P) (e : Entry) (src : Loc) (h : P s) : P (handCopy e src s).state := by
  unfold handCopy; split
  · exact hP.keeps_placeCopy _ _ (hP.keeps_roomFor ‹_› h)
  · exact hP.keeps_endBuffer _ _ h
  · exact hP.keeps_reportCause _ (hP.keeps_abandonEvacuation h)

theorem keeps_dropTombstone (hP : Stable P) (k : Key) (q : Nat) (loc : Loc) (h : P s) : P (dropTombstone k q loc s) := by
  unfold dropTombstone; split
  · split
    · exact hP.keeps_changeEntry _ _ h
    · exact h
  · exact h

theorem keeps_handTombstone (hP : Stable P) (k : Key) (q : Nat) (loc : Loc) (h : P s) :
    P (handTombstone k q loc s).state := by
  unfold handTombstone; split
  · exact hP.keeps_dropTombstone _ _ _ h
  · exact hP.keeps_handCopy _ _ h

theorem keeps_handleItem (hP : Stable P) (i : CopyItem) (h : P s) : P (handleItem i s).state := by
  unfold handleItem; split
  · split
    · split
      · exact hP.keeps_handCopy _ _ h
      · exact hP.keeps_handTombstone _ _ _ h
      · exact h
    · exact h
  · split
    · exact hP.keeps_handTombstone _ _ _ h
    · exact h
  · split
    · split
      · exact hP.keeps_handTombstone _ _ _ h
      · exact h
    · split
      · exact hP.keeps_markLost _ _ _ h
      · exact h
    · exact h

theorem keeps_pageHandled (hP : Stable P) (h : P s) : P (pageHandled s) := by
  unfold pageHandled; split
  · exact h
  · split
    · exact hP.keeps_commitCause _ (hP.keeps_modVictim _ h)
    · exact hP.keeps_modVictim _ h

theorem keeps_copyLoop (hP : Stable P) (l : List CopyItem) (h : P s) : P (copyLoop l s) := by
  induction l generalizing s with
  | nil => exact hP.keeps_pageHandled h
  | cons i l ih =>
    have h1 := hP.keeps_handleItem i h
    unfold copyLoop; split <;> rename_i t ht <;> rw [ht] at h1
    · exact ih h1
    · exact hP.keeps_modVictim _ h1
    · exact h1

theorem keeps_beginSweep (hP : Stable P) (g : Nat) (h : P s) : P (beginSweep g s) :=
  hP.keeps_copyLoop _ (hP.keeps_modVictim _ h)

theorem keeps_engineRead (hP : Stable P) (g p : Nat) (o : ReadOutcome) (h : P s) : P (engineRead g p o s) := by
  unfold engineRead; split
  · exact h
  · split
    · exact h
    · split
      · exact hP.keeps_modVictim _ h
      · refine hP.keeps_copyLoop _ (hP.keeps_modVictim _ ?_)
        split
        · exact hP.keeps_refreshArrival _ _ h
        · exact h

theorem keeps_readingTest (hP : Stable P) (v : Victim) (h : P s) : P (readingTest v s) := by
  unfold readingTest; split
  · exact hP.keeps_beginSweep _ (hP.keeps_withdrawOf _ _ h)
  · split
    · exact h
    · exact hP.keeps_makeClaim _ _ _ h

theorem keeps_erasingTest (hP : Stable P) (v : Victim) (h : P s) : P (erasingTest v s) := by
  unfold erasingTest; split
  · exact h
  · exact hP.keeps_makeClaim _ _ _ h

theorem keeps_engineTest (hP : Stable P) (h : P s) : P (engineTest s) := by
  unfold engineTest; split
  · exact h
  · split
    · exact hP.keeps_readingTest _ h
    · exact hP.keeps_erasingTest _ h
    · exact h

theorem keeps_condemn (hP : Stable P) (g : Nat) (c : CondemnCause) (h : P s) : P (condemn g c s) :=
  hP.keeps_reportCondemned _ (hP.keeps_modSeg _ _ h)

theorem keeps_decideFate (hP : Stable P) (v : Victim) (h : P s) : P (decideFate v s) := by
  unfold decideFate; split
  · exact h
  · rename_i r hr
    have h1 := hP.keeps_modSeg v.seg (fun r' => { r' with strikes := strikesAfter r.reason r.strikes })
      (hP.keeps_leaveQueue v.seg h)
    dsimp only; split
    · exact hP.keeps_modVictim _ (hP.keeps_modSeg _ _ h1)
    · exact hP.keeps_runDecision (hP.keeps_condemn _ _ (hP.keeps_modComp _ h1))

theorem keeps_engineErasedOk (hP : Stable P) (v : Victim) (h : P s) : P (engineErasedOk v s) := by
  have h1 := hP.keeps_modSeg v.seg (fun r => { r with eraseCount := erasedCount r.eraseCount }) h
  unfold engineErasedOk; dsimp only; split
  · exact h1
  · exact hP.keeps_makeClaim _ _ _ (hP.keeps_modVictim _ h1)

theorem keeps_engineEraseFault (hP : Stable P) (v : Victim) (h : P s) : P (engineEraseFault v s) :=
  hP.keeps_runDecision (hP.keeps_condemn _ _ (hP.keeps_modComp _ h))

theorem keeps_engineErased (hP : Stable P) (ok : Bool) (h : P s) : P (engineErased ok s) := by
  unfold engineErased; split
  · exact h
  · split
    · exact hP.keeps_engineErasedOk _ h
    · exact hP.keeps_engineEraseFault _ h

theorem keeps_engineHeader (hP : Stable P) (ok : Bool) (h : P s) : P (engineHeader ok s) := by
  unfold engineHeader; split
  · exact h
  · split
    · exact hP.keeps_runDecision (hP.keeps_segmentFreed _ (hP.keeps_modComp _ h))
    · exact hP.keeps_engineEraseFault _ h

/-! ## Health -/

theorem keeps_markUnreadable (hP : Stable P) (o : ReadOutcome) (js : List Judged) (h : P s) : P (markUnreadable o js s) := by
  unfold markUnreadable
  refine foldl_keeps (fun t j ht => ?_) _ h
  exact hP.keeps_markLost _ _ _ ht

theorem keeps_raiseWorst (hP : Stable P) (g : Nat) (o : ReadOutcome) (h : P s) : P (raiseWorst g o s) := by
  unfold raiseWorst; split
  · exact h
  · exact hP.keeps_modSeg _ _ h

theorem keeps_arriveOpt (hP : Stable P) (g : Nat) (r : Option RefreshReason) (h : P s) : P (arriveOpt g r s) := by
  unfold arriveOpt; split
  · exact h
  · exact hP.keeps_refreshArrival _ _ h

theorem keeps_healthFull (hP : Stable P) (run : ReadRun) (o : ReadOutcome) (h : P s) : P (healthFull run o s) :=
  hP.keeps_arriveOpt _ _ (hP.keeps_markUnreadable _ _ (hP.keeps_raiseWorst _ _ h))

theorem keeps_healthHandles (hP : Stable P) (run : ReadRun) (o : ReadOutcome) (h : P s) : P (healthHandles run o s) := by
  unfold healthHandles; split
  · exact h
  · split
    · exact hP.keeps_healthFull _ _ h
    · exact hP.keeps_healthFull _ _ h
    · exact hP.keeps_raiseWorst _ _ h

theorem keeps_thresholdLowered (hP : Stable P) (n : Nat) (h : P s) : P (thresholdLowered n s) := by
  unfold thresholdLowered
  refine foldl_keeps (fun t p ht => ?_) _ h
  exact hP.keeps_refreshArrival _ _ ht

/-! ## The tests at the end of a change -/

theorem keeps_startOp (hP : Stable P) (op : Option ArrayOp) (h : P s) : P (startOp op s) :=
  hP.work s _ rfl (fun x => x) h

theorem keeps_takePlace (hP : Stable P) (ended : Bool) (cls : ClaimClass) (h : P s) : P (takePlace ended cls s) :=
  hP.work s _ rfl (fun _ => by
    dsimp only [takePlace]; split
    · exact ArrayCtl.guardAfter_le _ _
    · exact Nat.zero_le _) h

theorem keeps_answerGet (hP : Stable P) (st : Status) (d : ReplyData) (h : P s) : P (answerGet st d s) := by
  unfold answerGet; split
  · exact hP.work _ _ rfl (fun x => x) h
  · exact hP.keeps_answerOpt _ _ _ h

theorem keeps_withdrawGet (hP : Stable P) (st : Status) (d : ReplyData) (h : P s) : P (withdrawGet st d s) := by
  refine hP.keeps_answerGet _ _ (hP.work s _ rfl (fun x => ?_) h)
  show (s.arr.leave .host).guardCount ≤ 4
  rw [ArrayCtl.leave_guardCount]; exact x

theorem keeps_arbitrate (hP : Stable P) (ended : Bool) (n : Nat) (h : P s) : P (arbitrate ended n s) := by
  induction n generalizing s with
  | zero => exact h
  | succ n ih =>
    unfold arbitrate; split
    · split
      · exact h
      · split
        · exact h
        · split
          · split
            · exact ih (hP.keeps_withdrawGet _ _ h)
            · exact hP.keeps_startOp _ (hP.keeps_takePlace _ _ h)
          · exact hP.keeps_startOp _ (hP.keeps_takePlace _ _ h)
    · exact h

theorem keeps_suspendNext (hP : Stable P) (n : Nat) (h : P s) : P (suspendNext n s) := by
  induction n generalizing s with
  | zero => exact h
  | succ n ih =>
    unfold suspendNext; split
    · rename_i e he hs
      have hr : P (resumeErase e s) := hP.work s _ rfl (fun x => x) h
      split
      · exact hr
      · split
        · split
          · have h1 : P { s with arr := { s.arr with suspended := some { e with suspensions := e.suspensions + 1 } } } :=
              hP.work s _ rfl (fun x => x) h
            dsimp only; split
            · exact ih (hP.keeps_withdrawGet _ _ h1)
            · refine hP.keeps_startOp _ (hP.work s _ rfl (fun x => ?_) h)
              dsimp only; rw [ArrayCtl.leave_guardCount]; exact x
          · exact hr
        · exact hr
    · exact h

theorem keeps_pressureTest (hP : Stable P) (h : P s) : P (pressureTest s) := by
  unfold pressureTest; split
  · exact hP.keeps_commitCause _ h
  · exact h

/-- One round of the tests at the end of a change. -/
theorem keeps_settleRound (hP : Stable P) (ended : Bool) (h : P s) : P (settleRound ended s) :=
  hP.keeps_arbitrate _ _ (hP.keeps_pressureTest (hP.keeps_engineTest (hP.keeps_startTest (hP.keeps_snapshotTest h))))

end Stable

end Sys2Proof.Machine
end

