-- ==== Sys2Proof/Laws/KeepsBuild.lean ====
section
/-! SUPPORT. Laws/KeepsBuild.lean: a property kept by the basic changes of `Building` is kept by the work of mount and of
FORMAT (Machine/MountUnit.lean, Machine/FormatUnit.lean). -/

namespace Sys2Proof.Machine

theorem canonical_numbered {α : Type} (l : List α) : Store.Canonical (numbered l) := by
  unfold Store.Canonical numbered
  rw [List.map_fst_zip (by simp)]
  exact List.pairwise_lt_range

theorem canonical_takeCandidate {w : List (Nat × Candidate)} (c : Candidate) (h : Store.Canonical w) :
    Store.Canonical (takeCandidate w c) := by
  unfold takeCandidate; split
  · exact Store.canonical_put h
  · split
    · exact Store.canonical_put h
    · exact h

theorem canonical_winners (cs : List Candidate) : Store.Canonical (winners cs) := by
  have key : ∀ (cs : List Candidate) (w : List (Nat × Candidate)), Store.Canonical w →
      Store.Canonical (cs.foldl takeCandidate w) := by
    intro cs
    induction cs with
    | nil => intro w h; exact h
    | cons c cs ih => intro w h; exact ih _ (canonical_takeCandidate c h)
  exact key cs [] List.Pairwise.nil

theorem canonical_putAll (r : SegRec) (gs : List Nat) {l : List (Nat × SegRec)} (h : Store.Canonical l) :
    Store.Canonical (gs.foldl (fun t g => Store.put g r t) l) := by
  induction gs generalizing l with
  | nil => exact h
  | cons g gs ih => exact ih (Store.canonical_put h)

namespace Building

variable {P : State → Prop} {s : State}

/-- A change of the mount progress that keeps the marks in order. -/
theorem keeps_modMount (hP : Building P) {f : Mount → Mount}
    (hf : ∀ m, Store.Canonical m.marks → Store.Canonical (f m).marks) (h : P s) : P (modMount f s) := by
  refine hP.startup s _ (fun x => ?_) h
  unfold marksCanonical at x ⊢
  cases hm : s.startup.mount with
  | none => simp
  | some m => simp only [hm, Option.map_some] at x ⊢; exact hf m x

theorem keeps_modFormat (hP : Building P) (f : Format → Format) (h : P s) : P (modFormat f s) :=
  hP.startup s _ (fun x => x) h

theorem keeps_startupRead (hP : Building P) (g p : Nat) (h : P s) : P (startupRead g p s) := hP.keeps_makeClaim _ _ _ h

theorem keeps_mountBegins (hP : Building P) (h : P s) : P (mountBegins s) :=
  hP.keeps_startupRead _ _ (hP.startup s _ (fun _ => List.Pairwise.nil) h)

theorem keeps_takeMirrorPage (hP : Building P) (g p : Nat) (o : ReadOutcome) (h : P s) : P (takeMirrorPage g p o s) := by
  refine hP.keeps_modMount (fun m hm => ?_) h
  split <;> exact hm

theorem keeps_mountUnformatted (hP : Building P) (m : Mount) (h : P s) : P (mountUnformatted m s) :=
  hP.notice _ _ (hP.startup { s with cat := writerUnformatted m }
    { s.startup with mode := .unformatted, mount := none } (fun _ => trivial)
    (hP.work s { s with cat := writerUnformatted m } rfl (fun x => x) h))

theorem keeps_setNextSeq (hP : Building P) (q : Nat) (h : P s) : P (setNextSeq q s) := by
  unfold setNextSeq; split
  · exact hP.sequence s _ s.freeDraws h
  · unfold seqAfter; split
    · exact hP.sequence s _ s.freeDraws h
    · exact hP.sequence s _ _ h

theorem keeps_raiseQuotas (hP : Building P) (h : P s) : P (raiseQuotas s) :=
  hP.work { s with spaces := Store.mapVals (fun _ r => raiseQuota r) s.spaces } _ rfl (fun x => x)
    (hP.spaces s _ Store.canonical_mapVals h)

theorem keeps_setCounters (hP : Building P) (m : Mount) (h : P s) : P (setCounters m s) := by
  unfold setCounters
  exact hP.keeps_raiseQuotas (hP.work (setNextSeq m.highestSeq s) _ rfl (fun x => x) (hP.keeps_setNextSeq m.highestSeq h))

theorem keeps_settleLowFree (hP : Building P) (h : P s) : P (settleLowFree s) := by
  unfold settleLowFree; split
  · split
    · exact h
    · exact hP.notice _ _ (hP.work s _ rfl (fun x => x) h)
  · exact hP.work s _ rfl (fun x => x) h

theorem keeps_mountEnds (hP : Building P) (h : P s) : P (mountEnds s) := by
  unfold mountEnds; dsimp only; split
  · exact hP.startup s { s.startup with mount := none, pendingCause := none, mode := .ready } (fun _ => trivial) h
  · exact hP.keeps_readOnlyEffects (hP.notice _ _
      (hP.startup s { s.startup with mount := none, pendingCause := none, mode := .readOnly, cause := some ‹Cause› }
        (fun _ => trivial) h))

theorem keeps_mountFinish (hP : Building P) (m : Mount) (h : P s) : P (mountFinish m s) :=
  hP.keeps_wearSpreadCheck (hP.keeps_settleLowFree (hP.keeps_mountEnds (hP.notice _ _ (hP.keeps_setCounters m h))))

theorem keeps_eraseNext (hP : Building P) (h : P s) : P (eraseNext s) := by
  unfold eraseNext; split
  · exact h
  · split
    · exact hP.keeps_mountFinish _ h
    · exact hP.keeps_makeClaim _ _ _ (hP.segs s _ Store.canonical_put h)

theorem keeps_eraseTaken (hP : Building P) (h : P s) : P (eraseTaken s) :=
  hP.keeps_eraseNext (hP.keeps_modMount (fun _ x => x) h)

theorem keeps_mountEraseFault (hP : Building P) (e : EraseMark) (h : P s) : P (mountEraseFault e s) :=
  hP.keeps_eraseTaken (hP.keeps_reportCondemned _ (hP.segs s _ Store.canonical_put h))

theorem keeps_mountErased (hP : Building P) (ok : Bool) (m : Mount) (h : P s) : P (mountErased ok m s) := by
  unfold mountErased; split
  · exact h
  · split
    · exact hP.keeps_makeClaim _ _ _ h
    · exact hP.keeps_mountEraseFault _ h

theorem keeps_mountHeader (hP : Building P) (ok : Bool) (m : Mount) (h : P s) : P (mountHeader ok m s) := by
  unfold mountHeader; split
  · exact h
  · split
    · exact hP.keeps_eraseTaken (hP.segs s _ Store.canonical_put h)
    · exact hP.keeps_mountEraseFault _ h

theorem keeps_buildIndex (hP : Building P) (m : Mount) (h : P s) : P (buildIndex m s) := by
  have key : ∀ (w : List (Nat × Candidate)), Store.Canonical w → ∀ f, P { s with
      index := Store.mapVals (fun _ c => Candidate.entry c) w, spaces := Store.mapVals f s.spaces } := fun w hw f =>
    hP.spaces { s with index := Store.mapVals (fun _ c => Candidate.entry c) w } _ Store.canonical_mapVals
      (hP.index s _ (fun _ => Store.canonical_mapVals hw) h)
  unfold buildIndex; dsimp only; split
  · exact hP.keeps_reportCause _ (key _ (Store.canonical_take (canonical_winners _)) _)
  · exact key _ (Store.canonical_take (canonical_winners _)) _

theorem keeps_mountStates (hP : Building P) (hs : marksCanonical s) (h : P s) : P (mountStates s) := by
  unfold mountStates; split
  · exact h
  · rename_i m hm
    have hc : Store.Canonical m.marks := by unfold marksCanonical at hs; rw [hm] at hs; exact hs
    refine hP.keeps_eraseNext (hP.keeps_modMount (fun _ _ => List.Pairwise.nil) ?_)
    exact hP.work { buildIndex m s with segs := scanRecords m (buildIndex m s) } _ rfl (fun x => x)
      (hP.segs _ _ (fun _ =>
        canonical_putAll _ _ (Store.canonical_mapVals (Store.canonical_filter hc))) (hP.keeps_buildIndex m h))

end Building

/-- The scan keeps its marks in order. -/
theorem marksCanonical_modMount {f : Mount → Mount} {s : State}
    (hf : ∀ m, Store.Canonical m.marks → Store.Canonical (f m).marks) (h : marksCanonical s) :
    marksCanonical (modMount f s) := by
  unfold marksCanonical modMount at *
  cases hm : s.startup.mount with
  | none => simp
  | some m => simp only [hm, Option.map_some] at h ⊢; exact hf m h

theorem marks_takePage {g : Nat} {w : Written} {m : Mount} (h : Store.Canonical m.marks) :
    Store.Canonical (m.takePage g w).marks := Store.canonical_modify h

theorem marks_settleDamaged {th g : Nat} {m : Mount} (h : Store.Canonical m.marks) :
    Store.Canonical (settleDamaged th g m).marks := by
  unfold settleDamaged; split
  · exact h
  · exact Store.canonical_modify (Store.canonical_modify h)

theorem marks_settleTorn {m : Mount} (h : Store.Canonical m.marks) : Store.Canonical (settleTorn m).marks := by
  unfold settleTorn; split <;> exact h

theorem marks_judgePage {th g p : Nat} {w : Written} {m : Mount} (h : Store.Canonical m.marks) :
    Store.Canonical (m.judgePage th g p w).marks := by
  unfold Mount.judgePage; split
  · exact Store.canonical_modify h
  · exact h

namespace Building

variable {P : State → Prop} {s : State}

theorem keeps_scanFrom (hP : Building P) (g : Nat) (hs : marksCanonical s) (h : P s) : P (scanFrom g s) := by
  unfold scanFrom; split
  · exact hP.keeps_startupRead _ _ (hP.keeps_modMount (fun _ x => x) h)
  · exact hP.keeps_mountStates hs h

theorem keeps_scanHeader (hP : Building P) (g : Nat) (o : ReadOutcome) (hs : marksCanonical s) (h : P s) :
    P (scanHeader g o s) := by
  have hf : ∀ m : Mount, Store.Canonical m.marks → Store.Canonical
      ({ m with marks := Store.put g (headerMark s.cat.formatStamp o) m.marks
                highestErase := max m.highestErase (headerCount o) } : Mount).marks := fun _ x => Store.canonical_put x
  unfold scanHeader; dsimp only; split
  · exact hP.keeps_scanFrom _ (marksCanonical_modMount hf hs) (hP.keeps_modMount hf h)
  · exact hP.keeps_startupRead _ _ (hP.keeps_modMount (fun _ x => x) (hP.keeps_modMount hf h))

theorem keeps_scanPage (hP : Building P) (g p : Nat) (o : ReadOutcome) (hs : marksCanonical s) (h : P s) :
    P (scanPage g p o s) := by
  unfold scanPage; dsimp only; split
  · exact hP.keeps_scanFrom _ (marksCanonical_modMount (fun _ => marks_settleTorn) hs)
      (hP.keeps_modMount (fun _ => marks_settleTorn) h)
  · rename_i w
    have hf : ∀ m : Mount, Store.Canonical m.marks → Store.Canonical
        ((settleDamaged s.params.threshold g (m.takePage g w)).judgePage s.params.threshold g p w).marks :=
      fun _ x => marks_judgePage (marks_settleDamaged (marks_takePage x))
    split
    · exact hP.keeps_startupRead _ _ (hP.keeps_modMount (fun _ x => x) (hP.keeps_modMount hf h))
    · exact hP.keeps_scanFrom _ (marksCanonical_modMount (fun _ => marks_settleTorn) (marksCanonical_modMount hf hs))
        (hP.keeps_modMount (fun _ => marks_settleTorn) (hP.keeps_modMount hf h))

theorem keeps_catalogueRead (hP : Building P) (hs : marksCanonical s) (h : P s) : P (catalogueRead s) := by
  unfold catalogueRead; split
  · exact h
  · split
    · exact hP.keeps_mountUnformatted _ h
    · split
      · exact h
      · refine hP.keeps_scanFrom _ hs (hP.spaces { s with cat := writerFrom _ _ _ } _ (fun _ => canonical_numbered _)
          (hP.work s _ rfl (fun x => x) h))

theorem keeps_catalogueNext (hP : Building P) (g p : Nat) (o : ReadOutcome) (hs : marksCanonical s) (h : P s) :
    P (catalogueNext g p o s) := by
  unfold catalogueNext; split
  · exact hP.keeps_startupRead _ _ (hP.keeps_modMount (fun _ x => x) h)
  · split
    · exact hP.keeps_startupRead _ _ (hP.keeps_modMount (fun _ x => x) h)
    · exact hP.keeps_catalogueRead hs h

theorem keeps_mountRead (hP : Building P) (g p : Nat) (o : ReadOutcome) (m : Mount) (hs : marksCanonical s) (h : P s) :
    P (mountRead g p o m s) := by
  unfold mountRead; split
  · have hf : ∀ m : Mount, Store.Canonical m.marks → Store.Canonical (if g = 0 then
        { m with scanA := m.scanA.take s.params.threshold p o }
        else { m with scanB := m.scanB.take s.params.threshold p o }).marks := fun m x => by split <;> exact x
    exact hP.keeps_catalogueNext _ _ _ (marksCanonical_modMount hf hs) (hP.keeps_takeMirrorPage _ _ _ h)
  · split
    · exact hP.keeps_scanHeader _ _ hs h
    · exact hP.keeps_scanPage _ _ _ hs h
  · exact h

/-! ## FORMAT -/

theorem keeps_changeMode (hP : Building P) (m : Mode) (c : Option Cause) (h : P s) : P (changeMode m c s) :=
  hP.notice _ _ (hP.startup s _ (fun x => x) h)

theorem keeps_formatBegins (hP : Building P) (n : Nat) (h : P s) : P (formatBegins n s) :=
  hP.keeps_withdrawPatrol (hP.keeps_abandonEvacuation (hP.keeps_commitCause _ (hP.keeps_changeMode _ _
    (hP.startup s _ (fun x => x) h))))

theorem keeps_formatEmpties (hP : Building P) (h : P s) : P (formatEmpties s) := by
  have key : ∀ t, P t → P { t with
      index := [], segs := Store.mapVals (fun _ r => SegRec.emptied r) t.segs
      spaces := Store.mapVals (fun _ r => { r with usage := 0, keyCount := 0 }) t.spaces, nextSeq := some 1 } := fun t ht =>
    hP.sequence { t with
        index := [], segs := Store.mapVals (fun _ r => SegRec.emptied r) t.segs
        spaces := Store.mapVals (fun _ r => { r with usage := 0, keyCount := 0 }) t.spaces } _ t.freeDraws
      (hP.spaces { t with index := [], segs := Store.mapVals (fun _ r => SegRec.emptied r) t.segs } _
        Store.canonical_mapVals (hP.segs { t with index := [] } _ Store.canonical_mapVals
          (hP.index t _ (fun _ => List.Pairwise.nil) ht)))
  have h1 := key _ (hP.keeps_answerCompacts .noGain h)
  refine hP.work _ (formatEmpties s) ?_ ?_ h1
  · rfl
  · exact fun x => x

theorem keeps_addFormatSlot (hP : Building P) (n : Option Nat) (h : P s) : P (addFormatSlot n s) := by
  unfold addFormatSlot; split
  · exact h
  · exact hP.keeps_addWaiter _ (hP.keeps_modSlot _ (fun _ _ => rfl) h)

theorem keeps_formatSnapshot (hP : Building P) (f : Format) (h : P s) : P (formatSnapshot f s) := by
  have h1 : P ((formatRetires s.cat.retired.length f.pendingRetire).1.foldl (fun v g => addWaiter (.segment g) v)
      (addFormatSlot f.slot (modCat (fun c => { c with failed := false, failures := 0, dirty := true }) s))) := by
    refine foldl_keeps (fun t g ht => ?_) _ (hP.keeps_addFormatSlot _ (hP.keeps_modCat _ h))
    exact hP.keeps_addWaiter _ ht
  unfold formatSnapshot; dsimp only
  refine hP.keeps_beginSnapshot _ (hP.keeps_modFormat _ ?_)
  split
  · exact h1
  · exact hP.keeps_reportCause _ h1

theorem keeps_formatLast (hP : Building P) (f : Format) (h : P s) : P (formatLast f s) := by
  have h1 := hP.keeps_settleLowFree (hP.work s { s with freeCount := countFree s } rfl (fun x => x) h)
  exact hP.keeps_formatSnapshot _ (hP.spaces _ _ (fun _ => canonical_numbered _) h1)

theorem keeps_formatTake (hP : Building P) (g : Nat) (h : P s) : P (formatTake g s) := by
  unfold formatTake; split
  · exact hP.keeps_startupRead _ _ (hP.keeps_modFormat _ h)
  · split
    · exact hP.keeps_formatLast _ h
    · exact h

theorem keeps_formatEraseFault (hP : Building P) (g : Nat) (h : P s) : P (formatEraseFault g s) :=
  hP.keeps_formatTake _ (hP.keeps_modFormat _ (hP.keeps_modSeg _ _ h))

theorem keeps_formatRead (hP : Building P) (o : ReadOutcome) (f : Format) (h : P s) : P (formatRead o f s) := by
  unfold formatRead; split
  · exact hP.keeps_makeClaim _ _ _ (hP.keeps_modFormat _ (hP.segs s _ Store.canonical_put h))
  · exact h

theorem keeps_formatErased (hP : Building P) (ok : Bool) (f : Format) (h : P s) : P (formatErased ok f s) := by
  unfold formatErased; split
  · split
    · exact hP.keeps_makeClaim _ _ _ (hP.keeps_modFormat _ (hP.keeps_modSeg _ _
        (hP.sequence s s.nextSeq (drawsAfterStamp s) h)))
    · exact hP.keeps_formatEraseFault _ h
  · exact h

theorem keeps_formatHeader (hP : Building P) (ok : Bool) (f : Format) (h : P s) : P (formatHeader ok f s) := by
  unfold formatHeader; split
  · split
    · exact hP.keeps_formatTake _ (hP.keeps_modSeg _ _ h)
    · exact hP.keeps_formatEraseFault _ h
  · exact h

theorem keeps_startupReadEnded (hP : Building P) (g p : Nat) (o : ReadOutcome) (hs : marksCanonical s) (h : P s) :
    P (startupReadEnded g p o s) := by
  unfold startupReadEnded; split
  · exact hP.keeps_mountRead _ _ _ _ hs h
  · exact hP.keeps_formatRead _ _ h
  · exact h

theorem keeps_startupErased (hP : Building P) (ok : Bool) (h : P s) : P (startupErased ok s) := by
  unfold startupErased; split
  · exact hP.keeps_mountErased _ _ h
  · exact hP.keeps_formatErased _ _ h
  · exact h

theorem keeps_startupHeader (hP : Building P) (ok : Bool) (h : P s) : P (startupHeader ok s) := by
  unfold startupHeader; split
  · exact hP.keeps_mountHeader _ _ h
  · exact hP.keeps_formatHeader _ _ h
  · exact h

theorem keeps_endFormat (hP : Building P) (h : P s) : P (endFormat s) := by
  unfold endFormat; dsimp only; split
  · exact hP.notice _ _ (hP.startup s
      { s.startup with format := none, pendingCause := none, mode := .ready, cause := none } (fun x => x) h)
  · exact hP.keeps_readOnlyEffects (hP.notice _ _ (hP.startup s
      { s.startup with format := none, pendingCause := none, mode := .readOnly, cause := some ‹Cause› } (fun x => x) h))

theorem keeps_snapshotCompleted (hP : Building P) (w : CatWrite) (h : P s) : P (snapshotCompleted w s) := by
  have h1 : P ((s.cat.waiters.filter (fun x => decide (x.needed ≤ w.snap.gen))).foldl (releaseWaiter w.snap.gen)
      (modCat (fun c => { (c.modMirror c.current (fun m => { m with gen := some w.snap.gen })) with
        completed := w.snap.gen
        failures := 0
        write := none
        retired := w.snap.retired
        formatStamp := w.snap.stamp
        completedStamp := w.snap.stamp
        waiters := c.waiters.filter (fun x => decide (w.snap.gen < x.needed)) }) s)) := by
    refine foldl_keeps (fun t x ht => ?_) _ (hP.keeps_modCat _ h)
    exact hP.keeps_releaseWaiter _ _ ht
  unfold snapshotCompleted; dsimp only; split
  · exact hP.keeps_endFormat h1
  · exact h1

theorem keeps_writerProgrammed (hP : Building P) (ok : Bool) (h : P s) : P (writerProgrammed ok s) := by
  unfold writerProgrammed; split
  · exact h
  · split
    · split
      · exact hP.keeps_claimSnapshot _ _ (hP.keeps_modCat _ h)
      · exact hP.keeps_countFailure (fun _ => hP.keeps_claimSnapshot _ _) h
    · split
      · exact hP.keeps_snapshotCompleted _ h
      · exact hP.keeps_countFailure (fun _ => hP.keeps_writeSnapshot _) h
    · exact h

end Building

end Sys2Proof.Machine
end

