-- ==== Sys2Proof/Laws/KeepsLink.lean ====
section
/-! SUPPORT. Laws/KeepsLink.lean: the changes of the Host Link (Machine/Transmit.lean, Machine/Receiver.lean) as a relation,
and the properties that every running command keeps (`Whole`). -/

namespace Sys2Proof.Machine

/-- One basic change of the Host Link that is not the answer of a slot. -/
inductive LinkStep : Link → Link → Prop
  /-- The receiver, the transmitter, the reply order and the soft reset. -/
  | marks (l : Link) (inside : Bool) (order : List Nat) (sending : Option TxFrame) (replies : List TxFrame)
      (soft : Option SoftReset) :
      LinkStep l { l with
        inside := inside, replyOrder := order, sending := sending, resetReplies := replies, softReset := soft }
  /-- Link counters that stay or rise by one. -/
  | counters (l : Link) (c : Counters) (h1 : c.checkErrors = l.counters.checkErrors ∨ c.checkErrors = countUp l.counters.checkErrors)
      (h2 : c.lengthErrors = l.counters.lengthErrors ∨ c.lengthErrors = countUp l.counters.lengthErrors)
      (h3 : c.timeouts = l.counters.timeouts ∨ c.timeouts = countUp l.counters.timeouts)
      (h4 : c.refusalsDropped = l.counters.refusalsDropped ∨ c.refusalsDropped = countUp l.counters.refusalsDropped) :
      LinkStep l { l with counters := c }
  /-- An answer leaves the immediate reply list. -/
  | answerLeaves (l : Link) (a : Answer) (rest : List Answer) (h : l.immediate = a :: rest) :
      LinkStep l { l with immediate := rest }
  /-- An answer enters the immediate reply list. -/
  | answerEnters (l : Link) (a : Answer) (h : l.immediate.length < Config.immediatePlaces) :
      LinkStep l { l with immediate := l.immediate ++ [a] }
  /-- The oldest notice leaves. -/
  | noticeLeaves (l : Link) (x : Notice) (rest : List Notice) (h : l.notices = x :: rest) :
      LinkStep l { l with notices := rest }
  /-- The notice guard count. -/
  | guard (l : Link) (n : Nat) (h : n = l.noticeGuard ∨ n ≤ 4) : LinkStep l { l with noticeGuard := n }
  /-- A slot is freed. -/
  | freed (l : Link) (n : Nat) : LinkStep l { l with slots := freeSlot n l.slots }
  /-- The lowest free slot is taken by a new tag. -/
  | occupied (l : Link) (n : Nat) (tag : Byte) (r : Request) (h0 : tag ≠ 0#8) (h1 : ∀ p ∈ l.slots, p.2.tag ≠ tag)
      (h2 : Store.get n l.slots = none) (h3 : n < Config.slots) : LinkStep l { l with slots := occupy n tag r l.slots }
  /-- A soft reset keeps at most one slot. -/
  | kept (l : Link) (n : Nat) :
      LinkStep l { l with slots := (l.slots.filter (fun p => p.1 == n)).map (fun p => (p.1, { p.2 with arrival := 1 })) }
  /-- A soft reset keeps no slot. -/
  | noneKept (l : Link) : LinkStep l { l with slots := [] }
  /-- The RESET reply empties the link. -/
  | emptied (l : Link) : LinkStep l { l with counters := ⟨0, 0, 0, 0⟩, immediate := [], notices := [], noticeGuard := 0 }

/-- `Building`, kept by every change a running part makes. -/
structure Whole (P : State → Prop) : Prop extends Building P where
  link : ∀ s l, LinkStep s.link l → P s → P { s with link := l }
  params : ∀ s p, P s → P { s with params := p }
  patrol : ∀ s p, P s → P { s with patrol := p }
  lines : ∀ s w p, P s → P { s with wp := w, pfw := p }
  flash : ∀ s l, (Store.Canonical s.flash → Store.Canonical l) → P s → P { s with flash := l }

/-! ## Finding a number -/

/-- The first number found satisfies the test, lies in the range, and no lower number of the range satisfies it. -/
theorem Store.firstFrom_spec {p : Nat → Bool} {count n m : Nat} (h : Store.firstFrom p count n = some m) :
    p m = true ∧ n ≤ m ∧ m < n + count ∧ ∀ k, n ≤ k → k < m → p k = false := by
  induction count generalizing n with
  | zero => cases h
  | succ c ih =>
    unfold Store.firstFrom at h
    split at h
    · rename_i hp
      cases h
      exact ⟨hp, Nat.le_refl _, by omega, fun k h1 h2 => absurd h1 (by omega)⟩
    · rename_i hp
      obtain ⟨h1, h2, h3, h4⟩ := ih h
      refine ⟨h1, by omega, by omega, fun k hk hm => ?_⟩
      by_cases hkn : k = n
      · subst hkn; simpa using hp
      · exact h4 k (by omega) hm

/-- A search that finds nothing has found every number of the range to fail. -/
theorem Store.firstFrom_none {p : Nat → Bool} {count n : Nat} (h : Store.firstFrom p count n = none) :
    ∀ k, n ≤ k → k < n + count → p k = false := by
  induction count generalizing n with
  | zero => intro k h1 h2; omega
  | succ c ih =>
    unfold Store.firstFrom at h
    split at h
    · cases h
    · rename_i hp
      intro k h1 h2
      by_cases hkn : k = n
      · subst hkn; simpa using hp
      · exact ih h k (by omega) (by omega)

/-- The lowest free slot is free and is a slot. -/
theorem lowestFree_spec {s : State} {n : Nat} (h : lowestFree s = some n) :
    Store.get n s.link.slots = none ∧ n < Config.slots := by
  obtain ⟨h1, _, h3, _⟩ := Store.firstFrom_spec h
  exact ⟨by simpa using h1, by simpa using h3⟩

/-- No occupied slot holds a tag that is not in use. -/
theorem tag_free {s : State} {tag : Byte} (h : ¬ (slotOfTag tag s).isSome = true) : ∀ p ∈ s.link.slots, p.2.tag ≠ tag := by
  have hn : slotOfTag tag s = none := by simpa using h
  intro p hp he
  have := List.find?_eq_none.mp hn p hp
  simp [he] at this

namespace Whole

variable {P : State → Prop} {s : State}

/-! ## The transmitter -/

theorem keeps_orderReplies (hP : Whole P) (h : P s) : P (orderReplies s) := hP.link s _ (.marks s.link _ _ _ _ _) h

theorem keeps_sendNotice (hP : Whole P) (h : P s) : P (sendNotice s) := by
  unfold sendNotice; split
  · exact h
  · rename_i x rest hx
    have h1 := hP.link s _ (.noticeLeaves s.link x rest hx) h
    have h2 := hP.link { s with link := { s.link with notices := rest } } _ (.guard _ 0 (.inr (Nat.zero_le 4))) h1
    exact hP.link { s with link := { s.link with notices := rest, noticeGuard := 0 } } _
      (.marks _ s.link.inside s.link.replyOrder (some (.notice x)) s.link.resetReplies s.link.softReset) h2

theorem keeps_sendSlot (hP : Whole P) (h : P s) : P (sendSlot s) := by
  unfold sendSlot; split
  · exact h
  · rename_i n rest _
    split
    · exact hP.link s _ (.marks s.link _ rest _ _ _) h
    · rename_i sl _
      have h1 := hP.link s _ (.marks s.link s.link.inside rest (some (slotFrame n sl s)) s.link.resetReplies
        s.link.softReset) h
      refine hP.link { s with link := { s.link with replyOrder := rest, sending := some (slotFrame n sl s) } } _
        (.guard _ (if s.link.notices = [] then s.link.noticeGuard else min (s.link.noticeGuard + 1) 4) ?_) h1
      split
      · exact .inl rfl
      · exact .inr (Nat.min_le_right _ _)

theorem keeps_chooseFrame (hP : Whole P) (h : P s) : P (chooseFrame s) := by
  unfold chooseFrame; split
  · rename_i a rest ha
    have h1 := hP.link s _ (.answerLeaves s.link a rest ha) h
    exact hP.link { s with link := { s.link with immediate := rest } } _
      (.marks _ s.link.inside s.link.replyOrder (some (answerFrame a s)) s.link.resetReplies s.link.softReset) h1
  · split
    · exact hP.keeps_sendNotice h
    · split
      · exact hP.keeps_sendSlot h
      · exact hP.keeps_sendNotice h

theorem keeps_transmit (hP : Whole P) (h : P s) : P (transmit s) := by
  unfold transmit; split
  · exact h
  · exact h
  · exact hP.link s _ (.marks s.link _ _ _ _ _) h
  · exact hP.keeps_chooseFrame h

theorem keeps_finish (hP : Whole P) (h : P s) : P (finish s) := hP.keeps_transmit (hP.keeps_orderReplies h)

theorem keeps_settleWith (hP : Whole P) (ended : Bool) (h : P s) : P (settleWith ended s) :=
  hP.keeps_finish (hP.keeps_settleRound _ (hP.keeps_settleRound _ h))

theorem keeps_settle (hP : Whole P) (h : P s) : P (settle s) := hP.keeps_settleWith false h

theorem keeps_settleAfterOp (hP : Whole P) (h : P s) : P (settleAfterOp s) := hP.keeps_settleWith true h

theorem keeps_calm (hP : Whole P) (h : P s) : P (calm s) := by
  unfold calm; split
  · exact hP.keeps_settle h
  · exact hP.keeps_finish h

/-! ## The receiver -/

theorem keeps_hunt (hP : Whole P) (h : P s) : P (hunt s) := hP.link s _ (.marks s.link _ _ _ _ _) h

theorem keeps_discardLength (hP : Whole P) (h : P s) : P (discardLength s) :=
  hP.keeps_hunt (hP.link s _ (.counters s.link _ (.inl rfl) (.inr rfl) (.inl rfl) (.inl rfl)) h)

theorem keeps_discardCheck (hP : Whole P) (h : P s) : P (discardCheck s) :=
  hP.keeps_hunt (hP.link s _ (.counters s.link _ (.inr rfl) (.inl rfl) (.inl rfl) (.inl rfl)) h)

theorem keeps_discardTimeout (hP : Whole P) (h : P s) : P (discardTimeout s) :=
  hP.keeps_hunt (hP.link s _ (.counters s.link _ (.inl rfl) (.inl rfl) (.inr rfl) (.inl rfl)) h)

theorem keeps_dropAnswer (hP : Whole P) (h : P s) : P (dropAnswer s) :=
  hP.link s _ (.counters s.link _ (.inl rfl) (.inl rfl) (.inl rfl) (.inr rfl)) h

theorem keeps_refuseFrame (hP : Whole P) (f : RxFrame) (st : Status) (h : P s) : P (refuseFrame f st s) := by
  unfold refuseFrame; split
  · rename_i hr
    exact hP.link s _ (.answerEnters s.link _ (of_decide_eq_true hr)) h
  · exact hP.keeps_dropAnswer h

theorem keeps_cancelEffect (hP : Whole P) (target : Byte) (h : P s) : P (cancelEffect target s).2 := by
  unfold cancelEffect; split
  · exact h
  · split
    · exact hP.keeps_answer _ _ _ h
    · exact hP.keeps_answer _ _ _ h
    · split
      · exact hP.work (answer _ .cancelled .none s) _ rfl (fun x => x) (hP.keeps_answer _ .cancelled .none h)
      · exact h
    · exact hP.keeps_answer _ _ _ (hP.keeps_modComp
        (fun c => { c with compacts := c.compacts.filter (fun x => x.slot != _) }) h)
    · exact h
    · exact h
    · exact h

theorem immediate_cancelEffect (target : Byte) (s : State) :
    (cancelEffect target s).2.link.immediate = s.link.immediate := by
  unfold cancelEffect; repeat' split
  all_goals rfl

theorem keeps_resetBegins (hP : Whole P) (tag : Byte) (h : P s) : P (resetBegins tag s) := by
  refine hP.keeps_commitCause _ ?_
  have h1 : P { s with link := { s.link with slots := keptSlots s } } := by
    unfold keptSlots; split
    · exact hP.link s _ (.noneKept s.link) h
    · exact hP.link s _ (.kept s.link _) h
  have h2 : P { s with link := { s.link with
      slots := keptSlots s, replyOrder := []
      softReset := some ⟨tag, s.cat.write.map (fun w => w.snap.gen)⟩ } } :=
    hP.link { s with link := { s.link with slots := keptSlots s } } _ (.marks _ _ _ _ _ _) h1
  have key : ∀ t u, (marksCanonical t → marksCanonical { t with startup := u }) → P t →
      P { t with syncMarks := [], startup := u } :=
    fun t u hu ht => hP.startup { t with syncMarks := [] } _ hu (hP.marks t [] ht)
  refine hP.work _ _ ?_ ?_ (key _ { s.startup with format := s.startup.format.map (fun f => { f with slot := none }) }
    ?_ h2)
  · rfl
  · exact fun x => x
  · exact fun x => x

theorem keeps_doImmediate (hP : Whole P) (f : RxFrame) (i : Immediate) (h : P s) : P (doImmediate f i s) := by
  unfold doImmediate; split
  · exact hP.keeps_settle (hP.keeps_resetBegins _ h)
  · refine hP.keeps_calm ?_
    split
    · rename_i hr; exact hP.link s _ (.answerEnters s.link _ (of_decide_eq_true hr)) h
    · exact hP.keeps_dropAnswer h
  · refine hP.keeps_calm ?_
    split
    · rename_i hr; exact hP.link s _ (.answerEnters s.link _ (of_decide_eq_true hr)) h
    · exact hP.keeps_dropAnswer h
  · refine hP.keeps_calm ?_
    split
    · rename_i hr
      refine hP.link _ _ (.answerEnters _ _ ?_) (hP.keeps_cancelEffect _ h)
      rw [immediate_cancelEffect]; exact of_decide_eq_true hr
    · exact hP.keeps_dropAnswer h

theorem keeps_queueFrame (hP : Whole P) (f : RxFrame) (r : Request) (h0 : f.tag ≠ 0#8) (h : P s) :
    P (queueFrame f r s) := by
  unfold queueFrame; split
  · exact hP.keeps_refuseFrame _ _ h
  · split
    · exact hP.keeps_refuseFrame _ _ h
    · rename_i hn
      unfold takeSlot; split
      · exact hP.keeps_refuseFrame _ _ h
      · rename_i n hf
        obtain ⟨h1, h2⟩ := lowestFree_spec hf
        exact hP.link s _ (.occupied s.link n f.tag r h0 (tag_free hn) h1 h2) h

theorem keeps_dispose (hP : Whole P) (f : RxFrame) (h : P s) : P (dispose f s) := by
  unfold dispose; split
  · exact h
  · split
    · exact hP.keeps_calm (hP.keeps_refuseFrame _ _ h)
    · rename_i h0
      split
      · exact hP.keeps_doImmediate _ _ h
      · exact hP.keeps_calm (hP.keeps_queueFrame _ _ h0 h)
      · exact hP.keeps_calm (hP.keeps_refuseFrame _ _ h)

theorem keeps_frameEnds (hP : Whole P) (f : RxFrame) (h : P s) : P (frameEnds f s) := by
  unfold frameEnds; split
  · exact hP.keeps_discardLength h
  · split
    · exact h
    · split
      · exact hP.keeps_dispose _ (hP.keeps_hunt h)
      · exact hP.keeps_discardCheck h

/-- A change made only by a running part. -/
theorem keeps_whileRunning {f : State → State} (hf : P s → P (f s)) (h : P s) : P (whileRunning f s) := by
  unfold whileRunning; split
  · exact h
  · exact hf h

/-- A change made only inside a frame. -/
theorem keeps_insideFrame {f : State → State} (hf : P s → P (f s)) (h : P s) : P (insideFrame f s) := by
  unfold insideFrame; split
  · exact hf h
  · exact h

theorem keeps_receive (hP : Whole P) (f : RxFrame) (h : P s) : P (receive f s) :=
  keeps_whileRunning (keeps_insideFrame (hP.keeps_frameEnds f)) h

theorem keeps_buildResetReply (hP : Whole P) (r : SoftReset) (h : P s) : P (buildResetReply r s) := by
  have h1 := hP.link s _ (.emptied s.link) h
  refine hP.keeps_finish (hP.link { s with link := { s.link with
      counters := ⟨0, 0, 0, 0⟩, immediate := [], notices := [], noticeGuard := 0 } } _ ?_ h1)
  exact (.marks _ false s.link.replyOrder s.link.sending
    (s.link.resetReplies ++ [.reply 0x84#8 r.tag .ok 8 .none none]) none)

theorem keeps_resetReplyStep (hP : Whole P) (h : P s) : P (resetReplyStep s) := by
  unfold resetReplyStep; split
  · exact h
  · split
    · exact hP.keeps_buildResetReply _ h
    · exact h

theorem keeps_frameSentStep (hP : Whole P) (h : P s) : P (frameSentStep s) := by
  unfold frameSentStep; split
  · exact h
  · rename_i f _
    refine hP.keeps_calm ?_
    unfold frameLeaves; split
    · rename_i n _
      have h1 := hP.link s _ (.freed s.link n) h
      exact hP.link { s with link := { s.link with slots := freeSlot n s.link.slots } } _
        (.marks _ s.link.inside s.link.replyOrder none s.link.resetReplies s.link.softReset) h1
    · exact hP.link s _ (.marks s.link _ _ _ _ _) h

end Whole

end Sys2Proof.Machine
end

