-- ==== Sys2Proof/Laws/KeepsExec.lean ====
section
/-! SUPPORT. Laws/KeepsExec.lean: a property of `Whole` is kept by every command of a running part, and by every command when
the held states have it. -/

namespace Sys2Proof.Machine

/-- The marks of the scan stay in order. -/
theorem marksCanonical_whole : Whole marksCanonical where
  work s t h _ x := by unfold SameButWork at h; rw [h]; exact x
  slots _ _ _ x := x
  notice _ _ x := x
  segs _ _ _ x := x
  index _ _ _ x := x
  counts _ _ _ x := x
  readOnly _ _ _ x := x
  pendingCause _ _ _ x := x
  formatFails _ _ _ x := x
  sequence _ _ _ x := x
  marks _ _ x := x
  startup _ _ h x := h x
  spaces _ _ _ x := x
  link _ _ _ x := x
  params _ _ x := x
  patrol _ _ x := x
  lines _ _ _ x := x
  flash _ _ _ x := x

/-- A property that survives a change of the frozen mark, the settings and the counts of a space. -/
theorem Whole.keeps_modSpace {P : State → Prop} (hP : Whole P) {s : State} (n : Nat) (f : SpaceRec → SpaceRec) (h : P s) :
    P (modSpace n f s) := hP.spaces s _ Store.canonical_modify h

namespace Whole

variable {P : State → Prop} {s : State}

/-! ## Requests -/

theorem keeps_takenSlot (hP : Whole P) (n : Nat) (h : P s) : P (takenSlot n s) :=
  hP.work (modSlot n (fun sl => { sl with state := .active }) s) _ rfl (fun x => x) (hP.keeps_modSlot n (fun _ _ => rfl) h)

theorem keeps_afterChecks (hP : Whole P) (n : Nat) (cs : List (Option (Status × ReplyData))) {go : State → State}
    (hg : P s → P (go s)) (h : P s) : P (afterChecks n cs go s) := by
  unfold afterChecks; split
  · exact hP.keeps_settle (hP.keeps_answer _ _ _ h)
  · exact hP.keeps_settle (hg h)

theorem keeps_release (hP : Whole P) (n : Nat) (h : P s) : P (release n s) := hP.work s _ rfl (fun x => x) h

theorem keeps_setSlotState (hP : Whole P) (n : Nat) (st : SlotState) (h : P s) : P (setSlotState n st s) :=
  hP.keeps_modSlot n (fun _ _ => rfl) h

theorem keeps_awaitCatalogue (hP : Whole P) (n : Nat) (h : P s) : P (awaitCatalogue n s) :=
  hP.keeps_addWaiter _ (hP.keeps_setSlotState _ _ h)

theorem keeps_deleteKey (hP : Whole P) (n : Nat) (k : Key) (h : P s) : P (deleteKey n k s) := by
  unfold deleteKey; split
  · exact hP.keeps_storeFor _ _ _ h
  · exact hP.keeps_answer _ _ _ h

theorem keeps_syncSlot (hP : Whole P) (n : Nat) (h : P s) : P (syncSlot n s) := by
  unfold syncSlot; split
  · exact hP.keeps_answer _ _ _ h
  · split
    · exact hP.keeps_commitCause _ (hP.keeps_release _ (hP.keeps_setSlotState _ _ (hP.marks s _ h)))
    · exact hP.keeps_answer _ _ _ h

theorem keeps_getKey (hP : Whole P) (n : Nat) (k : Key) (h : P s) : P (getKey n k s) := by
  unfold getKey; split
  · exact hP.keeps_answer _ _ _ h
  · exact hP.keeps_makeClaim _ _ _ h

theorem keeps_paramTakesEffect (hP : Whole P) (code value old : Nat) (h : P s) : P (paramTakesEffect code value old s) := by
  unfold paramTakesEffect; split
  · exact hP.patrol s _ h
  · split
    · exact hP.keeps_thresholdLowered _ h
    · exact h
  · exact h

theorem keeps_setParam (hP : Whole P) (n code value : Nat) (h : P s) : P (setParam n code value s) := by
  unfold setParam; split
  · exact hP.keeps_answer _ _ _ (hP.keeps_paramTakesEffect _ _ _ (hP.params s _ h))
  · exact hP.keeps_answer _ _ _ h

theorem keeps_compactSlot (hP : Whole P) (n : Nat) (target : Option Nat) (h : P s) : P (compactSlot n target s) := by
  unfold compactSlot; dsimp only; split
  · exact hP.keeps_answer _ _ _ h
  · exact hP.keeps_release _ (hP.keeps_setSlotState _ _ (hP.keeps_modComp (fun c => { c with compacts := c.compacts ++ [_] }) h))

theorem keeps_removeSpace (hP : Whole P) (space : Nat) (h : P s) : P (removeSpace space s) :=
  foldl_keeps (fun _ k => hP.keeps_changeEntry k none) _ h

theorem keeps_clearSpace (hP : Whole P) (n space : Nat) (h : P s) : P (clearSpace n space s) :=
  hP.keeps_awaitCatalogue _ (hP.keeps_modSpace _ _ (hP.keeps_removeSpace _ h))

theorem keeps_formatEmptyingStep (hP : Whole P) (h : P s) : P (formatEmptyingStep s) := by
  unfold formatEmptyingStep; split
  · exact hP.keeps_settle (hP.keeps_formatTake _ (hP.keeps_formatEmpties h))
  · exact h

/-! ## Timers, completions and the part's own steps -/

theorem keeps_commitWindowStep (hP : Whole P) (h : P s) : P (commitWindowStep s) := by
  unfold commitWindowStep; split
  · exact hP.keeps_settle (hP.keeps_commitCause _ (hP.work s _ rfl (fun x => x) h))
  · exact h

theorem keeps_patrolClaim (hP : Whole P) (h : P s) : P (patrolClaim s) := by
  unfold patrolClaim; split
  · exact h
  · exact hP.keeps_makeClaim _ _ _ (hP.patrol s _ h)

theorem keeps_patrolStep (hP : Whole P) (h : P s) : P (patrolStep s) := by
  unfold patrolStep; split
  · exact hP.keeps_settle (hP.keeps_patrolClaim h)
  · exact h

theorem keeps_readOriginator (hP : Whole P) (run : ReadRun) (o : ReadOutcome) (hs : marksCanonical s) (h : P s) :
    P (readOriginator run o s) := by
  unfold readOriginator; split
  · split
    · exact hP.keeps_answerGet _ _ h
    · exact h
  · exact hP.keeps_startupReadEnded _ _ _ hs h
  · exact hP.keeps_engineRead _ _ _ h
  all_goals exact h

theorem keeps_readEnds (hP : Whole P) (run : ReadRun) (o : ReadOutcome) (hs : marksCanonical s) (h : P s) :
    P (readEnds run o s) := by
  refine hP.keeps_settleAfterOp (hP.keeps_suspendNext 2 (hP.keeps_readOriginator run o ?_ ?_))
  · exact marksCanonical_whole.keeps_healthHandles run o (marksCanonical_whole.keeps_startOp none hs)
  · exact hP.keeps_healthHandles run o (hP.keeps_startOp none h)

theorem keeps_readCompletionStep (hP : Whole P) (report : ReadReport) (hs : marksCanonical s) (h : P s) :
    P (readCompletionStep report s) := by
  unfold readCompletionStep; split
  · split
    · exact hP.keeps_readEnds _ _ hs h
    · exact h
  · exact h

theorem keeps_programOriginator (hP : Whole P) (o : Originator) (ok : Bool) (h : P s) : P (programOriginator o ok s) := by
  unfold programOriginator; split
  · split
    · exact hP.keeps_pageProgrammed _ h
    · exact hP.keeps_pageFailed _ h
  · split
    · exact hP.keeps_pageProgrammed _ h
    · exact hP.keeps_pageFailed _ h
  · exact hP.keeps_engineHeader _ h
  · exact hP.keeps_writerProgrammed _ h
  · exact hP.keeps_startupHeader _ h
  all_goals exact h

theorem keeps_programEnds (hP : Whole P) (o : Originator) (g p : Nat) (d : PageData) (ok : Bool) (h : P s) :
    P (programEnds o g p d ok s) :=
  hP.keeps_settleAfterOp (hP.keeps_programOriginator _ _
    (hP.flash (startOp none s) _ Store.canonical_put (hP.keeps_startOp none h)))

theorem keeps_programCompletionStep (hP : Whole P) (ok : Bool) (h : P s) : P (programCompletionStep ok s) := by
  unfold programCompletionStep; split
  · exact hP.keeps_programEnds _ _ _ _ _ h
  · exact h

theorem keeps_eraseOriginator (hP : Whole P) (o : Originator) (ok : Bool) (h : P s) : P (eraseOriginator o ok s) := by
  unfold eraseOriginator; split
  · exact hP.keeps_engineErased _ h
  · exact hP.keeps_writerErased _ h
  · exact hP.keeps_startupErased _ h
  all_goals exact h

theorem keeps_spoilSegment (hP : Whole P) (g : Nat) (f : Quality → Quality) (h : P s) : P (spoilSegment g f s) :=
  hP.flash s _ (foldl_keeps (P := Store.Canonical) (fun _ _ => Store.canonical_put) _) h

theorem keeps_eraseLeaves (hP : Whole P) (ok : Bool) (g : Nat) (h : P s) : P (eraseLeaves ok g s) := by
  unfold eraseLeaves; split
  · exact hP.flash s _ Store.canonical_filter h
  · exact hP.keeps_spoilSegment _ _ h

theorem keeps_eraseEnds (hP : Whole P) (e : EraseRun) (ok : Bool) (h : P s) : P (eraseEnds e ok s) :=
  hP.keeps_settleAfterOp (hP.keeps_eraseOriginator _ _ (hP.keeps_eraseLeaves _ _ (hP.keeps_startOp none h)))

theorem keeps_eraseCompletionStep (hP : Whole P) (ok : Bool) (h : P s) : P (eraseCompletionStep ok s) := by
  unfold eraseCompletionStep; split
  · exact hP.keeps_eraseEnds _ _ h
  · exact h

theorem keeps_timeoutStep (hP : Whole P) (hs : marksCanonical s) (h : P s) : P (timeoutStep s) := by
  unfold timeoutStep; split
  · exact hP.keeps_readEnds _ _ hs h
  · exact hP.keeps_programEnds _ _ _ _ _ h
  · exact hP.keeps_eraseEnds _ _ h
  · exact h

theorem keeps_suspendTimeoutStep (hP : Whole P) (h : P s) : P (suspendTimeoutStep s) := by
  unfold suspendTimeoutStep; split
  · split
    · exact hP.keeps_eraseEnds _ _ h
    · exact h
  · exact h

theorem keeps_eraseSuspendedStep (hP : Whole P) (h : P s) : P (eraseSuspendedStep s) := by
  unfold eraseSuspendedStep; split
  · split
    · exact hP.keeps_settle (hP.keeps_suspendNext _ (hP.work s _ rfl (fun x => x) h))
    · exact h
  · exact h

theorem keeps_resumeCopying (hP : Whole P) (x : Handled) (h : P x.state) : P (resumeCopying x s) := by
  unfold resumeCopying; split
  · exact hP.keeps_copyLoop _ h
  · exact h
  · exact h

theorem keeps_placeWaiting (hP : Whole P) (w : WaitingEntry) (h : P s) : P (placeWaiting w s) := by
  unfold placeWaiting; split
  · exact hP.keeps_storeFor _ _ _ (hP.keeps_modStream _ _ h)
  · exact hP.keeps_resumeCopying _ (hP.keeps_handCopy _ _ (hP.keeps_modStream _ _ h))

theorem keeps_waitingPlacedStep (hP : Whole P) (id : StreamId) (h : P s) : P (waitingPlacedStep id s) := by
  unfold waitingPlacedStep; split
  · exact h
  · split
    · exact hP.keeps_settle (hP.keeps_placeWaiting _ h)
    · exact h

theorem keeps_proceed (hP : Whole P) (n : Nat) (r : Request) (h : P s) : P (proceed n r s) := by
  unfold proceed; split
  · exact hP.keeps_storeFor _ _ _ (hP.keeps_setSlotState _ _ h)
  · exact hP.keeps_storeFor _ _ _ (hP.keeps_setSlotState _ _ h)
  · exact h

theorem keeps_heldProceedsStep (hP : Whole P) (h : P s) : P (heldProceedsStep s) := by
  unfold heldProceedsStep; split
  · exact h
  · split
    · exact h
    · split
      · exact hP.keeps_settle (hP.keeps_proceed _ _ h)
      · exact h

theorem keeps_evacuationEndStep (hP : Whole P) (h : P s) : P (evacuationEndStep s) := by
  unfold evacuationEndStep; split
  · exact h
  · split
    · exact hP.keeps_settle (hP.keeps_decideFate _ h)
    · exact h

/-! ## PFW -/

theorem keeps_setPfw (hP : Whole P) (b : Bool) (h : P s) : P (setPfw b s) :=
  hP.keeps_modComp (fun c => { c with paused := b }) (hP.lines s s.wp b h)

theorem keeps_pfwAssertedStep (hP : Whole P) (h : P s) : P (pfwAssertedStep s) := by
  unfold pfwAssertedStep; split
  · exact h
  · split
    · exact hP.keeps_setPfw _ h
    · exact hP.keeps_settle (hP.keeps_withdrawPatrol (hP.keeps_withdrawEngineWork (hP.keeps_commitCause _
        (hP.work (setPfw true s) _ rfl (fun x => x) (hP.keeps_setPfw true h)))))

theorem keeps_pfwDeassertedStep (hP : Whole P) (h : P s) : P (pfwDeassertedStep s) := by
  unfold pfwDeassertedStep; split
  · split
    · exact hP.keeps_setPfw _ h
    · exact hP.keeps_settle (hP.keeps_setPfw _ h)
  · exact h

/-- A request's step keeps what the carrying out of it keeps. -/
theorem keeps_taking (hP : Whole P) (h : P s) :
    P (putStep s) ∧ P (deleteStep s) ∧ P (syncStep s) ∧ P (getStep s) ∧ P (listStep s) ∧ P (segmentInfoStep s) ∧
      P (spaceInfoStep s) ∧ P (setParamStep s) ∧ P (freezeStep s) ∧ P (compactStep s) ∧ P (setPolicyStep s) ∧
      P (setQuotaStep s) ∧ P (clearSpaceStep s) ∧ P (formatStep s) := by
  refine ⟨?_, ?_, ?_, ?_, ?_, ?_, ?_, ?_, ?_, ?_, ?_, ?_, ?_, ?_⟩
  · unfold putStep; split
    · exact hP.keeps_afterChecks _ _ (hP.keeps_storeFor _ _ _) (hP.keeps_takenSlot _ h)
    · exact h
  · unfold deleteStep; split
    · exact hP.keeps_afterChecks _ _ (hP.keeps_deleteKey _ _) (hP.keeps_takenSlot _ h)
    · exact h
  · unfold syncStep; split
    · exact hP.keeps_afterChecks _ _ (hP.keeps_syncSlot _) (hP.keeps_takenSlot _ h)
    · exact h
  · unfold getStep; split
    · exact hP.keeps_afterChecks _ _ (hP.keeps_getKey _ _) (hP.keeps_takenSlot _ h)
    · exact h
  · unfold listStep; split
    · exact hP.keeps_afterChecks _ _ (hP.keeps_answer _ _ _) (hP.keeps_takenSlot _ h)
    · exact h
  · unfold segmentInfoStep; split
    · exact hP.keeps_afterChecks _ _ (hP.keeps_answer _ _ _) (hP.keeps_takenSlot _ h)
    · exact h
  · unfold spaceInfoStep; split
    · exact hP.keeps_afterChecks _ _ (hP.keeps_answer _ _ _) (hP.keeps_takenSlot _ h)
    · exact h
  · unfold setParamStep; split
    · exact hP.keeps_afterChecks _ _ (hP.keeps_setParam _ _ _) (hP.keeps_takenSlot _ h)
    · exact h
  · unfold freezeStep; split
    · exact hP.keeps_afterChecks _ _ (fun x => hP.keeps_answer _ _ _ (hP.keeps_modSpace _ _ x)) (hP.keeps_takenSlot _ h)
    · exact h
  · unfold compactStep; split
    · exact hP.keeps_afterChecks _ _ (hP.keeps_compactSlot _ _) (hP.keeps_takenSlot _ h)
    · exact h
  · unfold setPolicyStep; split
    · exact hP.keeps_afterChecks _ _ (fun x => hP.keeps_awaitCatalogue _ (hP.keeps_modSpace _ _ x)) (hP.keeps_takenSlot _ h)
    · exact h
  · unfold setQuotaStep; split
    · exact hP.keeps_afterChecks _ _ (fun x => hP.keeps_awaitCatalogue _ (hP.keeps_modSpace _ _ x)) (hP.keeps_takenSlot _ h)
    · exact h
  · unfold clearSpaceStep; split
    · exact hP.keeps_afterChecks _ _ (hP.keeps_clearSpace _ _) (hP.keeps_takenSlot _ h)
    · exact h
  · unfold formatStep; split
    · exact hP.keeps_afterChecks _ _ (hP.keeps_formatBegins _) (hP.keeps_takenSlot _ h)
    · exact h

end Whole

/-- What a command answers, when it answers a next state of which `P` holds. -/
theorem next_of {P : State → Prop} {a b : State} (h : P a) (e : (Host.Outcome.next a : Result) = .next b) : P b := by
  cases e; exact h

/-- Every command but those of the supply and RST keeps a property of `Whole`. -/
theorem Whole.keeps_exec {P : State → Prop} (hP : Whole P) {c : Instr} {s t : State} (hc : isResetCommand c = false)
    (hs : marksCanonical s) (h : P s) (e : exec c s = .next t) : P t := by
  obtain ⟨h1, h2, h3, h4, h5, h6, h7, h8, h9, h10, h11, h12, h13, h14⟩ := hP.keeps_taking h
  cases c
  case powerOn => cases hc
  case powerLoss => cases hc
  case rstAsserted => cases hc
  case rstDeasserted => cases hc
  case wpChanged b => exact next_of (hP.lines s b s.pfw h) e
  case pfwAsserted => exact next_of (hP.keeps_pfwAssertedStep h) e
  case pfwDeasserted => exact next_of (hP.keeps_pfwDeassertedStep h) e
  case lengthError => exact next_of (keeps_whileRunning (keeps_insideFrame hP.keeps_discardLength) h) e
  case frameCheckFailed => exact next_of (keeps_whileRunning (keeps_insideFrame hP.keeps_discardCheck) h) e
  case receiverTimeout => exact next_of (keeps_whileRunning (keeps_insideFrame hP.keeps_discardTimeout) h) e
  case frameReceived f => exact next_of (hP.keeps_receive f h) e
  case identify => exact next_of (hP.keeps_receive _ h) e
  case status => exact next_of (hP.keeps_receive _ h) e
  case cancel => exact next_of (hP.keeps_receive _ h) e
  case reset => exact next_of (hP.keeps_receive _ h) e
  case resetReplyBuilt => exact next_of (keeps_whileRunning hP.keeps_resetReplyStep h) e
  case put => exact next_of (keeps_whileRunning (fun _ => h1) h) e
  case delete => exact next_of (keeps_whileRunning (fun _ => h2) h) e
  case get => exact next_of (keeps_whileRunning (fun _ => h4) h) e
  case list => exact next_of (keeps_whileRunning (fun _ => h5) h) e
  case sync => exact next_of (keeps_whileRunning (fun _ => h3) h) e
  case compact => exact next_of (keeps_whileRunning (fun _ => h10) h) e
  case segmentInfo => exact next_of (keeps_whileRunning (fun _ => h6) h) e
  case spaceInfo => exact next_of (keeps_whileRunning (fun _ => h7) h) e
  case setParam => exact next_of (keeps_whileRunning (fun _ => h8) h) e
  case freeze => exact next_of (keeps_whileRunning (fun _ => h9) h) e
  case setPolicy => exact next_of (keeps_whileRunning (fun _ => h11) h) e
  case setQuota => exact next_of (keeps_whileRunning (fun _ => h12) h) e
  case clearSpace => exact next_of (keeps_whileRunning (fun _ => h13) h) e
  case format => exact next_of (keeps_whileRunning (fun _ => h14) h) e
  case formatEmptying => exact next_of (keeps_whileRunning hP.keeps_formatEmptyingStep h) e
  case frameSent => exact next_of (keeps_whileRunning hP.keeps_frameSentStep h) e
  case commitWindowExpiry => exact next_of (keeps_whileRunning hP.keeps_commitWindowStep h) e
  case patrolTimerExpiry => exact next_of (keeps_whileRunning hP.keeps_patrolStep h) e
  case arrayOperationTimeout => exact next_of (keeps_whileRunning (hP.keeps_timeoutStep hs) h) e
  case eraseSuspendTimeout => exact next_of (keeps_whileRunning hP.keeps_suspendTimeoutStep h) e
  case readCompletion => exact next_of (keeps_whileRunning (hP.keeps_readCompletionStep _ hs) h) e
  case programCompletion => exact next_of (keeps_whileRunning (hP.keeps_programCompletionStep _) h) e
  case eraseCompletion => exact next_of (keeps_whileRunning (hP.keeps_eraseCompletionStep _) h) e
  case eraseSuspended => exact next_of (keeps_whileRunning hP.keeps_eraseSuspendedStep h) e
  case waitingEntryPlaced => exact next_of (keeps_whileRunning (hP.keeps_waitingPlacedStep _) h) e
  case heldRequestProceeds => exact next_of (keeps_whileRunning hP.keeps_heldProceedsStep h) e
  case evacuationEnd => exact next_of (keeps_whileRunning hP.keeps_evacuationEndStep h) e
  case frameStartMarker =>
    exact next_of (keeps_whileRunning (fun x => hP.link s _ (.marks s.link _ _ _ _ _) x) h) e

/-- A property of `Whole` that the held states have is kept by every command. -/
theorem Whole.keeps_command {P : State → Prop} (hP : Whole P) {c : Instr} {s t : State} (hs : marksCanonical s) (h : P s)
    (hd : ∀ w r, P { discardAll s with powered := w, rst := r }) (hr : ∀ r, P { s with rst := r })
    (e : exec c s = .next t) : P t := by
  have hb : ∀ v, P v → P (boot v) := fun v x => hP.keeps_settle (hP.keeps_mountBegins x)
  cases hc : isResetCommand c
  · exact hP.keeps_exec hc hs h e
  · cases c <;> cases hc
    · refine next_of ?_ e
      unfold powerOnStep; dsimp only; split
      · exact hd true _
      · exact hb _ (hd true _)
    · exact next_of (hd false (discardAll s).rst) e
    · exact next_of (hd (discardAll s).powered true) e
    · refine next_of ?_ e
      unfold rstDeassertedStep; split
      · split
        · exact hb _ (hr false)
        · exact hr false
      · exact h

end Sys2Proof.Machine
end

