-- ==== Sys2Proof/Laws/State.lean ====
section
/-! SUPPORT. Laws/State.lean: what each basic update leaves in each field of the state, so that no proof unfolds a record
update. -/

namespace Sys2Proof.Machine

section
variable (n : Notice) (s : State)

@[simp] theorem queueNotice_powered : (queueNotice n s).powered = s.powered := rfl
@[simp] theorem queueNotice_rst : (queueNotice n s).rst = s.rst := rfl
@[simp] theorem queueNotice_wp : (queueNotice n s).wp = s.wp := rfl
@[simp] theorem queueNotice_pfw : (queueNotice n s).pfw = s.pfw := rfl
@[simp] theorem queueNotice_flash : (queueNotice n s).flash = s.flash := rfl
@[simp] theorem queueNotice_index : (queueNotice n s).index = s.index := rfl
@[simp] theorem queueNotice_segs : (queueNotice n s).segs = s.segs := rfl
@[simp] theorem queueNotice_freeCount : (queueNotice n s).freeCount = s.freeCount := rfl
@[simp] theorem queueNotice_lowFree : (queueNotice n s).lowFree = s.lowFree := rfl
@[simp] theorem queueNotice_urgent : (queueNotice n s).urgent = s.urgent := rfl
@[simp] theorem queueNotice_ordinary : (queueNotice n s).ordinary = s.ordinary := rfl
@[simp] theorem queueNotice_spaces : (queueNotice n s).spaces = s.spaces := rfl
@[simp] theorem queueNotice_nextSeq : (queueNotice n s).nextSeq = s.nextSeq := rfl
@[simp] theorem queueNotice_nextStamp : (queueNotice n s).nextStamp = s.nextStamp := rfl
@[simp] theorem queueNotice_host : (queueNotice n s).host = s.host := rfl
@[simp] theorem queueNotice_reloc : (queueNotice n s).reloc = s.reloc := rfl
@[simp] theorem queueNotice_commitTimer : (queueNotice n s).commitTimer = s.commitTimer := rfl
@[simp] theorem queueNotice_syncMarks : (queueNotice n s).syncMarks = s.syncMarks := rfl
@[simp] theorem queueNotice_arr : (queueNotice n s).arr = s.arr := rfl
@[simp] theorem queueNotice_comp : (queueNotice n s).comp = s.comp := rfl
@[simp] theorem queueNotice_patrol : (queueNotice n s).patrol = s.patrol := rfl
@[simp] theorem queueNotice_params : (queueNotice n s).params = s.params := rfl
@[simp] theorem queueNotice_cat : (queueNotice n s).cat = s.cat := rfl
@[simp] theorem queueNotice_startup : (queueNotice n s).startup = s.startup := rfl
@[simp] theorem queueNotice_link : (queueNotice n s).link = { s.link with notices := pushNotice n s.link.notices } := rfl
@[simp] theorem queueNotice_engine : (queueNotice n s).engine = s.engine := rfl
@[simp] theorem queueNotice_freeDraws : (queueNotice n s).freeDraws = s.freeDraws := rfl
@[simp] theorem queueNotice_pending : (queueNotice n s).pending = s.pending := rfl

end

section
variable (n : Nat) (f : Slot → Slot) (s : State)

@[simp] theorem modSlot_powered : (modSlot n f s).powered = s.powered := rfl
@[simp] theorem modSlot_rst : (modSlot n f s).rst = s.rst := rfl
@[simp] theorem modSlot_wp : (modSlot n f s).wp = s.wp := rfl
@[simp] theorem modSlot_pfw : (modSlot n f s).pfw = s.pfw := rfl
@[simp] theorem modSlot_flash : (modSlot n f s).flash = s.flash := rfl
@[simp] theorem modSlot_index : (modSlot n f s).index = s.index := rfl
@[simp] theorem modSlot_segs : (modSlot n f s).segs = s.segs := rfl
@[simp] theorem modSlot_freeCount : (modSlot n f s).freeCount = s.freeCount := rfl
@[simp] theorem modSlot_lowFree : (modSlot n f s).lowFree = s.lowFree := rfl
@[simp] theorem modSlot_urgent : (modSlot n f s).urgent = s.urgent := rfl
@[simp] theorem modSlot_ordinary : (modSlot n f s).ordinary = s.ordinary := rfl
@[simp] theorem modSlot_spaces : (modSlot n f s).spaces = s.spaces := rfl
@[simp] theorem modSlot_nextSeq : (modSlot n f s).nextSeq = s.nextSeq := rfl
@[simp] theorem modSlot_nextStamp : (modSlot n f s).nextStamp = s.nextStamp := rfl
@[simp] theorem modSlot_host : (modSlot n f s).host = s.host := rfl
@[simp] theorem modSlot_reloc : (modSlot n f s).reloc = s.reloc := rfl
@[simp] theorem modSlot_commitTimer : (modSlot n f s).commitTimer = s.commitTimer := rfl
@[simp] theorem modSlot_syncMarks : (modSlot n f s).syncMarks = s.syncMarks := rfl
@[simp] theorem modSlot_arr : (modSlot n f s).arr = s.arr := rfl
@[simp] theorem modSlot_comp : (modSlot n f s).comp = s.comp := rfl
@[simp] theorem modSlot_patrol : (modSlot n f s).patrol = s.patrol := rfl
@[simp] theorem modSlot_params : (modSlot n f s).params = s.params := rfl
@[simp] theorem modSlot_cat : (modSlot n f s).cat = s.cat := rfl
@[simp] theorem modSlot_startup : (modSlot n f s).startup = s.startup := rfl
@[simp] theorem modSlot_link : (modSlot n f s).link = { s.link with slots := Store.modify n f s.link.slots } := rfl
@[simp] theorem modSlot_engine : (modSlot n f s).engine = s.engine := rfl
@[simp] theorem modSlot_freeDraws : (modSlot n f s).freeDraws = s.freeDraws := rfl
@[simp] theorem modSlot_pending : (modSlot n f s).pending = s.pending := rfl

end

section
variable (g : Nat) (f : SegRec → SegRec) (s : State)

@[simp] theorem modSeg_powered : (modSeg g f s).powered = s.powered := rfl
@[simp] theorem modSeg_rst : (modSeg g f s).rst = s.rst := rfl
@[simp] theorem modSeg_wp : (modSeg g f s).wp = s.wp := rfl
@[simp] theorem modSeg_pfw : (modSeg g f s).pfw = s.pfw := rfl
@[simp] theorem modSeg_flash : (modSeg g f s).flash = s.flash := rfl
@[simp] theorem modSeg_index : (modSeg g f s).index = s.index := rfl
@[simp] theorem modSeg_segs : (modSeg g f s).segs = Store.modify g f s.segs := rfl
@[simp] theorem modSeg_freeCount : (modSeg g f s).freeCount = s.freeCount := rfl
@[simp] theorem modSeg_lowFree : (modSeg g f s).lowFree = s.lowFree := rfl
@[simp] theorem modSeg_urgent : (modSeg g f s).urgent = s.urgent := rfl
@[simp] theorem modSeg_ordinary : (modSeg g f s).ordinary = s.ordinary := rfl
@[simp] theorem modSeg_spaces : (modSeg g f s).spaces = s.spaces := rfl
@[simp] theorem modSeg_nextSeq : (modSeg g f s).nextSeq = s.nextSeq := rfl
@[simp] theorem modSeg_nextStamp : (modSeg g f s).nextStamp = s.nextStamp := rfl
@[simp] theorem modSeg_host : (modSeg g f s).host = s.host := rfl
@[simp] theorem modSeg_reloc : (modSeg g f s).reloc = s.reloc := rfl
@[simp] theorem modSeg_commitTimer : (modSeg g f s).commitTimer = s.commitTimer := rfl
@[simp] theorem modSeg_syncMarks : (modSeg g f s).syncMarks = s.syncMarks := rfl
@[simp] theorem modSeg_arr : (modSeg g f s).arr = s.arr := rfl
@[simp] theorem modSeg_comp : (modSeg g f s).comp = s.comp := rfl
@[simp] theorem modSeg_patrol : (modSeg g f s).patrol = s.patrol := rfl
@[simp] theorem modSeg_params : (modSeg g f s).params = s.params := rfl
@[simp] theorem modSeg_cat : (modSeg g f s).cat = s.cat := rfl
@[simp] theorem modSeg_startup : (modSeg g f s).startup = s.startup := rfl
@[simp] theorem modSeg_link : (modSeg g f s).link = s.link := rfl
@[simp] theorem modSeg_engine : (modSeg g f s).engine = s.engine := rfl
@[simp] theorem modSeg_freeDraws : (modSeg g f s).freeDraws = s.freeDraws := rfl
@[simp] theorem modSeg_pending : (modSeg g f s).pending = s.pending := rfl

end

section
variable (n : Nat) (f : SpaceRec → SpaceRec) (s : State)

@[simp] theorem modSpace_powered : (modSpace n f s).powered = s.powered := rfl
@[simp] theorem modSpace_rst : (modSpace n f s).rst = s.rst := rfl
@[simp] theorem modSpace_wp : (modSpace n f s).wp = s.wp := rfl
@[simp] theorem modSpace_pfw : (modSpace n f s).pfw = s.pfw := rfl
@[simp] theorem modSpace_flash : (modSpace n f s).flash = s.flash := rfl
@[simp] theorem modSpace_index : (modSpace n f s).index = s.index := rfl
@[simp] theorem modSpace_segs : (modSpace n f s).segs = s.segs := rfl
@[simp] theorem modSpace_freeCount : (modSpace n f s).freeCount = s.freeCount := rfl
@[simp] theorem modSpace_lowFree : (modSpace n f s).lowFree = s.lowFree := rfl
@[simp] theorem modSpace_urgent : (modSpace n f s).urgent = s.urgent := rfl
@[simp] theorem modSpace_ordinary : (modSpace n f s).ordinary = s.ordinary := rfl
@[simp] theorem modSpace_spaces : (modSpace n f s).spaces = Store.modify n f s.spaces := rfl
@[simp] theorem modSpace_nextSeq : (modSpace n f s).nextSeq = s.nextSeq := rfl
@[simp] theorem modSpace_nextStamp : (modSpace n f s).nextStamp = s.nextStamp := rfl
@[simp] theorem modSpace_host : (modSpace n f s).host = s.host := rfl
@[simp] theorem modSpace_reloc : (modSpace n f s).reloc = s.reloc := rfl
@[simp] theorem modSpace_commitTimer : (modSpace n f s).commitTimer = s.commitTimer := rfl
@[simp] theorem modSpace_syncMarks : (modSpace n f s).syncMarks = s.syncMarks := rfl
@[simp] theorem modSpace_arr : (modSpace n f s).arr = s.arr := rfl
@[simp] theorem modSpace_comp : (modSpace n f s).comp = s.comp := rfl
@[simp] theorem modSpace_patrol : (modSpace n f s).patrol = s.patrol := rfl
@[simp] theorem modSpace_params : (modSpace n f s).params = s.params := rfl
@[simp] theorem modSpace_cat : (modSpace n f s).cat = s.cat := rfl
@[simp] theorem modSpace_startup : (modSpace n f s).startup = s.startup := rfl
@[simp] theorem modSpace_link : (modSpace n f s).link = s.link := rfl
@[simp] theorem modSpace_engine : (modSpace n f s).engine = s.engine := rfl
@[simp] theorem modSpace_freeDraws : (modSpace n f s).freeDraws = s.freeDraws := rfl
@[simp] theorem modSpace_pending : (modSpace n f s).pending = s.pending := rfl

end

section
variable (f : Link → Link) (s : State)

@[simp] theorem modLink_powered : (modLink f s).powered = s.powered := rfl
@[simp] theorem modLink_rst : (modLink f s).rst = s.rst := rfl
@[simp] theorem modLink_wp : (modLink f s).wp = s.wp := rfl
@[simp] theorem modLink_pfw : (modLink f s).pfw = s.pfw := rfl
@[simp] theorem modLink_flash : (modLink f s).flash = s.flash := rfl
@[simp] theorem modLink_index : (modLink f s).index = s.index := rfl
@[simp] theorem modLink_segs : (modLink f s).segs = s.segs := rfl
@[simp] theorem modLink_freeCount : (modLink f s).freeCount = s.freeCount := rfl
@[simp] theorem modLink_lowFree : (modLink f s).lowFree = s.lowFree := rfl
@[simp] theorem modLink_urgent : (modLink f s).urgent = s.urgent := rfl
@[simp] theorem modLink_ordinary : (modLink f s).ordinary = s.ordinary := rfl
@[simp] theorem modLink_spaces : (modLink f s).spaces = s.spaces := rfl
@[simp] theorem modLink_nextSeq : (modLink f s).nextSeq = s.nextSeq := rfl
@[simp] theorem modLink_nextStamp : (modLink f s).nextStamp = s.nextStamp := rfl
@[simp] theorem modLink_host : (modLink f s).host = s.host := rfl
@[simp] theorem modLink_reloc : (modLink f s).reloc = s.reloc := rfl
@[simp] theorem modLink_commitTimer : (modLink f s).commitTimer = s.commitTimer := rfl
@[simp] theorem modLink_syncMarks : (modLink f s).syncMarks = s.syncMarks := rfl
@[simp] theorem modLink_arr : (modLink f s).arr = s.arr := rfl
@[simp] theorem modLink_comp : (modLink f s).comp = s.comp := rfl
@[simp] theorem modLink_patrol : (modLink f s).patrol = s.patrol := rfl
@[simp] theorem modLink_params : (modLink f s).params = s.params := rfl
@[simp] theorem modLink_cat : (modLink f s).cat = s.cat := rfl
@[simp] theorem modLink_startup : (modLink f s).startup = s.startup := rfl
@[simp] theorem modLink_link : (modLink f s).link = f s.link := rfl
@[simp] theorem modLink_engine : (modLink f s).engine = s.engine := rfl
@[simp] theorem modLink_freeDraws : (modLink f s).freeDraws = s.freeDraws := rfl
@[simp] theorem modLink_pending : (modLink f s).pending = s.pending := rfl

end

section
variable (f : Catalogue → Catalogue) (s : State)

@[simp] theorem modCat_powered : (modCat f s).powered = s.powered := rfl
@[simp] theorem modCat_rst : (modCat f s).rst = s.rst := rfl
@[simp] theorem modCat_wp : (modCat f s).wp = s.wp := rfl
@[simp] theorem modCat_pfw : (modCat f s).pfw = s.pfw := rfl
@[simp] theorem modCat_flash : (modCat f s).flash = s.flash := rfl
@[simp] theorem modCat_index : (modCat f s).index = s.index := rfl
@[simp] theorem modCat_segs : (modCat f s).segs = s.segs := rfl
@[simp] theorem modCat_freeCount : (modCat f s).freeCount = s.freeCount := rfl
@[simp] theorem modCat_lowFree : (modCat f s).lowFree = s.lowFree := rfl
@[simp] theorem modCat_urgent : (modCat f s).urgent = s.urgent := rfl
@[simp] theorem modCat_ordinary : (modCat f s).ordinary = s.ordinary := rfl
@[simp] theorem modCat_spaces : (modCat f s).spaces = s.spaces := rfl
@[simp] theorem modCat_nextSeq : (modCat f s).nextSeq = s.nextSeq := rfl
@[simp] theorem modCat_nextStamp : (modCat f s).nextStamp = s.nextStamp := rfl
@[simp] theorem modCat_host : (modCat f s).host = s.host := rfl
@[simp] theorem modCat_reloc : (modCat f s).reloc = s.reloc := rfl
@[simp] theorem modCat_commitTimer : (modCat f s).commitTimer = s.commitTimer := rfl
@[simp] theorem modCat_syncMarks : (modCat f s).syncMarks = s.syncMarks := rfl
@[simp] theorem modCat_arr : (modCat f s).arr = s.arr := rfl
@[simp] theorem modCat_comp : (modCat f s).comp = s.comp := rfl
@[simp] theorem modCat_patrol : (modCat f s).patrol = s.patrol := rfl
@[simp] theorem modCat_params : (modCat f s).params = s.params := rfl
@[simp] theorem modCat_cat : (modCat f s).cat = f s.cat := rfl
@[simp] theorem modCat_startup : (modCat f s).startup = s.startup := rfl
@[simp] theorem modCat_link : (modCat f s).link = s.link := rfl
@[simp] theorem modCat_engine : (modCat f s).engine = s.engine := rfl
@[simp] theorem modCat_freeDraws : (modCat f s).freeDraws = s.freeDraws := rfl
@[simp] theorem modCat_pending : (modCat f s).pending = s.pending := rfl

end

section
variable (f : Compaction → Compaction) (s : State)

@[simp] theorem modComp_powered : (modComp f s).powered = s.powered := rfl
@[simp] theorem modComp_rst : (modComp f s).rst = s.rst := rfl
@[simp] theorem modComp_wp : (modComp f s).wp = s.wp := rfl
@[simp] theorem modComp_pfw : (modComp f s).pfw = s.pfw := rfl
@[simp] theorem modComp_flash : (modComp f s).flash = s.flash := rfl
@[simp] theorem modComp_index : (modComp f s).index = s.index := rfl
@[simp] theorem modComp_segs : (modComp f s).segs = s.segs := rfl
@[simp] theorem modComp_freeCount : (modComp f s).freeCount = s.freeCount := rfl
@[simp] theorem modComp_lowFree : (modComp f s).lowFree = s.lowFree := rfl
@[simp] theorem modComp_urgent : (modComp f s).urgent = s.urgent := rfl
@[simp] theorem modComp_ordinary : (modComp f s).ordinary = s.ordinary := rfl
@[simp] theorem modComp_spaces : (modComp f s).spaces = s.spaces := rfl
@[simp] theorem modComp_nextSeq : (modComp f s).nextSeq = s.nextSeq := rfl
@[simp] theorem modComp_nextStamp : (modComp f s).nextStamp = s.nextStamp := rfl
@[simp] theorem modComp_host : (modComp f s).host = s.host := rfl
@[simp] theorem modComp_reloc : (modComp f s).reloc = s.reloc := rfl
@[simp] theorem modComp_commitTimer : (modComp f s).commitTimer = s.commitTimer := rfl
@[simp] theorem modComp_syncMarks : (modComp f s).syncMarks = s.syncMarks := rfl
@[simp] theorem modComp_arr : (modComp f s).arr = s.arr := rfl
@[simp] theorem modComp_comp : (modComp f s).comp = f s.comp := rfl
@[simp] theorem modComp_patrol : (modComp f s).patrol = s.patrol := rfl
@[simp] theorem modComp_params : (modComp f s).params = s.params := rfl
@[simp] theorem modComp_cat : (modComp f s).cat = s.cat := rfl
@[simp] theorem modComp_startup : (modComp f s).startup = s.startup := rfl
@[simp] theorem modComp_link : (modComp f s).link = s.link := rfl
@[simp] theorem modComp_engine : (modComp f s).engine = s.engine := rfl
@[simp] theorem modComp_freeDraws : (modComp f s).freeDraws = s.freeDraws := rfl
@[simp] theorem modComp_pending : (modComp f s).pending = s.pending := rfl

end

section
variable (cls : ClaimClass) (o : Originator) (op : ClaimOp) (s : State)

@[simp] theorem makeClaim_powered : (makeClaim cls o op s).powered = s.powered := rfl
@[simp] theorem makeClaim_rst : (makeClaim cls o op s).rst = s.rst := rfl
@[simp] theorem makeClaim_wp : (makeClaim cls o op s).wp = s.wp := rfl
@[simp] theorem makeClaim_pfw : (makeClaim cls o op s).pfw = s.pfw := rfl
@[simp] theorem makeClaim_flash : (makeClaim cls o op s).flash = s.flash := rfl
@[simp] theorem makeClaim_index : (makeClaim cls o op s).index = s.index := rfl
@[simp] theorem makeClaim_segs : (makeClaim cls o op s).segs = s.segs := rfl
@[simp] theorem makeClaim_freeCount : (makeClaim cls o op s).freeCount = s.freeCount := rfl
@[simp] theorem makeClaim_lowFree : (makeClaim cls o op s).lowFree = s.lowFree := rfl
@[simp] theorem makeClaim_urgent : (makeClaim cls o op s).urgent = s.urgent := rfl
@[simp] theorem makeClaim_ordinary : (makeClaim cls o op s).ordinary = s.ordinary := rfl
@[simp] theorem makeClaim_spaces : (makeClaim cls o op s).spaces = s.spaces := rfl
@[simp] theorem makeClaim_nextSeq : (makeClaim cls o op s).nextSeq = s.nextSeq := rfl
@[simp] theorem makeClaim_nextStamp : (makeClaim cls o op s).nextStamp = s.nextStamp := rfl
@[simp] theorem makeClaim_host : (makeClaim cls o op s).host = s.host := rfl
@[simp] theorem makeClaim_reloc : (makeClaim cls o op s).reloc = s.reloc := rfl
@[simp] theorem makeClaim_commitTimer : (makeClaim cls o op s).commitTimer = s.commitTimer := rfl
@[simp] theorem makeClaim_syncMarks : (makeClaim cls o op s).syncMarks = s.syncMarks := rfl
@[simp] theorem makeClaim_arr : (makeClaim cls o op s).arr = s.arr.claim ⟨cls, o, op⟩ := rfl
@[simp] theorem makeClaim_comp : (makeClaim cls o op s).comp = s.comp := rfl
@[simp] theorem makeClaim_patrol : (makeClaim cls o op s).patrol = s.patrol := rfl
@[simp] theorem makeClaim_params : (makeClaim cls o op s).params = s.params := rfl
@[simp] theorem makeClaim_cat : (makeClaim cls o op s).cat = s.cat := rfl
@[simp] theorem makeClaim_startup : (makeClaim cls o op s).startup = s.startup := rfl
@[simp] theorem makeClaim_link : (makeClaim cls o op s).link = s.link := rfl
@[simp] theorem makeClaim_engine : (makeClaim cls o op s).engine = s.engine := rfl
@[simp] theorem makeClaim_freeDraws : (makeClaim cls o op s).freeDraws = s.freeDraws := rfl
@[simp] theorem makeClaim_pending : (makeClaim cls o op s).pending = s.pending := rfl

end

section
variable (op : Option ArrayOp) (s : State)

@[simp] theorem startOp_powered : (startOp op s).powered = s.powered := rfl
@[simp] theorem startOp_rst : (startOp op s).rst = s.rst := rfl
@[simp] theorem startOp_wp : (startOp op s).wp = s.wp := rfl
@[simp] theorem startOp_pfw : (startOp op s).pfw = s.pfw := rfl
@[simp] theorem startOp_flash : (startOp op s).flash = s.flash := rfl
@[simp] theorem startOp_index : (startOp op s).index = s.index := rfl
@[simp] theorem startOp_segs : (startOp op s).segs = s.segs := rfl
@[simp] theorem startOp_freeCount : (startOp op s).freeCount = s.freeCount := rfl
@[simp] theorem startOp_lowFree : (startOp op s).lowFree = s.lowFree := rfl
@[simp] theorem startOp_urgent : (startOp op s).urgent = s.urgent := rfl
@[simp] theorem startOp_ordinary : (startOp op s).ordinary = s.ordinary := rfl
@[simp] theorem startOp_spaces : (startOp op s).spaces = s.spaces := rfl
@[simp] theorem startOp_nextSeq : (startOp op s).nextSeq = s.nextSeq := rfl
@[simp] theorem startOp_nextStamp : (startOp op s).nextStamp = s.nextStamp := rfl
@[simp] theorem startOp_host : (startOp op s).host = s.host := rfl
@[simp] theorem startOp_reloc : (startOp op s).reloc = s.reloc := rfl
@[simp] theorem startOp_commitTimer : (startOp op s).commitTimer = s.commitTimer := rfl
@[simp] theorem startOp_syncMarks : (startOp op s).syncMarks = s.syncMarks := rfl
@[simp] theorem startOp_arr : (startOp op s).arr = { s.arr with op := op } := rfl
@[simp] theorem startOp_comp : (startOp op s).comp = s.comp := rfl
@[simp] theorem startOp_patrol : (startOp op s).patrol = s.patrol := rfl
@[simp] theorem startOp_params : (startOp op s).params = s.params := rfl
@[simp] theorem startOp_cat : (startOp op s).cat = s.cat := rfl
@[simp] theorem startOp_startup : (startOp op s).startup = s.startup := rfl
@[simp] theorem startOp_link : (startOp op s).link = s.link := rfl
@[simp] theorem startOp_engine : (startOp op s).engine = s.engine := rfl
@[simp] theorem startOp_freeDraws : (startOp op s).freeDraws = s.freeDraws := rfl
@[simp] theorem startOp_pending : (startOp op s).pending = s.pending := rfl

end

section
variable (seg page : Nat) (data : PageData) (q : Quality) (s : State)

@[simp] theorem setPage_powered : (setPage seg page data q s).powered = s.powered := rfl
@[simp] theorem setPage_rst : (setPage seg page data q s).rst = s.rst := rfl
@[simp] theorem setPage_wp : (setPage seg page data q s).wp = s.wp := rfl
@[simp] theorem setPage_pfw : (setPage seg page data q s).pfw = s.pfw := rfl
@[simp] theorem setPage_flash : (setPage seg page data q s).flash = Store.put (pageAddr seg page) ⟨some data, q⟩ s.flash := rfl
@[simp] theorem setPage_index : (setPage seg page data q s).index = s.index := rfl
@[simp] theorem setPage_segs : (setPage seg page data q s).segs = s.segs := rfl
@[simp] theorem setPage_freeCount : (setPage seg page data q s).freeCount = s.freeCount := rfl
@[simp] theorem setPage_lowFree : (setPage seg page data q s).lowFree = s.lowFree := rfl
@[simp] theorem setPage_urgent : (setPage seg page data q s).urgent = s.urgent := rfl
@[simp] theorem setPage_ordinary : (setPage seg page data q s).ordinary = s.ordinary := rfl
@[simp] theorem setPage_spaces : (setPage seg page data q s).spaces = s.spaces := rfl
@[simp] theorem setPage_nextSeq : (setPage seg page data q s).nextSeq = s.nextSeq := rfl
@[simp] theorem setPage_nextStamp : (setPage seg page data q s).nextStamp = s.nextStamp := rfl
@[simp] theorem setPage_host : (setPage seg page data q s).host = s.host := rfl
@[simp] theorem setPage_reloc : (setPage seg page data q s).reloc = s.reloc := rfl
@[simp] theorem setPage_commitTimer : (setPage seg page data q s).commitTimer = s.commitTimer := rfl
@[simp] theorem setPage_syncMarks : (setPage seg page data q s).syncMarks = s.syncMarks := rfl
@[simp] theorem setPage_arr : (setPage seg page data q s).arr = s.arr := rfl
@[simp] theorem setPage_comp : (setPage seg page data q s).comp = s.comp := rfl
@[simp] theorem setPage_patrol : (setPage seg page data q s).patrol = s.patrol := rfl
@[simp] theorem setPage_params : (setPage seg page data q s).params = s.params := rfl
@[simp] theorem setPage_cat : (setPage seg page data q s).cat = s.cat := rfl
@[simp] theorem setPage_startup : (setPage seg page data q s).startup = s.startup := rfl
@[simp] theorem setPage_link : (setPage seg page data q s).link = s.link := rfl
@[simp] theorem setPage_engine : (setPage seg page data q s).engine = s.engine := rfl
@[simp] theorem setPage_freeDraws : (setPage seg page data q s).freeDraws = s.freeDraws := rfl
@[simp] theorem setPage_pending : (setPage seg page data q s).pending = s.pending := rfl

end

section
variable (seg : Nat) (s : State)

@[simp] theorem blankSegment_powered : (blankSegment seg s).powered = s.powered := rfl
@[simp] theorem blankSegment_rst : (blankSegment seg s).rst = s.rst := rfl
@[simp] theorem blankSegment_wp : (blankSegment seg s).wp = s.wp := rfl
@[simp] theorem blankSegment_pfw : (blankSegment seg s).pfw = s.pfw := rfl
@[simp] theorem blankSegment_flash : (blankSegment seg s).flash = s.flash.filter (fun p => !inSegment seg p.1) := rfl
@[simp] theorem blankSegment_index : (blankSegment seg s).index = s.index := rfl
@[simp] theorem blankSegment_segs : (blankSegment seg s).segs = s.segs := rfl
@[simp] theorem blankSegment_freeCount : (blankSegment seg s).freeCount = s.freeCount := rfl
@[simp] theorem blankSegment_lowFree : (blankSegment seg s).lowFree = s.lowFree := rfl
@[simp] theorem blankSegment_urgent : (blankSegment seg s).urgent = s.urgent := rfl
@[simp] theorem blankSegment_ordinary : (blankSegment seg s).ordinary = s.ordinary := rfl
@[simp] theorem blankSegment_spaces : (blankSegment seg s).spaces = s.spaces := rfl
@[simp] theorem blankSegment_nextSeq : (blankSegment seg s).nextSeq = s.nextSeq := rfl
@[simp] theorem blankSegment_nextStamp : (blankSegment seg s).nextStamp = s.nextStamp := rfl
@[simp] theorem blankSegment_host : (blankSegment seg s).host = s.host := rfl
@[simp] theorem blankSegment_reloc : (blankSegment seg s).reloc = s.reloc := rfl
@[simp] theorem blankSegment_commitTimer : (blankSegment seg s).commitTimer = s.commitTimer := rfl
@[simp] theorem blankSegment_syncMarks : (blankSegment seg s).syncMarks = s.syncMarks := rfl
@[simp] theorem blankSegment_arr : (blankSegment seg s).arr = s.arr := rfl
@[simp] theorem blankSegment_comp : (blankSegment seg s).comp = s.comp := rfl
@[simp] theorem blankSegment_patrol : (blankSegment seg s).patrol = s.patrol := rfl
@[simp] theorem blankSegment_params : (blankSegment seg s).params = s.params := rfl
@[simp] theorem blankSegment_cat : (blankSegment seg s).cat = s.cat := rfl
@[simp] theorem blankSegment_startup : (blankSegment seg s).startup = s.startup := rfl
@[simp] theorem blankSegment_link : (blankSegment seg s).link = s.link := rfl
@[simp] theorem blankSegment_engine : (blankSegment seg s).engine = s.engine := rfl
@[simp] theorem blankSegment_freeDraws : (blankSegment seg s).freeDraws = s.freeDraws := rfl
@[simp] theorem blankSegment_pending : (blankSegment seg s).pending = s.pending := rfl

end

section
variable (n : Nat) (st : Status) (d : ReplyData) (s : State)

@[simp] theorem answer_powered : (answer n st d s).powered = s.powered := rfl
@[simp] theorem answer_rst : (answer n st d s).rst = s.rst := rfl
@[simp] theorem answer_wp : (answer n st d s).wp = s.wp := rfl
@[simp] theorem answer_pfw : (answer n st d s).pfw = s.pfw := rfl
@[simp] theorem answer_flash : (answer n st d s).flash = s.flash := rfl
@[simp] theorem answer_index : (answer n st d s).index = s.index := rfl
@[simp] theorem answer_segs : (answer n st d s).segs = s.segs := rfl
@[simp] theorem answer_freeCount : (answer n st d s).freeCount = s.freeCount := rfl
@[simp] theorem answer_lowFree : (answer n st d s).lowFree = s.lowFree := rfl
@[simp] theorem answer_urgent : (answer n st d s).urgent = s.urgent := rfl
@[simp] theorem answer_ordinary : (answer n st d s).ordinary = s.ordinary := rfl
@[simp] theorem answer_spaces : (answer n st d s).spaces = s.spaces := rfl
@[simp] theorem answer_nextSeq : (answer n st d s).nextSeq = s.nextSeq := rfl
@[simp] theorem answer_nextStamp : (answer n st d s).nextStamp = s.nextStamp := rfl
@[simp] theorem answer_host : (answer n st d s).host = s.host := rfl
@[simp] theorem answer_reloc : (answer n st d s).reloc = s.reloc := rfl
@[simp] theorem answer_commitTimer : (answer n st d s).commitTimer = s.commitTimer := rfl
@[simp] theorem answer_syncMarks : (answer n st d s).syncMarks = s.syncMarks := rfl
@[simp] theorem answer_arr : (answer n st d s).arr = s.arr := rfl
@[simp] theorem answer_comp : (answer n st d s).comp = s.comp := rfl
@[simp] theorem answer_patrol : (answer n st d s).patrol = s.patrol := rfl
@[simp] theorem answer_params : (answer n st d s).params = s.params := rfl
@[simp] theorem answer_cat : (answer n st d s).cat = s.cat := rfl
@[simp] theorem answer_startup : (answer n st d s).startup = s.startup := rfl
@[simp] theorem answer_link : (answer n st d s).link = { s.link with slots := Store.modify n (Slot.answered st d) s.link.slots } := rfl
@[simp] theorem answer_engine : (answer n st d s).engine = s.engine.release n := rfl
@[simp] theorem answer_freeDraws : (answer n st d s).freeDraws = s.freeDraws := rfl
@[simp] theorem answer_pending : (answer n st d s).pending = s.pending := rfl

end

section
variable (f : Stream → Stream) (s : State)

@[simp] theorem hostStream_powered : (modStream .host f s).powered = s.powered := rfl
@[simp] theorem hostStream_rst : (modStream .host f s).rst = s.rst := rfl
@[simp] theorem hostStream_wp : (modStream .host f s).wp = s.wp := rfl
@[simp] theorem hostStream_pfw : (modStream .host f s).pfw = s.pfw := rfl
@[simp] theorem hostStream_flash : (modStream .host f s).flash = s.flash := rfl
@[simp] theorem hostStream_index : (modStream .host f s).index = s.index := rfl
@[simp] theorem hostStream_segs : (modStream .host f s).segs = s.segs := rfl
@[simp] theorem hostStream_freeCount : (modStream .host f s).freeCount = s.freeCount := rfl
@[simp] theorem hostStream_lowFree : (modStream .host f s).lowFree = s.lowFree := rfl
@[simp] theorem hostStream_urgent : (modStream .host f s).urgent = s.urgent := rfl
@[simp] theorem hostStream_ordinary : (modStream .host f s).ordinary = s.ordinary := rfl
@[simp] theorem hostStream_spaces : (modStream .host f s).spaces = s.spaces := rfl
@[simp] theorem hostStream_nextSeq : (modStream .host f s).nextSeq = s.nextSeq := rfl
@[simp] theorem hostStream_nextStamp : (modStream .host f s).nextStamp = s.nextStamp := rfl
@[simp] theorem hostStream_host : (modStream .host f s).host = f s.host := rfl
@[simp] theorem hostStream_reloc : (modStream .host f s).reloc = s.reloc := rfl
@[simp] theorem hostStream_commitTimer : (modStream .host f s).commitTimer = s.commitTimer := rfl
@[simp] theorem hostStream_syncMarks : (modStream .host f s).syncMarks = s.syncMarks := rfl
@[simp] theorem hostStream_arr : (modStream .host f s).arr = s.arr := rfl
@[simp] theorem hostStream_comp : (modStream .host f s).comp = s.comp := rfl
@[simp] theorem hostStream_patrol : (modStream .host f s).patrol = s.patrol := rfl
@[simp] theorem hostStream_params : (modStream .host f s).params = s.params := rfl
@[simp] theorem hostStream_cat : (modStream .host f s).cat = s.cat := rfl
@[simp] theorem hostStream_startup : (modStream .host f s).startup = s.startup := rfl
@[simp] theorem hostStream_link : (modStream .host f s).link = s.link := rfl
@[simp] theorem hostStream_engine : (modStream .host f s).engine = s.engine := rfl
@[simp] theorem hostStream_freeDraws : (modStream .host f s).freeDraws = s.freeDraws := rfl
@[simp] theorem hostStream_pending : (modStream .host f s).pending = s.pending := rfl

end

section
variable (f : Stream → Stream) (s : State)

@[simp] theorem relocStream_powered : (modStream .relocate f s).powered = s.powered := rfl
@[simp] theorem relocStream_rst : (modStream .relocate f s).rst = s.rst := rfl
@[simp] theorem relocStream_wp : (modStream .relocate f s).wp = s.wp := rfl
@[simp] theorem relocStream_pfw : (modStream .relocate f s).pfw = s.pfw := rfl
@[simp] theorem relocStream_flash : (modStream .relocate f s).flash = s.flash := rfl
@[simp] theorem relocStream_index : (modStream .relocate f s).index = s.index := rfl
@[simp] theorem relocStream_segs : (modStream .relocate f s).segs = s.segs := rfl
@[simp] theorem relocStream_freeCount : (modStream .relocate f s).freeCount = s.freeCount := rfl
@[simp] theorem relocStream_lowFree : (modStream .relocate f s).lowFree = s.lowFree := rfl
@[simp] theorem relocStream_urgent : (modStream .relocate f s).urgent = s.urgent := rfl
@[simp] theorem relocStream_ordinary : (modStream .relocate f s).ordinary = s.ordinary := rfl
@[simp] theorem relocStream_spaces : (modStream .relocate f s).spaces = s.spaces := rfl
@[simp] theorem relocStream_nextSeq : (modStream .relocate f s).nextSeq = s.nextSeq := rfl
@[simp] theorem relocStream_nextStamp : (modStream .relocate f s).nextStamp = s.nextStamp := rfl
@[simp] theorem relocStream_host : (modStream .relocate f s).host = s.host := rfl
@[simp] theorem relocStream_reloc : (modStream .relocate f s).reloc = f s.reloc := rfl
@[simp] theorem relocStream_commitTimer : (modStream .relocate f s).commitTimer = s.commitTimer := rfl
@[simp] theorem relocStream_syncMarks : (modStream .relocate f s).syncMarks = s.syncMarks := rfl
@[simp] theorem relocStream_arr : (modStream .relocate f s).arr = s.arr := rfl
@[simp] theorem relocStream_comp : (modStream .relocate f s).comp = s.comp := rfl
@[simp] theorem relocStream_patrol : (modStream .relocate f s).patrol = s.patrol := rfl
@[simp] theorem relocStream_params : (modStream .relocate f s).params = s.params := rfl
@[simp] theorem relocStream_cat : (modStream .relocate f s).cat = s.cat := rfl
@[simp] theorem relocStream_startup : (modStream .relocate f s).startup = s.startup := rfl
@[simp] theorem relocStream_link : (modStream .relocate f s).link = s.link := rfl
@[simp] theorem relocStream_engine : (modStream .relocate f s).engine = s.engine := rfl
@[simp] theorem relocStream_freeDraws : (modStream .relocate f s).freeDraws = s.freeDraws := rfl
@[simp] theorem relocStream_pending : (modStream .relocate f s).pending = s.pending := rfl

end

section
variable (n : Nat) (s : State)

@[simp] theorem takenSlot_powered : (takenSlot n s).powered = s.powered := rfl
@[simp] theorem takenSlot_rst : (takenSlot n s).rst = s.rst := rfl
@[simp] theorem takenSlot_wp : (takenSlot n s).wp = s.wp := rfl
@[simp] theorem takenSlot_pfw : (takenSlot n s).pfw = s.pfw := rfl
@[simp] theorem takenSlot_flash : (takenSlot n s).flash = s.flash := rfl
@[simp] theorem takenSlot_index : (takenSlot n s).index = s.index := rfl
@[simp] theorem takenSlot_segs : (takenSlot n s).segs = s.segs := rfl
@[simp] theorem takenSlot_freeCount : (takenSlot n s).freeCount = s.freeCount := rfl
@[simp] theorem takenSlot_lowFree : (takenSlot n s).lowFree = s.lowFree := rfl
@[simp] theorem takenSlot_urgent : (takenSlot n s).urgent = s.urgent := rfl
@[simp] theorem takenSlot_ordinary : (takenSlot n s).ordinary = s.ordinary := rfl
@[simp] theorem takenSlot_spaces : (takenSlot n s).spaces = s.spaces := rfl
@[simp] theorem takenSlot_nextSeq : (takenSlot n s).nextSeq = s.nextSeq := rfl
@[simp] theorem takenSlot_nextStamp : (takenSlot n s).nextStamp = s.nextStamp := rfl
@[simp] theorem takenSlot_host : (takenSlot n s).host = s.host := rfl
@[simp] theorem takenSlot_reloc : (takenSlot n s).reloc = s.reloc := rfl
@[simp] theorem takenSlot_commitTimer : (takenSlot n s).commitTimer = s.commitTimer := rfl
@[simp] theorem takenSlot_syncMarks : (takenSlot n s).syncMarks = s.syncMarks := rfl
@[simp] theorem takenSlot_arr : (takenSlot n s).arr = s.arr := rfl
@[simp] theorem takenSlot_comp : (takenSlot n s).comp = s.comp := rfl
@[simp] theorem takenSlot_patrol : (takenSlot n s).patrol = s.patrol := rfl
@[simp] theorem takenSlot_params : (takenSlot n s).params = s.params := rfl
@[simp] theorem takenSlot_cat : (takenSlot n s).cat = s.cat := rfl
@[simp] theorem takenSlot_startup : (takenSlot n s).startup = s.startup := rfl
@[simp] theorem takenSlot_link : (takenSlot n s).link = (modSlot n (fun sl => { sl with state := .active }) s).link := rfl
@[simp] theorem takenSlot_engine : (takenSlot n s).engine = { s.engine with active := some n } := rfl
@[simp] theorem takenSlot_freeDraws : (takenSlot n s).freeDraws = s.freeDraws := rfl
@[simp] theorem takenSlot_pending : (takenSlot n s).pending = s.pending := rfl

end

end Sys2Proof.Machine
end

