-- ==== Sys2Proof/WellFormed.lean ====
section
/-! DEFINITION. WellFormed.lean: the operand values a command can have. A command outside them names an event that
cannot happen: the meanings are total all the same. -/

namespace Sys2Proof

/-- A corrected count lies from 0 to 12 (R71). -/
def Codewords.countFits : Option Nat → Bool
  | none => true
  | some n => decide (n ≤ 12)

/-- The four counts lie in their range (R71). -/
def Codewords.fits (c : Codewords) : Bool :=
  Codewords.countFits c.c0 && Codewords.countFits c.c1 && Codewords.countFits c.c2 && Codewords.countFits c.c3

/-- No codeword is UNCORRECTABLE. -/
def Codewords.clean (c : Codewords) : Bool := c.c0.isSome && c.c1.isSome && c.c2.isSome && c.c3.isSome

/-- A check passes only with every codeword corrected, mismatches are cells 0 to 15, and a page that passes its check has
none (R71(2), R19, R115). -/
def ReadReport.wellFormed : ReadReport → Bool
  | .blank => true
  | .written cws trailer check mismatch =>
    Codewords.fits cws && (!check || Codewords.clean cws) && mismatch.all (fun c => decide (c < Config.cells)) &&
      (!(check && trailer) || mismatch.isEmpty)

/-- The body of a received frame has the length its length field states, at most 1,040 bytes (R173). -/
def RxFrame.wellFormed (f : RxFrame) : Bool :=
  decide (f.length.toNat ≤ Config.maxBody) && f.body.length == f.length.toNat

/-- The operands of a command lie in their ranges. -/
def Instr.wellFormed : Instr → Bool
  | .powerOn => true
  | .powerLoss => true
  | .rstAsserted => true
  | .rstDeasserted => true
  | .wpChanged _ => true
  | .pfwAsserted => true
  | .pfwDeasserted => true
  | .lengthError => true
  | .frameCheckFailed => true
  | .receiverTimeout => true
  | .frameReceived f => RxFrame.wellFormed f
  | .identify _ => true
  | .status _ => true
  | .cancel _ _ => true
  | .reset _ => true
  | .resetReplyBuilt => true
  | .put => true
  | .delete => true
  | .get => true
  | .list => true
  | .sync => true
  | .compact => true
  | .segmentInfo => true
  | .spaceInfo => true
  | .setParam => true
  | .freeze => true
  | .setPolicy => true
  | .setQuota => true
  | .clearSpace => true
  | .format => true
  | .formatEmptying => true
  | .frameSent => true
  | .commitWindowExpiry => true
  | .patrolTimerExpiry => true
  | .arrayOperationTimeout => true
  | .eraseSuspendTimeout => true
  | .readCompletion r => ReadReport.wellFormed r
  | .programCompletion _ => true
  | .eraseCompletion _ => true
  | .eraseSuspended => true
  | .waitingEntryPlaced _ => true
  | .heldRequestProceeds => true
  | .evacuationEnd => true
  | .frameStartMarker => true

end Sys2Proof
end

