-- ==== Sys2Proof/Tests/Slice0.lean ====
section
/-! SUPPORT. Tests/Slice0.lean: small checks of the model against numbers the manual gives, and, for every statement with
hypotheses, a concrete state that meets them. -/

namespace Sys2Proof.Tests

open Sys2Proof Sys2Proof.Machine

/-! ## States -/

/-- A segment record in a state, with an erase count. -/
def rec (st : SegState) (n : Nat) : SegRec where
  state := st
  stream := none
  eraseCount := n
  strikes := 0
  openStamp := none
  nextPage := none
  live := 0
  lowestSeq := none
  worst := .bits 0
  reason := none
  cause := none

/-- Segment 2 as the HOST stream has it open. -/
def openRec : SegRec := { rec .opened 1 with stream := some .host, openStamp := some 1, nextPage := some 1 }

/-- Segment 3, FULL. -/
def fullRec : SegRec := { rec .full 2 with openStamp := some 7 }

/-- READY: segment 2 open for the HOST stream, 3 FULL, 4 to 8 FREE, 16 fresh spaces, the array idle, inside a frame. -/
def ready : State := { State.reset with
  segs := [(2, openRec), (3, fullRec), (4, rec .free 3), (5, rec .free 2), (6, rec .free 2), (7, rec .free 4),
    (8, rec .free 4)]
  freeCount := 5
  spaces := numbered (List.replicate 16 (SpaceRec.fresh false))
  nextSeq := some 5
  nextStamp := some 9
  host := { Stream.empty with openSeg := some 2 }
  arr := ArrayCtl.idle
  startup := { mode := .ready, cause := none, pendingCause := none, mount := none, format := none }
  link := { Link.empty with inside := true } }

/-- A request in a state of its slot. -/
def slotIn (st : SlotState) (r : Request) : Slot := ⟨1#8, r, 1, st, none, none⟩

/-- The part with one slot occupied. -/
def holding (sl : Slot) (s : State) : State := { s with link := { s.link with slots := [(0, sl)] } }

/-- READY with one request QUEUED. -/
def asked (r : Request) : State := holding (slotIn .queued r) ready

/-- The held part. -/
def heldPart : State := { State.reset with rst := true }

/-- The state a command leads to. -/
def after (c : Instr) (s : State) : State :=
  match exec c s with
  | .next t => t
  | _ => s

/-- The key of the tests: space 1, item 2. -/
def key : Key := ⟨1, 2⟩

/-- The index with one entry for the key. -/
def withEntry (e : IndexEntry) (s : State) : State := { s with index := [(Key.code key, e)] }

/-- A LIVE entry located in segment 3. -/
def liveEntry (programmed : Bool) : IndexEntry := .live 3 10 1 ⟨3, 1, 0⟩ programmed

/-- A PUT of two bytes. -/
def aPut : Request := .put key false none [1#8, 2#8]

/-- READY with the requested slot taken and held by the engine in some slot state. -/
def working (st : SlotState) (r : Request) : State :=
  { holding (slotIn st r) ready with engine := ⟨some 0, false⟩ }

/-- A record in a buffer. -/
def placed : Placed := ⟨0, .record key 5 2 (Config.valueCheck [1#8, 2#8]) [1#8, 2#8]⟩

/-- A page in flight of the HOST stream. -/
def flying : InFlight := ⟨2, 1, [placed], buildTrailer .host 1 1 [placed]⟩

/-- The part with an operation running in the array. -/
def running (op : ArrayOp) (s : State) : State := { s with arr := { ArrayCtl.idle with op := some op } }

/-! ## Numbers of the manual -/

/-- R2: the cells of values of 0, 240, 241, 1,007 and 1,008 bytes. -/
theorem test_cells_of_values : [0, 240, 241, 1007, 1008].map cellsOf = [1, 1, 2, 4, 4] := by decide

set_option maxRecDepth 100000 in
/-- R198: the check of the nine digits. -/
theorem test_frame_check_of_digits :
    frameCheck [0x31#8, 0x32#8, 0x33#8, 0x34#8, 0x35#8, 0x36#8, 0x37#8, 0x38#8, 0x39#8] = 0x29B1#16 := by decide

/-- R198: fields are sent least significant byte first. -/
theorem test_field_order : leBytes 3 0x123456 = [0x56#8, 0x34#8, 0x12#8] := by decide

/-- Table 0-2: 752 cells per data segment and 768,544 in all. -/
theorem test_capacity : Config.cells * Config.lastPage = 752 ∧
    752 * (Config.segments - Config.firstData) = Config.maxQuota := by decide

/-- R158: POWER_ON of a blank part leads to the state right after reset. -/
theorem test_power_on : exec .powerOn { heldPart with rst := false } = .next State.reset := by rfl

/-- Table 11-6: a PUT body with DURABLE and an expected sequence. -/
theorem test_parse_put : parseQueued 0x10#8 [1#8, 2#8, 0#8, 3#8, 7#8, 0#8, 0#8, 0#8, 0#8, 0#8, 1#8, 0#8, 9#8] =
    some (.put ⟨1, 2⟩ true (some 7) [9#8]) := by decide

/-- R190: a LIST names a maximum of 1 to 64. -/
theorem test_parse_list_bounds : parseQueued 0x13#8 [1#8, 0#8, 65#8] = none ∧
    parseQueued 0x13#8 [1#8, 0#8, 64#8] = some (.list 1 none 64) := by decide

/-- R7, R57: a PUT that is not durable is answered OK with its sequence, and the next sequence rises. -/
theorem test_put_answers_sequence : (after .put (asked aPut)).nextSeq = some 6 ∧
    (slotAt 0 (after .put (asked aPut))).bind Slot.reply = some (.ok, .sequence 5) := by decide

/-- R48, R51: the record lies at cell 0 of page 1, not programmed. -/
theorem test_put_location : lookup key (after .put (asked aPut)) = some (.live 5 2 1 ⟨2, 1, 0⟩ false) := by decide

/-- R9: a DELETE of an absent key is answered NOT_FOUND and consumes no sequence. -/
theorem test_delete_absent : (slotAt 0 (after .delete (asked (.delete key false none)))).bind Slot.reply =
    some (.notFound, .none) ∧ (after .delete (asked (.delete key false none))).nextSeq = some 5 := by decide

/-- Table 11-3: compaction start 23 is refused beside stop 24, and 22 is taken. -/
theorem test_set_param_watermarks : (after .setParam (asked (.setParam 4 23))).params.compactStart = 16 ∧
    (after .setParam (asked (.setParam 4 22))).params.compactStart = 22 := by decide

/-- R31: the ask takes the least worn segment, the lowest number among equals. -/
theorem test_least_worn : (leastWornFree ready.segs).map Prod.fst = some 5 := by decide

/-- R186: the twelfth notice is an OVERFLOW with count 1, and a further one raises the count. -/
theorem test_notice_overflow : pushNotice (.spaceLow 4) (List.replicate 11 (.spaceLow 3)) =
    List.replicate 11 (.spaceLow 3) ++ [.overflow 1] ∧
    pushNotice (.spaceLow 4) [.spaceLow 3, .overflow 1] = [.spaceLow 3, .overflow 2] := by decide

/-! ## Ill-formed commands -/

/-- A corrected count of 13 does not exist. -/
theorem test_wf_count : Instr.wellFormed (.readCompletion (.written ⟨some 13, some 0, some 0, some 0⟩ true true [])) = false ∧
    Instr.wellFormed (.readCompletion (.written ⟨some 12, some 0, some 0, some 0⟩ true true [])) = true := by decide

/-- A page check cannot pass beside an UNCORRECTABLE codeword. -/
theorem test_wf_check : Instr.wellFormed (.readCompletion (.written ⟨none, some 0, some 0, some 0⟩ true true [])) = false := by
  decide

/-- A mismatch names a cell of the page. -/
theorem test_wf_mismatch :
    Instr.wellFormed (.readCompletion (.written ⟨some 0, some 0, some 0, some 0⟩ true true [16])) = false := by decide

/-- A frame's body has the stated length. -/
theorem test_wf_frame_length : Instr.wellFormed (.frameReceived ⟨2#16, 1#8, 1#8, [0#8], 0#16⟩) = false := by decide

/-- A frame's length is at most 1,040. -/
theorem test_wf_frame_long : Instr.wellFormed (.frameReceived ⟨1041#16, 1#8, 1#8, List.replicate 1041 0#8, 0#16⟩) = false := by
  rfl

/-! ## States that meet the hypotheses of the statements -/

theorem takes_asked (r : Request) : Takes 0 r (asked r) := ⟨rfl, List.pairwise_singleton _ _, rfl⟩

/-- The taking of a request does not depend on what the states below change. -/
theorem takes_withEntry (r : Request) (e : IndexEntry) : Takes 0 r (withEntry e (asked r)) :=
  ⟨rfl, List.pairwise_singleton _ _, rfl⟩

theorem lookup_withEntry (e : IndexEntry) (s : State) : lookup key (withEntry e s) = some e := by
  simp [lookup, withEntry, Store.get]

theorem test_witness_StepRunsFrontCommand : State.reset.pending = [] := rfl

theorem test_witness_HeldPartIsInert : isHeld heldPart = true ∧ isLineCommand .frameStartMarker = false ∧
    isLineCommand .heldRequestProceeds = false := by decide

/-- Each clause: RST deasserted, asserted; supplied; asserted without supply. -/
theorem test_witness_SupplyAndRstHoldOrStartMount : State.reset.rst = false ∧ heldPart.rst = true ∧
    State.reset.powered = true ∧ ({ heldPart with powered := false } : State).powered = false := by decide

theorem test_witness_ResetCutsArrayWorkShort : (Instr.powerLoss = .rstAsserted ∨ Instr.powerLoss = .powerLoss) ∧ 47 < 48 := by
  decide

theorem test_witness_LineLevelsChange : ready.pfw = false ∧ (ready.pfw = false ∨ ready.rst = true) ∧
    isHeld { ready with pfw := true } = false ∧ isHeld { heldPart with pfw := true } = true := by decide

/-- A HOST buffer with an entry and no page in flight. -/
def buffered : State := { ready with host := { ready.host with buffer := [placed], cellsUsed := 1 } }

theorem test_witness_PfwAssertedPausesTheUnits : ({ ready with pfw := true } : State).pfw = true ∧
    isHeld buffered = false ∧ buffered.pfw = false ∧ buffered.host.stranded = false ∧ buffered.host.inFlight = none ∧
    (bufferDest .host buffered).isSome = true := by decide

/-- A held part; a HOST buffer behind a page in flight; a stranded one; the page of the buffer. -/
theorem test_witness_PfwAsserted_streams : isHeld heldPart = true ∧ heldPart.pfw = false ∧
    ({ buffered.host with inFlight := some flying } : Stream).inFlight.isSome = true ∧
    ({ buffered.host with stranded := true } : Stream).stranded = true ∧ bufferDest .host buffered = some (2, 1) := by decide

set_option maxRecDepth 100000 in
/-- A frame of 1,041 bytes, and one whose check is off by one. -/
theorem test_witness_ReceiverTakesAndDiscardsFrames : isHeld ready = false ∧ ready.link.inside = true ∧
    1040 < (1041#16).toNat ∧ ((0#16).toNat ≤ 1040 ∧ ([] : List Byte).length = (0#16).toNat) ∧
    frameCheck (leBytes 2 0 ++ [1#8, 1#8]) ≠ (RxFrame.make 1#8 1#8 []).check + 1 := by decide

theorem test_witness_LinkCountersRule : exec (.wpChanged true) ready = .next { ready with wp := true } := rfl

/-- A frame of a type, tag and body that ends whole. -/
theorem ends_whole (type tag : Byte) (s : State) (h : isHeld s = false) (hi : s.link.inside = true) :
    EndsWhole (RxFrame.make type tag []) s :=
  ⟨h, hi, Nat.zero_le _, rfl, by simp [RxFrame.checkPasses, RxFrame.make, RxFrame.covered]⟩

/-- READY with every slot occupied. -/
def fullTable : State := { ready with link := { ready.link with
  slots := (List.range 8).map (fun n => (n, ⟨BitVec.ofNat 8 (n + 1), .sync, n + 1, .awaitingCompaction, none, none⟩)) } }

/-- READY with the immediate reply list full. -/
def fullReplies : State := { ready with link := { ready.link with
  immediate := List.replicate 4 ⟨0x81#8, 1#8, .ok, .identity, false⟩ } }

/-- READY in a soft reset. -/
def inSoftReset : State := { ready with link := { ready.link with softReset := some ⟨9#8, none⟩ } }

/-- Each refusal of Table 10-1, with and without room for its answer; a frame that takes slot 0; a frame in a soft reset. -/
theorem test_witness_FramesAreDisposedByTheTable :
    arrivalRefusal (RxFrame.make 0x14#8 0#8 []) ready = some .badTag ∧
    arrivalRefusal (RxFrame.make 0x14#8 1#8 [0#8]) ready = some .badRequest ∧
    arrivalRefusal (RxFrame.make 0x14#8 1#8 []) State.reset = some .notReady ∧
    arrivalRefusal (RxFrame.make 0x14#8 1#8 []) (asked .sync) = some .tagInUse ∧
    arrivalRefusal (RxFrame.make 0x14#8 9#8 []) fullTable = some .queueFull ∧
    arrivalRefusal (RxFrame.make 0x14#8 9#8 []) ready = none ∧
    ready.link.softReset = none ∧ ready.link.immediate.length < 4 ∧ ¬ fullReplies.link.immediate.length < 4 ∧
    parseQueued 0x14#8 [] = some .sync ∧ slotAt 0 ready = none ∧ slotAt 1 (asked .sync) = none ∧
    (slotAt 0 (asked .sync)).isSome = true ∧ inSoftReset.link.softReset.isSome = true ∧
    EndsWhole (RxFrame.make 0x14#8 9#8 []) ready :=
  ⟨by decide, by decide, by decide, by decide, by decide, by decide, by decide, by decide, by decide, by decide, by decide,
    by decide, by decide, by decide, ends_whole _ _ _ rfl rfl⟩

theorem test_witness_IdentifyAndStatusAreAnswered : Arrives 1#8 ready ∧ Arrives 1#8 fullReplies ∧ HasRoom ready ∧
    ¬ HasRoom fullReplies ∧ ready.startup.mode ≠ .mounting :=
  ⟨⟨rfl, rfl, rfl, by decide⟩, ⟨rfl, rfl, rfl, by decide⟩, by unfold HasRoom; decide, by unfold HasRoom; decide, by decide⟩

/-- A target in each state of its slot. -/
theorem test_witness_CancelFollowsTable103 : Arrives 2#8 ready ∧ (1#8 : Byte) ≠ 0#8 ∧
    ready.link.slots.find? (fun p => p.2.tag == 1#8) = none ∧
    ∀ st r, (holding (slotIn st r) ready).link.slots.find? (fun p => p.2.tag == 1#8) = some (0, slotIn st r) :=
  ⟨⟨rfl, rfl, rfl, by decide⟩, by decide, rfl, fun _ _ => rfl⟩

theorem test_witness_ResetBeginsSoftReset : Arrives 2#8 (working .active (.get key)) ∧
    (working .active (.get key)).engine.active = some 0 ∧
    slotAt 0 (working .active (.get key)) = some (slotIn .active (.get key)) :=
  ⟨⟨rfl, rfl, rfl, by decide⟩, rfl, rfl⟩

/-- A soft reset that has drained, and one whose HOST stream has an entry in its buffer. -/
theorem test_witness_ResetReplyEmptiesTheLink : isHeld inSoftReset = false ∧
    inSoftReset.link.softReset = some ⟨9#8, none⟩ ∧ inSoftReset.host.inFlight = none ∧ inSoftReset.host.buffer = [] ∧
    ({ inSoftReset with host := buffered.host } : State).host.buffer ≠ [] := by decide

/-- A slot's reply being sent beside a younger slot. -/
def sending : State := { ready with link := { ready.link with
  slots := [(0, ⟨1#8, .sync, 1, .replyReady, none, some (.ok, .none)⟩), (7, ⟨2#8, .sync, 2, .queued, none, none⟩)]
  sending := some (.reply 0x94#8 1#8 .ok 7 .none (some 0)) } }

theorem test_witness_FrameSentFreesTheSlot : isHeld sending = false ∧ ready.link.sending = none ∧
    Store.Canonical sending.link.slots ∧ sending.link.sending = some (.reply 0x94#8 1#8 .ok 7 .none (some 0)) ∧
    (slotAt 0 sending).isSome = true ∧ TxFrame.slot? (.notice (.spaceLow 4)) = none := by decide

/-- Each source of a frame, with the guard count at 3 and at 4. -/
theorem test_witness_TransmitterChoice : ready.link.sending = none ∧ ready.link.resetReplies = [] ∧
    ready.link.softReset = none ∧ inSoftReset.link.softReset.isSome = true ∧ fullReplies.link.immediate ≠ [] ∧
    ready.link.immediate = [] ∧ ready.link.notices = [] ∧ ready.link.replyOrder = [] ∧ ready.link.noticeGuard ≠ 4 ∧
    slotAt 0 sending ≠ none ∧
    ({ ready.link with notices := [.spaceLow 4], noticeGuard := 4 } : Link).noticeGuard = 4 := by decide

/-- A soft reset that has begun while the reply of an earlier one, tag 8, still waits to be sent. -/
def secondReset : State := { inSoftReset with link := { inSoftReset.link with
  sending := some (.notice (.spaceLow 4)), resetReplies := [.reply 0x84#8 8#8 .ok 8 .none none] } }

/-- The end of the frame being sent chooses no other during the soft reset (R184(2)). -/
theorem test_frame_sent_in_soft_reset : (match exec .frameSent secondReset with
    | .next t => t.link.sending.isNone && t.link.resetReplies.length == 1
    | _ => false) = true := by decide

/-- The second RESET reply leaves the first to be sent, and waits behind it (R184(4)). -/
theorem test_second_reset_reply : (match exec .resetReplyBuilt secondReset with
    | .next t => t.link.resetReplies == [.reply 0x84#8 8#8 .ok 8 .none none, .reply 0x84#8 9#8 .ok 8 .none none]
    | _ => false) = true := by decide

/-- That reply with the soft reset ended and the line idle, so that it is next. -/
theorem test_witness_TransmitterChoice_resets :
    (let l : Link := { secondReset.link with softReset := none, sending := none }
     l.sending = none ∧ l.softReset = none ∧ l.resetReplies = [.reply 0x84#8 8#8 .ok 8 .none none]) := by decide

/-- A slot with its answer, not yet in the reply order, and an answer that carries no STATUS. -/
theorem test_witness_TransmitterChoice_replies :
    (let sl : Slot := ⟨1#8, .sync, 1, .replyReady, none, some (.ok, .none)⟩
     let s := holding sl ready
     sl.reply = some (.ok, .none) ∧ (0, sl) ∈ s.link.slots ∧ 0 ∉ s.link.replyOrder ∧
       s.link.sending.bind TxFrame.slot? ≠ some 0 ∧ (orderReplies s).link.replyOrder = [0]) ∧
    (⟨0x81#8, 1#8, .ok, .identity, false⟩ : Answer).now = false := by decide

/-- Queues of 10 and of 11 notices, and one that ends in an OVERFLOW. -/
theorem test_witness_NoticeQueueRule : (List.replicate 10 (Notice.spaceLow 4)).length ≤ 10 ∧
    (List.replicate 11 (Notice.spaceLow 4)).length = 11 ∧
    (∀ y ∈ List.replicate 11 (Notice.spaceLow 4), y.isOverflow = false) := by decide

theorem test_witness_OldestQueuedIsTakenAlone : nextTaken (asked .sync) = some (0, .sync) ∧ isTaking .put = true ∧
    (∀ n r, nextTaken (asked .sync) = some (n, r) → requestCommand r ≠ .put) := by
  refine ⟨rfl, rfl, fun n r h => ?_⟩
  cases h; decide

theorem test_witness_OldestQueued_isTaken : (asked .sync).engine.active = none ∧ (asked .sync).engine.discard = false ∧
    (asked .sync).startup.mode ≠ .formatting ∧ (∃ p ∈ (asked .sync).link.slots, p.2.state = .queued) :=
  ⟨rfl, rfl, by decide, ⟨_, List.mem_singleton_self _, rfl⟩⟩

/-- A PUT and a DELETE refused for the space number 16. -/
theorem test_witness_WriteChecksInOrder :
    firstRefusal (putChecks ⟨16, 0⟩ none 2 (asked (.put ⟨16, 0⟩ false none [1#8, 2#8]))) = some (.badRequest, .none) ∧
    firstRefusal (deleteChecks ⟨16, 0⟩ none (asked (.delete ⟨16, 0⟩ false none))) = some (.badRequest, .none) := by decide

theorem hostRoom_asked (r : Request) (n : Nat) (h : n ≤ 16) : HostRoom 2 1 n (asked r) :=
  ⟨rfl, rfl, rfl, rfl, by show 0 + n ≤ 16; omega⟩

/-- A PUT that fits; one behind a buffer of 16 cells; one with no open segment at the host reserve, with and without the
no-gain mark. -/
theorem test_witness_PutPlacesItsRecordOrWaits : Takes 0 aPut (asked aPut) ∧
    firstRefusal (putChecks key none 2 (asked aPut)) = none ∧ HostRoom 2 1 (cellsOf 2) (asked aPut) ∧
    (let s := { asked aPut with host := { ready.host with cellsUsed := 16, buffer := [placed] } }
     Takes 0 aPut s ∧ s.host.openSeg = some 2 ∧ 16 < s.host.cellsUsed + cellsOf 2) ∧
    (let s := { asked aPut with host := Stream.empty, freeCount := 4 }
     Takes 0 aPut s ∧ s.host.openSeg = none ∧ s.freeCount ≤ 4 ∧ s.comp.noGain = false) ∧
    (let s := { asked aPut with host := Stream.empty, freeCount := 4, comp := { ready.comp with noGain := true } }
     Takes 0 aPut s ∧ s.comp.noGain = true) :=
  ⟨takes_asked _, by decide, hostRoom_asked _ _ (by decide), ⟨takes_asked aPut, rfl, by decide⟩,
    ⟨takes_asked aPut, rfl, by decide, rfl⟩, ⟨takes_asked aPut, rfl⟩⟩

/-- A PUT with no open segment: its ask granted; refused with every segment FULL at a free count of 5; refused with no open
stamp left. -/
theorem test_witness_PutPlaces_asks :
    (let s := { asked aPut with host := Stream.empty }
     Takes 0 aPut s ∧ firstRefusal (putChecks key none 2 s) = none ∧ s.host.openSeg = none ∧ s.host.stranded = false ∧
       (Sys2Proof.Machine.openSegment .host false s).isSome = true ∧ Store.Canonical s.segs) ∧
    (let s := { asked aPut with host := Stream.empty, segs := [(3, fullRec)] }
     Takes 0 aPut s ∧ Store.Canonical s.segs ∧ (∀ h x, segAt h s = some x → x.state ≠ .free) ∧ ¬ s.freeCount ≤ 4) ∧
    ({ asked aPut with nextStamp := none } : State).nextStamp = none := by
  refine ⟨⟨takes_asked aPut, by decide, rfl, rfl, by decide, by decide⟩, ⟨takes_asked aPut, by decide, ?_, by decide⟩, rfl⟩
  intro h x hx
  simp only [segAt, Store.get] at hx
  split at hx <;> cases hx
  decide

/-- Placements that are a commit cause: at the 16th cell, under PFW, at window 0 in the empty buffer, each with and without
a page in flight; and one that only starts the timer, at window 1. -/
theorem test_witness_PutPlaces_commits :
    (let s := asked aPut
     HostRoom 2 1 16 s ∧ 16 ≤ s.host.cellsUsed + 16 ∧ ¬ 16 ≤ s.host.cellsUsed + 15 ∧ s.host.inFlight = none ∧
       s.host.buffer = [] ∧ s.pfw = false ∧ s.params.commitWindow ≠ 0) ∧
    (let s := { asked aPut with pfw := true, host := { ready.host with inFlight := some flying } }
     HostRoom 2 1 1 s ∧ s.pfw = true ∧ s.host.inFlight ≠ none) ∧
    (let s := { asked aPut with params := { ready.params with commitWindow := 0 } }
     HostRoom 2 1 1 s ∧ s.host.buffer = [] ∧ s.params.commitWindow = 0) ∧
    (let s := { asked aPut with params := { ready.params with commitWindow := 1 } }
     HostRoom 2 1 1 s ∧ (after .put s).commitTimer = some 1) :=
  ⟨⟨⟨rfl, rfl, rfl, rfl, by decide⟩, by decide⟩, ⟨⟨rfl, rfl, rfl, rfl, by decide⟩, by decide⟩,
    ⟨⟨rfl, rfl, rfl, rfl, by decide⟩, by decide⟩, ⟨rfl, rfl, rfl, rfl, by decide⟩, by decide⟩

/-- A DELETE of an absent and of a present key. -/
theorem test_witness_DeletePlacesTombstone :
    (let s := asked (.delete key false none)
     Takes 0 (.delete key false none) s ∧ firstRefusal (deleteChecks key none s) = none ∧ isPresent (lookup key s) = false) ∧
    (let s := withEntry (liveEntry true) (asked (.delete key false none))
     Takes 0 (.delete key false none) s ∧ firstRefusal (deleteChecks key none s) = none ∧ isPresent (lookup key s) = true ∧
       HostRoom 2 1 1 s) :=
  ⟨⟨takes_asked _, by decide, by decide⟩, takes_withEntry _ _, by decide, by decide, ⟨rfl, rfl, rfl, rfl, by decide⟩⟩

/-- A DELETE of a present key with no open segment, its ask granted and refused, with and without the no-gain mark; and one
behind a buffer of 16 cells. -/
theorem test_witness_Delete_asks :
    (let s := withEntry (liveEntry true) (asked (.delete key false none))
     let t := { s with host := Stream.empty }
     Takes 0 (.delete key false none) t ∧ firstRefusal (deleteChecks key none t) = none ∧
       isPresent (lookup key t) = true ∧ t.host.openSeg = none ∧ t.host.stranded = false ∧
       (Sys2Proof.Machine.openSegment .host false t).isSome = true ∧ Store.Canonical t.segs ∧ t.comp.noGain = false ∧
       ({ t with freeCount := 4 } : State).freeCount ≤ 4 ∧ ({ t with nextStamp := none } : State).nextStamp = none ∧
       ({ t.comp with noGain := true } : Compaction).noGain = true) ∧
    (let s := withEntry (liveEntry true) (asked (.delete key false none))
     let t := { s with host := { ready.host with cellsUsed := 16, buffer := [placed] } }
     Takes 0 (.delete key false none) t ∧ firstRefusal (deleteChecks key none t) = none ∧ t.host.openSeg = some 2 ∧
       16 < t.host.cellsUsed + 1 ∧ ¬ 16 < 15 + 1) :=
  ⟨⟨takes_withEntry _ (liveEntry true), by decide, by decide, rfl, rfl, by decide, by decide, rfl, by decide, rfl, rfl⟩,
    takes_withEntry _ (liveEntry true), by decide, rfl, by decide, by decide⟩

theorem test_witness_IndexChangeKeepsTheCounts : Store.Canonical (withEntry (liveEntry true) ready).index := by decide

/-- A current tombstone, and one the index no longer speaks for. -/
theorem test_witness_TombstoneDropRemovesTheEntry :
    lookup key (withEntry (.tombstone 3 ⟨3, 1, 0⟩ true) ready) = some (.tombstone 3 ⟨3, 1, 0⟩ true) ∧
    (∀ p, lookup key ready ≠ some (.tombstone 3 ⟨3, 1, 0⟩ p)) ∧ Store.Canonical ready.index :=
  ⟨lookup_withEntry _ _, (fun _ h => by cases h), List.Pairwise.nil⟩

/-- A copy the index still speaks for, with a space that counts its key, and one it does not. -/
theorem test_witness_RelocationComparesAndUpdates :
    (let s := withEntry (liveEntry true) ready
     lookup key s = some (liveEntry true) ∧ (liveEntry true).seq = 3 ∧ (liveEntry true).loc? = some ⟨3, 1, 0⟩ ∧
       Entry.key? (.record key 3 10 0#16 []) = some key ∧ Entry.seq? (.record key 3 10 0#16 []) = some 3) ∧
    (Store.get 0 (numbered [{ SpaceRec.fresh false with usage := 1, keyCount := 1 }])).map SpaceRec.keyCount = some 1 ∧
    (∀ x, lookup key ready = some x → ¬ (x.seq = 3 ∧ x.loc? = some ⟨3, 1, 0⟩)) :=
  ⟨by decide, by decide, fun _ h => by cases h⟩

/-- A copy of 4 cells with room for it, with 13 cells used, and with no open segment, granted and refused. -/
theorem test_witness_Relocation_copies :
    (let copy : Entry := .record key 3 1008 0#16 []
     let open' (used : Nat) : State := { ready with reloc := { Stream.empty with openSeg := some 2, cellsUsed := used } }
     Entry.cells copy = 4 ∧ Entry.seq? copy = some 3 ∧ (open' 12).reloc.openSeg = some 2 ∧ (open' 12).reloc.ended = false ∧
       (open' 12).reloc.cellsUsed + Entry.cells copy ≤ 16 ∧ 16 < (open' 13).reloc.cellsUsed + Entry.cells copy ∧
       bufferDest .relocate (open' 12) = some (2, 1) ∧ (open' 11).reloc.cellsUsed + Entry.cells copy < 16) ∧
    ready.reloc.openSeg = none ∧ (Sys2Proof.Machine.openSegment .relocate false ready).isSome = true ∧
    Sys2Proof.Machine.openSegment .relocate false { ready with segs := [(3, fullRec)] } = none := by decide

/-- A drop test that passes and one stopped by another segment; each kind of item of a victim; the engine's read at page 47
with and without live cells; a page and a sweep whose items have all been handled. -/
theorem test_witness_Relocation_engine :
    Store.Canonical ready.segs ∧ dropTest 3 5 ready = true ∧
    dropTest 3 5 { ready with segs := [(2, { openRec with lowestSeq := some 5 })] } = false ∧
    (let s := withEntry (.tombstone 3 ⟨3, 1, 0⟩ true) { ready with
       segs := [(3, { fullRec with state := .evacuating, live := 1 })]
       comp := { ready.comp with running := true, victim := some ⟨3, .reading, 47, [], false⟩ } }
     lookup key s = some (.tombstone 3 ⟨3, 1, 0⟩ true) ∧ Store.Canonical s.index ∧
       s.comp.victim = some ⟨3, .reading, 47, [], false⟩ ∧
       (segAt 3 s).map SegRec.live = some 1 ∧
       (match handleItem (.unreadable ⟨3, 1, 0⟩) s with
        | .done t => (lookup key t).isNone
        | _ => false) = true ∧
       ((engineRead 3 47 .blank s).comp.victim.map Victim.nextPage) = some 48) ∧
    (⟨3, .copying, 48, [], true⟩ : Victim).sweeping = true ∧
    (∀ x, lookup key ready = some x → x.inSeg 3 = false) :=
  ⟨by decide, by decide, by decide, ⟨lookup_withEntry _ _, List.pairwise_singleton _ _, rfl, rfl, by decide, by decide⟩, rfl,
    fun _ h => by cases h⟩

/-- An ask that is granted at 5 free segments, and the HOST ask refused at 4. -/
theorem test_witness_AllocatorOpensLeastWorn : Store.Canonical ready.segs ∧
    (Sys2Proof.Machine.openSegment .host false ready).isSome = true ∧
    Sys2Proof.Machine.openSegment .host false { ready with freeCount := 4 } = none ∧
    (Sys2Proof.Machine.openSegment .host true { ready with freeCount := 4 }).isSome = true := by decide

/-- A buffer with entries, with and without a page in flight, at pages 1 and 47; a running commit window timer. -/
theorem test_witness_CommitCausesActByTheStream : (streamOf .host buffered).buffer ≠ [] ∧
    (streamOf .host buffered).stranded = false ∧ (streamOf .host buffered).inFlight = none ∧
    bufferDest .host buffered = some (2, 1) ∧
    bufferDest .host { buffered with segs := [(2, { openRec with nextPage := some 47 })] } = some (2, 47) ∧
    ({ buffered.host with inFlight := some flying } : Stream).inFlight.isSome = true ∧ isHeld buffered = false ∧
    ({ buffered with commitTimer := some 4 } : State).commitTimer = some 4 ∧ ready.commitTimer = none := by decide

/-- A GET of each kind of key, and of space 16. -/
theorem test_witness_GetByTheIndexEntry : Takes 0 (.get ⟨16, 0⟩) (asked (.get ⟨16, 0⟩)) ∧
    Takes 0 (.get key) (asked (.get key)) ∧ Serves (asked (.get key)) ∧ key.space < 16 ∧
    isPresent (lookup key (asked (.get key))) = false ∧
    (∀ e, Takes 0 (.get key) (withEntry e (asked (.get key))) ∧ lookup key (withEntry e (asked (.get key))) = some e) :=
  ⟨takes_asked _, takes_asked _, .inl rfl, by decide, rfl, fun e => ⟨takes_withEntry _ e, lookup_withEntry _ _⟩⟩

/-- The value of the record in the buffer is found there. -/
theorem test_witness_RamValue : bufferDest .host buffered = some (2, 1) ∧ buffered.host.inFlight = none ∧
    buffered.host.buffer = [] ++ ⟨0, .record key 5 2 (Config.valueCheck [1#8, 2#8]) [1#8, 2#8]⟩ :: [] := ⟨rfl, rfl, rfl⟩

/-- A copy in the RELOCATE buffer at page 1 of segment 2, which the HOST stream does not hold; a HOST page in flight and a
RELOCATE one. -/
theorem test_witness_RamValue_streams :
    (let s := { ready with host := Stream.empty, reloc := { buffered.host with openSeg := some 2 } }
     bufferDest .relocate s = some (2, 1) ∧ bufferDest .host s ≠ some (2, 1) ∧ s.host.inFlight = none ∧
       (streamOf .relocate s).inFlight = none ∧ (streamOf .relocate s).buffer = [placed]) ∧
    (let s := { ready with host := { ready.host with inFlight := some flying } }
     (streamOf .host s).inFlight = some ⟨2, 1, [placed], flying.trailer⟩) ∧
    (let s := { ready with host := Stream.empty, reloc := { Stream.empty with inFlight := some flying } }
     (streamOf .relocate s).inFlight = some ⟨2, 1, [placed], flying.trailer⟩ ∧ bufferDest .host s ≠ some (2, 1)) :=
  ⟨⟨rfl, by decide, rfl, rfl, rfl⟩, rfl, rfl, by decide⟩

theorem test_witness_ListWalksThePresentKeys : Takes 0 (.list 16 none 1) (asked (.list 16 none 1)) ∧
    Takes 0 (.list 15 none 1) (withEntry (liveEntry true) (asked (.list 15 none 1))) ∧
    Serves (asked (.list 15 none 1)) ∧ Store.Canonical (withEntry (liveEntry true) (asked (.list 15 none 1))).index :=
  ⟨takes_asked _, takes_withEntry _ _, .inl rfl, List.pairwise_singleton _ _⟩

/-- A SYNC with nothing pending, with an entry pending, over a stranded stream; a COMPACT at its target, below it, and in
READ_ONLY. -/
theorem test_witness_SyncAndCompactAnswerOrWait : Takes 0 .sync (asked .sync) ∧ Serves (asked .sync) ∧
    (asked .sync).host.pendingEntries = [] ∧
    (let s := { asked .sync with host := buffered.host }
     Takes 0 .sync s ∧ s.host.stranded = false ∧ s.host.pendingEntries ≠ []) ∧
    (let s := { asked .sync with host := { buffered.host with stranded := true } }
     Takes 0 .sync s ∧ s.host.stranded = true) ∧
    Takes 0 (.compact (some 5)) (asked (.compact (some 5))) ∧ (asked (.compact (some 5))).freeCount = 5 ∧
    Takes 0 (.compact none) (asked (.compact none)) ∧ (asked (.compact none)).freeCount < 24 ∧
    (let s := { asked (.compact none) with startup := { ready.startup with mode := .readOnly } }
     Takes 0 (.compact none) s ∧ s.startup.mode = .readOnly) :=
  ⟨takes_asked _, .inl rfl, rfl, ⟨takes_asked .sync, rfl, by decide⟩, ⟨takes_asked .sync, rfl⟩, takes_asked _, rfl,
    takes_asked _, by decide, ⟨takes_asked (.compact none), rfl⟩⟩

/-- Segments 0, 1, 2, 1,023 and 1,024; spaces 15 and 16. -/
theorem test_witness_InfoRequestsReport : (∀ g, Takes 0 (.segmentInfo g) (asked (.segmentInfo g))) ∧
    (∀ n, Takes 0 (.spaceInfo n) (asked (.spaceInfo n))) ∧ Serves ready ∧ segAt 2 ready = some openRec ∧
    segAt 1023 { ready with segs := [(1023, fullRec)] } = some fullRec ∧
    Store.get 15 ready.spaces = some (SpaceRec.fresh false) :=
  ⟨fun _ => takes_asked _, fun _ => takes_asked _, .inl rfl, rfl, rfl, rfl⟩

/-- Every SET_PARAM is taken; the ends of the ranges and a threshold that stays, rises or falls. -/
theorem test_witness_SetParamByItsTable : (∀ c v, Takes 0 (.setParam c v) (asked (.setParam c v)) ∧
    Serves (asked (.setParam c v))) ∧ ready.params.threshold ≤ 8 ∧ 7 < ready.params.threshold ∧
    22 + 2 ≤ ready.params.compactStop ∧ ¬ 23 + 2 ≤ ready.params.compactStop ∧ ready.params.compactStart + 2 ≤ 18 :=
  ⟨fun _ _ => ⟨takes_asked _, .inl rfl⟩, by decide, by decide, by decide, by decide, by decide⟩

/-- R112: a threshold lowered to the worst health of a FULL segment queues it, and one above it does not. -/
theorem test_witness_SetParam_lowered :
    (let s := { ready with segs := [(3, { fullRec with worst := .bits 7 }), (4, { fullRec with worst := .bits 6 }),
       (5, { rec .free 2 with worst := .bits 9 })] }
     Store.Canonical s.segs ∧ (thresholdLowered 7 s).ordinary = [3] ∧ (thresholdLowered 6 s).ordinary = [3, 4]) := by decide

/-- Spaces 15 and 16; policies named above, at and below the space's; a guarded space with WP; a quota at and below the
usage. -/
theorem test_witness_FreezePolicyAndQuotaChangeTheSpace : (∀ n, Takes 0 (.freeze n) (asked (.freeze n))) ∧
    (∀ n p g, Takes 0 (.setPolicy n p g) (asked (.setPolicy n p g))) ∧
    (∀ n q, Takes 0 (.setQuota n q) (asked (.setQuota n q))) ∧ ready.startup.mode = .ready ∧ Serves ready ∧
    ready.pfw = false ∧ policyOf 1 = some .writeOnce ∧ Policy.code .opened < Policy.code .writeOnce ∧
    (spaceAt 15 ready).pinGuard = false ∧
    (let s := { ready with wp := true, spaces := numbered [{ SpaceRec.fresh false with pinGuard := true, usage := 3 }] }
     (spaceAt 0 s).pinGuard = true ∧ s.wp = true ∧ 2 < (spaceAt 0 s).usage) :=
  ⟨fun _ => takes_asked _, fun _ _ _ => takes_asked _, fun _ _ => takes_asked _, rfl, .inl rfl, rfl, rfl, by decide, rfl,
    by decide⟩

/-- The part in another mode, with one request QUEUED. -/
def askedIn (m : Mode) (r : Request) : State := { asked r with startup := { ready.startup with mode := m } }

/-- Table 9-4: every queued request is taken in UNFORMATTED and in READ_ONLY. -/
theorem test_witness_ModesOfRequests (r : Request) :
    Takes 0 r (askedIn .unformatted r) ∧ Takes 0 r (askedIn .readOnly r) :=
  ⟨⟨rfl, List.pairwise_singleton _ _, rfl⟩, rfl, List.pairwise_singleton _ _, rfl⟩

/-- Table 9-4: a LIST in UNFORMATTED and a SET_QUOTA in READ_ONLY. -/
theorem test_modes_answer :
    ((slotAt 0 (after .list (askedIn .unformatted (.list 1 none 1)))).bind Slot.reply) = some (.unformatted, .none) ∧
    ((slotAt 0 (after .setQuota (askedIn .readOnly (.setQuota 1 0)))).bind Slot.reply) = some (.readOnlyMode, .none) := by
  decide

theorem tables_asked (r : Request) : TablesCanonical (asked r) :=
  ⟨List.Pairwise.nil, List.Pairwise.nil, by show Store.Canonical ready.segs; decide,
    by show Store.Canonical ready.spaces; decide, List.pairwise_singleton _ _, trivial⟩

theorem test_witness_ClearSpaceRemovesEveryEntry : Takes 0 (.clearSpace 16) (asked (.clearSpace 16)) ∧
    firstRefusal (clearChecks 16 (asked (.clearSpace 16))) = some (.badRequest, .none) ∧
    Takes 0 (.clearSpace 15) (asked (.clearSpace 15)) ∧ firstRefusal (clearChecks 15 (asked (.clearSpace 15))) = none ∧
    TablesCanonical (asked (.clearSpace 15)) ∧ Store.get 15 (asked (.clearSpace 15)).spaces = some (SpaceRec.fresh false) :=
  ⟨takes_asked _, by decide, takes_asked _, by decide, tables_asked _, rfl⟩

/-- R137: each refusal of a CLEAR_SPACE in its order; R15: the one live cell of the space leaves its segment. -/
theorem test_witness_ClearSpace_checks :
    (let spaces (r : SpaceRec) := numbered [r]
     let refused (s : State) := (firstRefusal (clearChecks 0 s)).map Prod.fst
     refused { ready with pfw := true } = some .powerLow ∧
       refused { ready with spaces := spaces { SpaceRec.fresh true with policy := .readOnly } } = some .frozen ∧
       refused { ready with spaces := spaces { SpaceRec.fresh false with policy := .readOnly } } = some .readOnlySpace ∧
       refused { ready with wp := true, spaces := spaces { SpaceRec.fresh false with policy := .writeOnce, pinGuard := true } } =
         some .writeProtected ∧
       refused { ready with spaces := spaces { SpaceRec.fresh false with policy := .writeOnce } } = some .exists) ∧
    (let s := withEntry (liveEntry true) { asked (.clearSpace 1) with segs := [(3, { fullRec with live := 4 })] }
     (segAt 3 (after .clearSpace s)).map SegRec.live = some 3) := by decide

/-- Each refusal of a FORMAT, and one that begins. -/
theorem test_witness_FormatChecksAndBegins : Takes 0 .format (asked .format) ∧
    firstRefusal (formatChecks (asked .format)) = none ∧
    firstRefusal (formatChecks { asked .format with pfw := true }) = some (.powerLow, .none) ∧
    (asked .format).startup.mode ≠ .mounting ∧ (asked .format).pfw = false ∧ (asked .format).host.stranded = false ∧
    ({ ready.host with stranded := true } : Stream).stranded = true ∧
    (∃ p ∈ numbered [{ SpaceRec.fresh false with policy := .writeOnce }], p.2.policy ≠ .opened) :=
  ⟨takes_asked _, by decide, by decide, by decide, rfl, rfl, rfl, ⟨_, List.mem_singleton_self _, by decide⟩⟩

/-- A FORMAT over a HOST buffer with an entry, with and without a page in flight, and over a guarded space with WP. -/
theorem test_witness_FormatChecks_streams :
    (let s := { asked .format with host := buffered.host }
     Takes 0 .format s ∧ firstRefusal (formatChecks s) = none ∧ s.host.buffer ≠ [] ∧ s.host.inFlight = none ∧
       bufferDest .host s = some (2, 1)) ∧
    (let s := { asked .format with wp := true, spaces := numbered [{ SpaceRec.fresh false with pinGuard := true }] }
     Takes 0 .format s ∧ firstRefusal (formatChecks s) = some (.writeProtected, .none)) :=
  ⟨⟨takes_asked .format, by decide, by decide, rfl, by decide⟩, takes_asked .format, by decide⟩

/-- READY's tables under a FORMAT that has come to rest; segments 2 and 1,023 as the first that is not RETIRED. -/
def atRest : State := { ready with startup := { ready.startup with
  mode := .formatting, format := some ⟨.resting, some 0, false, 0, 0, 0, [], 0⟩ } }

theorem test_witness_FormatEmptyingEmptiesTheStore : isHeld atRest = false ∧ formatAtRest atRest = true ∧
    formatAtRest ready = false ∧ segState 2 atRest ≠ some .retired ∧
    segState 1023 { atRest with segs := [(2, rec .retired 0)] } ≠ some .retired := by decide

/-- A COMPACT in the list, with its slot. -/
theorem test_witness_FormatEmptying_compacts :
    (let s := { holding (slotIn .awaitingCompaction (.compact none)) atRest with
       comp := { atRest.comp with compacts := [⟨0, 24⟩] } }
     isHeld s = false ∧ formatAtRest s = true ∧ (⟨0, 24⟩ : CompactWait) ∈ s.comp.compacts ∧
       slotAt 0 s = some (slotIn .awaitingCompaction (.compact none)) ∧
       ∀ c ∈ s.comp.compacts, s.engine.active ≠ some c.slot) := by decide

/-- A FORMAT of the tests in a phase, with segments 3 and 1,023 still to take. -/
def formatting (phase : FormatPhase) : State := { ready with
  segs := [(3, fullRec), (1023, rec .free 1)]
  startup := { ready.startup with mode := .formatting, format := some ⟨phase, some 0, false, 6, 1, 6, [2], 0⟩ } }

/-- R43: a header that is not readable takes the highest count of the records; an erase OK writes it with one more; a header
that fails condemns the segment and sends FORMAT on to segment 4. -/
theorem test_witness_FormatErasing :
    (let read := startupReadEnded 3 0 .blank (formatting (.header 3))
     let erased := startupErased true (formatting (.erasing 3))
     let failed := startupHeader false (formatting (.rewriting 3))
     (read.startup.format.map Format.eraseCount) = some 2 ∧ segState 3 read = some .erasing ∧
       read.arr.catPlace = some ⟨.catalogue, .startup, .erase 3⟩ ∧ (segAt 3 erased).map SegRec.eraseCount = some 7 ∧
       (erased.startup.format.map Format.phase) = some (.rewriting 3) ∧ segState 3 failed = some .condemned ∧
       (failed.startup.format.map Format.pendingRetire) = some [2, 3] ∧
       failed.arr.catPlace = some ⟨.catalogue, .startup, .read 4 0⟩) := by decide

/-- The operations of the Start-up Controller in the array; the last segment taken, at 95 and at 96 retired segments. -/
theorem test_witness_FormatErasing_ends :
    isHeld ready = false ∧
    (running (.program .startup 3 0 (.entries [] flying.trailer)) ready).arr.op.isSome = true ∧
    (running (.erase ⟨.startup, 3, 0⟩) ready).arr.op = some (.erase ⟨.startup, 3, 0⟩) ∧
    (let s := formatting (.rewriting 1023)
     s.startup.mount = none ∧ s.startup.mode = .formatting ∧ s.cat.waiters = [] ∧ s.cat.begun + 1 < 2 ^ 32 ∧
       ([2] : List Nat).Pairwise (· < ·) ∧ formatNext 1024 s = none ∧ s.cat.nextPage = none ∧
       ([2] : List Nat).take (96 - 95) = [2] ∧ ([2] : List Nat).take (96 - 96) ≠ [2]) := by decide

/-- The cursor's segment FULL; a FULL segment above it; one below it only; none; each reason to skip. -/
theorem test_witness_PatrolTimerExpiryReadsOrSkips : isHeld ready = false ∧ ready.patrol.timer = some 500 ∧
    ready.startup.mode = .ready ∧ ready.pfw = false ∧
    (∀ c ∈ ready.arr.patPlace.toList ++ ready.arr.outside, c.origin ≠ .patrolUnit) ∧
    segState 3 ready = some .full ∧ segState 2 ready ≠ some .full ∧ ready.patrol.seg = 2 ∧
    segState 1023 { ready with segs := [(1023, fullRec)] } = some .full ∧ State.reset.startup.mode ≠ .ready ∧
    ((⟨.patrol, .patrolUnit, .read 3 1⟩ : Claim).origin = .patrolUnit) := by decide

/-- The fields of a GET's read. -/
def taken : GetTaken := ⟨key, 3, 10, ⟨3, 1, 0⟩, 1⟩

theorem test_witness_ReadsEndByTheirOriginator : isHeld ready = false ∧
    (running (.read ⟨.requestEngine, 3, 1, some taken⟩) ready).arr.op = some (.read ⟨.requestEngine, 3, 1, some taken⟩) ∧
    (running (.read ⟨.startup, 0, 0, none⟩) ready).arr.op = some (.read ⟨.startup, 0, 0, none⟩) ∧
    (let w : Written := ⟨⟨some 1, some 0, some 0, some 0⟩, none, true, true,
        some (.entries [⟨0, .record key 3 10 0#16 []⟩] flying.trailer), []⟩
     w.cellsReadable 0 1 = true ∧ w.entryAt 0 = some (.record key 3 10 0#16 [])) ∧
    (⟨⟨none, some 0, some 0, some 0⟩, none, true, true, none, []⟩ : Written).cellsReadable 0 1 = false := by decide

/-- A GET in hand, the engine free, and the discard mark set. -/
theorem test_witness_ReadsEnd_answers :
    (let s := working .active (.get key)
     s.engine.discard = false ∧ s.engine.active = some 0 ∧ slotAt 0 s = some (slotIn .active (.get key)) ∧
       (answerGet .notFound .none s).engine.active = none) ∧
    ready.engine.discard = false ∧ ready.engine.active = none ∧
    ({ ready with engine := ⟨none, true⟩ } : State).engine.discard = true := by decide

/-- A written page, a blank one and a torn one, with reports that can and cannot be of it; a page that passes its check. -/
theorem test_witness_ReadsEnd_reports :
    (let w : ReadReport := .written ⟨some 0, some 0, some 0, some 0⟩ true true [3]
     let page : Option StoredPage := some ⟨some (.entries [placed] flying.trailer), .sound⟩
     canReport page w = true ∧ canReport none w = false ∧ canReport none .blank = true ∧
       canReport (some ⟨none, .torn⟩) .blank = false ∧ canReport (some ⟨none, .halfErased⟩) .blank = true ∧
       (match deliver page w with
        | .written x => x.pageCheck && x.mismatch.isEmpty
        | .blank => false) = true) := by decide

/-- The record the read names, with a space that counts its key, and a key it does not match. -/
theorem test_witness_UnreadableRecordBecomesLost :
    lookup key (withEntry (liveEntry true) ready) = some (.live 3 10 1 ⟨3, 1, 0⟩ true) ∧
    Store.Canonical (withEntry (liveEntry true) ready).index ∧
    Store.get 1 (numbered [SpaceRec.fresh false, { SpaceRec.fresh false with usage := 1, keyCount := 1 }]) =
      some { SpaceRec.fresh false with usage := 1, keyCount := 1 } ∧
    (∀ len cells p, lookup key ready ≠ some (.live 3 len cells ⟨3, 1, 0⟩ p)) :=
  ⟨lookup_withEntry _ _, List.pairwise_singleton _ _, rfl, fun _ _ _ h => by cases h⟩

/-- A read with an UNCORRECTABLE codeword, one MARGINAL at 8, one below. -/
theorem test_witness_RefreshArrivalOfARead : Codewords.countAt ⟨none, some 0, some 0, some 0⟩ 0 = none ∧
    Codewords.countAt ⟨some 8, some 0, some 0, some 0⟩ 0 = some 8 ∧ (8 : Nat) ≤ 8 ∧
    Codewords.countAt ⟨some 7, some 0, some 0, some 0⟩ 0 = some 7 ∧ ¬ (8 : Nat) ≤ 7 := by decide

/-- An OPEN segment with an empty and with a filled buffer, a FULL one, a FREE one, and members of each rank. -/
theorem test_witness_RefreshArrival_queue : segAt 2 ready = some openRec ∧ openRec.state = .opened ∧
    openRec.reason = none ∧ (streamOf .host ready).openSeg = some 2 ∧ (streamOf .host ready).buffer = [] ∧
    (streamOf .host buffered).buffer ≠ [] ∧ segAt 3 ready = some fullRec ∧ fullRec.state = .full ∧
    (rec .free 3).state ≠ .opened ∧ ({ fullRec with reason := some .wear } : SegRec).reason = some .wear := by decide

/-- Reads of a system segment, in MOUNTING, and in READY of a page with a LIVE record, written and blank. -/
theorem test_witness_RefreshArrival_health :
    (let s := withEntry (liveEntry true) ready
     Serves s ∧ Store.Canonical s.index ∧ key.item < 65536 ∧ lookup key s = some (.live 3 10 1 ⟨3, 1, 0⟩ true) ∧
       (liveEntry true).inPage 3 1 = true ∧ (liveEntry true).inPage 3 2 = false ∧
       lookup key (healthHandles ⟨.patrolUnit, 3, 1, none⟩ .blank s) = some (.lost 3 10) ∧
       (healthHandles ⟨.patrolUnit, 3, 1, none⟩ .blank s).urgent = [3]) ∧
    (1 : Nat) < 2 ∧ State.reset.startup.mode ≠ .ready ∧ State.reset.startup.mode ≠ .readOnly :=
  ⟨⟨.inl rfl, List.pairwise_singleton _ _, by decide, lookup_withEntry _ _, by decide, by decide, by decide, by decide⟩,
    by decide, by decide, by decide⟩

/-- R88(3): an urgent reason moves an ordinary member to the end of the urgent part. -/
theorem test_arrival_upgrades :
    (let s := { ready with segs := [(3, { fullRec with reason := some .threshold })], urgent := [9], ordinary := [3, 4] }
     let t := refreshArrival 3 .programFault s
     t.urgent = [9, 3] ∧ t.ordinary = [4] ∧ (segAt 3 t).bind SegRec.reason = some .programFault) := by decide

/-- A page of the HOST stream being programmed, and a durable slot that waits for it. -/
def programming : State := running (.program .hostStream 2 1 (.entries [placed] flying.trailer))
  { holding { slotIn .awaitingCommit (.put key true none [1#8, 2#8]) with wait := some ⟨2, 1, 5⟩ } ready with
    host := { ready.host with inFlight := some flying } }

theorem test_witness_ProgramOkMakesEntriesProgrammed : isHeld programming = false ∧
    programming.arr.op = some (.program .hostStream 2 1 (.entries [placed] flying.trailer)) ∧
    programming.host.inFlight = some flying ∧ flying.seg = 2 ∧ flying.page = 1 ∧ programming.host.commitRequested = false ∧
    programming.host.ended = false ∧ Store.Canonical programming.link.slots ∧ programming.syncMarks = [] ∧
    (slotAt 0 programming).bind Slot.wait = some ⟨2, 1, 5⟩ :=
  ⟨rfl, rfl, rfl, rfl, rfl, rfl, rfl, List.pairwise_singleton _ _, rfl, rfl⟩

/-- A page of the RELOCATE stream; SYNC marks below and above the lowest sequence left in the HOST buffer. -/
theorem test_witness_ProgramOk_relocateAndMarks :
    (let s := running (.program .relocStream 2 1 (.entries [placed] flying.trailer))
       { ready with reloc := { Stream.empty with inFlight := some flying } }
     isHeld s = false ∧ s.arr.op = some (.program (streamOrigin .relocate) 2 1 (.entries [placed] flying.trailer)) ∧
       (streamOf .relocate s).inFlight = some flying) ∧
    (let s := { programming with host := { programming.host with buffer := [placed] }, syncMarks := [⟨1, 4⟩, ⟨2, 5⟩] }
     (⟨1, 4⟩ : SyncMark) ∈ s.syncMarks ∧ (∀ q ∈ seqsOf s.host.buffer, 4 < q) ∧ ¬ ∀ q ∈ seqsOf s.host.buffer, 5 < q) :=
  ⟨⟨rfl, rfl, rfl⟩, by decide⟩

theorem test_witness_ProgramFailureKeepsTheEntries : Store.Canonical programming.index := List.Pairwise.nil

/-- A page in flight before the buffer's page 2, with a FREE segment to retarget to and with none. -/
def failing (segs : List (Nat × SegRec)) : State :=
  { programming with segs := (2, { openRec with nextPage := some 2 }) :: segs, syncMarks := [⟨0, 5⟩] }

theorem test_witness_ProgramFailure_retargetsOrStrands :
    (let s := failing [(5, rec .free 2)]
     Store.Canonical s.index ∧ Store.Canonical s.link.slots ∧ Store.Canonical s.segs ∧
       (streamOf .host s).inFlight = some flying ∧ bufferDest .host s ≠ some (flying.seg, flying.page) ∧
       (streamOf .host (pageFailed .host s)).openSeg = some 5 ∧ 5 ≠ flying.seg) ∧
    (let s := failing []
     Store.Canonical s.segs ∧ (streamOf .host s).openSeg = some flying.seg ∧ s.startup.mode = .ready ∧
       s.startup.format = none ∧ (∀ p ∈ s.segs, p.2.state ≠ .free) ∧ s.host.waiting = none ∧
       (slotAt 0 s).map Slot.state = some .awaitingCommit ∧ (slotAt 0 s).bind Slot.wait = some ⟨flying.seg, flying.page, 5⟩ ∧
       (∃ m ∈ s.syncMarks, m.slot = 0 ∧ ∃ q ∈ seqsOf s.host.pendingEntries, q ≤ m.mark)) :=
  ⟨⟨by decide, by decide, by decide, rfl, by decide, by decide, by decide⟩, by decide⟩

/-- The failed segment OPEN and held by the stream, without a reason and with each kind of reason; and FULL. -/
theorem test_witness_ProgramFailure_queues :
    segAt flying.seg (failing []) = some { openRec with nextPage := some 2 } ∧
    (streamOf .host (failing [])).openSeg = some flying.seg ∧ (openRec.state = .opened ∧ openRec.reason = none) ∧
    (pageFailed .host (failing [(5, rec .free 2)])).urgent = [2] ∧
    ((segAt 2 (pageFailed .host (failing [(5, rec .free 2)]))).bind SegRec.reason) = some .programFault ∧
    (let s := { failing [] with
       segs := [(2, { fullRec with reason := some .wear })], ordinary := [2], host := { (failing []).host with openSeg := none } }
     segState flying.seg s = some .full ∧ (streamOf .host s).inFlight = some flying ∧
       (pageFailed .host s).urgent = [2] ∧ (pageFailed .host s).ordinary = []) ∧
    (let s := { failing [] with
       segs := [(2, { fullRec with reason := some .uncorrectable })], urgent := [2], host := { (failing []).host with openSeg := none } }
     segState flying.seg s = some .full ∧ (pageFailed .host s).urgent = [2]) :=
  ⟨by decide, by decide, by decide, by decide, by decide, ⟨by decide, rfl, by decide, by decide⟩, by decide⟩

/-- A failed page before another segment that the stream has open; entry into READ_ONLY over a waiting HOST entry, a held
request, a COMPACT, a victim being read, one being erased, and a RELOCATE buffer. -/
theorem test_witness_ProgramFailure_readOnly :
    (let s := { failing [(4, rec .free 3)] with host := { (failing []).host with openSeg := some 4 } }
     (streamOf .host s).openSeg = some 4 ∧ 4 ≠ flying.seg) ∧
    ((failing [(5, rec .free 2)]).nextStamp ≠ none ∧ segState flying.seg (failing [(5, rec .free 2)]) ≠ some .free ∧
      segState 5 (failing [(5, rec .free 2)]) = some .free) ∧
    (let s := { working .active aPut with host := { ready.host with waiting := some (.host 0 key (some [1#8, 2#8])) } }
     s.host.waiting = some (.host 0 key (some [1#8, 2#8])) ∧ slotAt 0 s = some (slotIn .active aPut) ∧
       s.comp.compacts = [] ∧
       (slotAt 0 (enterReadOnly .retiredListFull s)).bind Slot.reply = some (.readOnlyMode, .none)) ∧
    (let s := working .held aPut
     heldSlot s = some 0 ∧ Store.Canonical s.link.slots ∧
       (slotAt 0 (enterReadOnly .retiredListFull s)).bind Slot.reply = some (.readOnlyMode, .none)) ∧
    (let s := { ready with
       segs := [(2, openRec), (3, { fullRec with state := .evacuating })]
       comp := { ready.comp with running := true, victim := some ⟨3, .reading, 1, [], false⟩ }
       reloc := { Stream.empty with openSeg := some 2, buffer := [placed], cellsUsed := 1 } }
     s.comp.victim = some ⟨3, .reading, 1, [], false⟩ ∧ segState 3 (enterReadOnly .retiredListFull s) = some .full ∧
       s.reloc.stranded = false ∧ s.reloc.buffer ≠ [] ∧ s.reloc.inFlight = none ∧ bufferDest .relocate s = some (2, 1)) ∧
    (⟨3, .erasing, 48, [], true⟩ : Victim).phase = .erasing := by decide

/-- A victim whose segment is being erased, with 0 and with 5 suspensions made. -/
def erasing (n : Nat) : State :=
  { running (.erase ⟨.compaction, 3, n⟩) ready with
    segs := [(3, { fullRec with state := .erasing })]
    comp := { ready.comp with running := true, victim := some ⟨3, .erasing, 48, [], true⟩ } }

theorem test_witness_EngineEraseEnds : isHeld (erasing 0) = false ∧
    (erasing 0).arr.op = some (.erase ⟨.compaction, 3, 0⟩) ∧
    (erasing 0).comp.victim = some ⟨3, .erasing, 48, [], true⟩ ∧
    segAt 3 (erasing 0) = some { fullRec with state := .erasing } ∧ (erasing 0).reloc.openSeg ≠ some 3 := by decide

/-- A victim whose header is being programmed; a COMPACT that one more FREE segment satisfies; a FULL segment 2,001 erases
behind. -/
theorem test_witness_EngineErase_freed : Store.Canonical (erasing 0).segs ∧
    (let s := { running (.program .compaction 3 0 (segHeader 1 0 1)) ready with
       comp := { ready.comp with running := true, victim := some ⟨3, .header, 48, [], true⟩ } }
     isHeld s = false ∧ s.arr.op = some (.program .compaction 3 0 (segHeader 1 0 1)) ∧
       s.comp.victim = some ⟨3, .header, 48, [], true⟩) ∧
    (let s := { holding (slotIn .awaitingCompaction (.compact none)) ready with
       segs := [(3, { fullRec with state := .erasing, eraseCount := 2003 }), (4, fullRec)]
       comp := { ready.comp with compacts := [⟨0, 6⟩] } }
     segAt 3 s = some { fullRec with state := .erasing, eraseCount := 2003 } ∧ segAt 4 s = some fullRec ∧
       2000 + fullRec.eraseCount < 2003 ∧ (⟨0, 6⟩ : CompactWait).target ≤ s.freeCount + 1 ∧
       s.startup.mode ≠ .formatting ∧ (segmentFreed 3 s).ordinary = [4] ∧
       (segmentFreed 3 { s with startup := { s.startup with mode := .formatting } }).ordinary = []) :=
  ⟨by decide, ⟨rfl, rfl, rfl⟩, by decide⟩

/-- A GET's read waiting at an erase with 5 and with 6 suspensions made. -/
def suspending (n : Nat) : State :=
  { erasing n with
    index := [(Key.code key, .live 3 10 1 ⟨2, 1, 0⟩ true)]
    arr := { (erasing n).arr with hostPlace := some ⟨.host, .requestEngine, .readKey key⟩ } }

theorem test_witness_TimeoutsAndSuspensionsEnd : isHeld ready = false ∧ ready.arr.op = none ∧
    programming.arr.op ≠ none ∧ (suspending 5).arr.suspendRequested = true ∧ (suspending 6).arr.suspendRequested = false ∧
    (suspending 5).arr.op = some (.erase ⟨.compaction, 3, 5⟩) ∧
    lookup key (suspending 5) = some (.live 3 10 1 ⟨2, 1, 0⟩ true) ∧
    (running (.read ⟨.patrolUnit, 3, 1, none⟩) ready).arr.op = some (.read ⟨.patrolUnit, 3, 1, none⟩) :=
  ⟨rfl, rfl, by decide, by decide, by decide, rfl, lookup_withEntry _ (erasing 5), rfl⟩

/-- An erase suspended with 5 and with 6 suspensions made, its HOST place empty, and with a GET's read there; a key of each
kind; a read of each originator. -/
theorem test_witness_Suspensions_next :
    (let s (n : Nat) (c : Option Claim) : State := { ready with
       arr := { ArrayCtl.idle with suspended := some ⟨.compaction, 3, n⟩, hostPlace := c } }
     let get : Claim := ⟨.host, .requestEngine, .readKey key⟩
     (s 5 none).arr.op = none ∧ (s 5 none).arr.suspended = some ⟨.compaction, 3, 5⟩ ∧ (s 5 none).arr.hostPlace = none ∧
       (s 5 (some get)).arr.hostPlace = some get ∧ isPresent (lookup key (s 5 (some get))) = false ∧
       (suspendNext 2 (s 5 (some get))).arr.op = some (.erase ⟨.compaction, 3, 6⟩) ∧
       (suspendNext 2 (s 6 (some get))).arr.op = some (.erase ⟨.compaction, 3, 6⟩) ∧
       ready.arr.suspended = none ∧
       (∀ e, e ∈ [liveEntry true, liveEntry false, .lost 3 10] →
         lookup key (withEntry e (s 5 (some get))) = some e)) ∧
    (⟨.requestEngine, 3, 1, some taken⟩ : ReadRun).get = some taken ∧
    (⟨.compaction, 3, 1, none⟩ : ReadRun).origin = .compaction ∧ (⟨.startup, 0, 0, none⟩ : ReadRun).origin = .startup := by
  decide

/-- R76: a claim finds the place of its class empty, and then held. -/
theorem test_witness_Grant_claims :
    (let read (p : Nat) : Claim := ⟨.relocate, .compaction, .read 3 p⟩
     let s := makeClaim .relocate .compaction (.read 3 1) ready
     ready.arr.place .relocate = none ∧ s.arr.place .relocate = some (read 1) ∧
       (makeClaim .relocate .compaction (.read 3 2) s).arr.outside = [read 2]) := by decide

/-- A place of each class, and the guard at 3 and at 4. -/
theorem test_witness_GrantOrderAndGuard :
    (let a : ArrayCtl := { ArrayCtl.idle with relPlace := some ⟨.relocate, .compaction, .read 3 1⟩, guardCount := 4 }
     a.guardCount = 4 ∧ a.relPlace.isSome = true ∧ ({ a with guardCount := 3 } : ArrayCtl).guardCount ≠ 4) ∧
    ArrayCtl.idle.catPlace = none ∧ ArrayCtl.idle.hostPlace = none ∧ ArrayCtl.idle.patPlace = none ∧
    (suspending 0).arr.hostPlace.isSome = true := by decide

/-- An idle array with a claim of each kind to grant, and a busy one. -/
theorem test_witness_GrantOrder_grants :
    (let s := { ready with arr := { ArrayCtl.idle with patPlace := some ⟨.patrol, .patrolUnit, .read 3 1⟩ } }
     s.arr.op = none ∧ s.arr.suspended = none ∧ s.arr.nextClass s.lowFree = some .patrol ∧
       s.arr.place .patrol = some ⟨.patrol, .patrolUnit, .read 3 1⟩) ∧
    (let s := { withEntry (liveEntry true) ready with
       arr := { ArrayCtl.idle with hostPlace := some ⟨.host, .requestEngine, .readKey key⟩ } }
     s.arr.nextClass s.lowFree = some .host ∧ lookup key s = some (liveEntry true)) ∧
    (erasing 0).arr.op ≠ none := by decide

/-- R78(1), R79(2): HOST and RELOCATE claims that find the array idle in one change leave the guard count at 0. -/
theorem test_guard_when_idle :
    (let a := { ArrayCtl.idle with
       hostPlace := some ⟨.host, .hostStream, .program 2 1 (segHeader 0 0 0)⟩
       relPlace := some ⟨.relocate, .compaction, .read 3 1⟩ }
     (arbitrate false 3 { ready with arr := a }).arr.guardCount = 0 ∧
       (arbitrate true 3 { ready with arr := a }).arr.guardCount = 1) := by decide

/-- A waiting HOST entry, a waiting copy and a held PUT. -/
theorem test_witness_WaitingAndHeldEntriesAreHandled :
    (let s := { working .active aPut with host := { ready.host with waiting := some (.host 0 key (some [1#8, 2#8])) } }
     isHeld s = false ∧ s.host.waiting = some (.host 0 key (some [1#8, 2#8])) ∧ s.host.buffer = [] ∧
       slotAt 0 s = some (slotIn .active aPut) ∧ s.engine.active = some 0 ∧
       HostRoom 2 1 (hostCells (some [1#8, 2#8])) s) ∧
    (let s := { ready with reloc := { Stream.empty with waiting := some (.copy placed.entry ⟨3, 1, 0⟩) } }
     s.reloc.waiting = some (.copy placed.entry ⟨3, 1, 0⟩) ∧ s.reloc.buffer = [] ∧ s.reloc.stranded = false) ∧
    (streamOf .host ready).waiting = none ∧
    (let s := working .held aPut
     isHeld s = false ∧ s.lowFree = false ∧ Store.Canonical s.link.slots ∧ heldSlot s = some 0 ∧
       slotAt 0 s = some (slotIn .held aPut) ∧ s.engine.active = some 0 ∧ HostRoom 2 1 (cellsOf 2) s) ∧
    (let s := working .held (.delete key false none)
     heldSlot s = some 0 ∧ slotAt 0 s = some (slotIn .held (.delete key false none)) ∧ HostRoom 2 1 1 s) ∧
    heldSlot ready = none :=
  ⟨⟨rfl, rfl, rfl, rfl, rfl, rfl, rfl, rfl, rfl, by decide⟩, ⟨rfl, rfl, rfl⟩, rfl,
    ⟨rfl, rfl, List.pairwise_singleton _ _, rfl, rfl, rfl, rfl, rfl, rfl, rfl, by decide⟩,
    ⟨rfl, rfl, rfl, rfl, rfl, rfl, by decide⟩, rfl⟩

/-- A waiting entry and a held request with no open segment, whose ask is granted, and refused for want of a stamp. -/
theorem test_witness_WaitingAndHeld_asks :
    (let s := { working .active aPut with host := { Stream.empty with waiting := some (.host 0 key (some [1#8, 2#8])) } }
     isHeld s = false ∧ s.host.waiting = some (.host 0 key (some [1#8, 2#8])) ∧ s.host.openSeg = none ∧
       s.host.stranded = false ∧ (Sys2Proof.Machine.openSegment .host false s).isSome = true ∧ s.comp.noGain = false) ∧
    (let s := { working .held aPut with host := Stream.empty }
     isHeld s = false ∧ heldSlot s = some 0 ∧ s.lowFree = false ∧ s.host.openSeg = none ∧
       (Sys2Proof.Machine.openSegment .host false s).isSome = true) ∧
    (let s := { working .held aPut with host := Stream.empty, nextStamp := none }
     heldSlot s = some 0 ∧ Sys2Proof.Machine.openSegment .host false s = none) := by decide

/-- A victim that has drained, with a reason. -/
def drained (reason : Option RefreshReason) (strikes : Nat) : State :=
  { ready with
    segs := [(3, { fullRec with state := .evacuating, reason := reason, strikes := strikes })]
    comp := { ready.comp with running := true, victim := some ⟨3, .draining, 48, [], true⟩ } }

theorem test_witness_EvacuationEndDecidesTheFate : isHeld (drained none 0) = false ∧
    (drained none 0).comp.victim = some ⟨3, .draining, 48, [], true⟩ ∧
    evacuationEnded ⟨3, .draining, 48, [], true⟩ (drained none 0) = true ∧
    evacuationEnded ⟨3, .draining, 48, [], true⟩ { drained none 0 with reloc := buffered.host } = false ∧
    (segAt 3 (drained (some .threshold) 1)).map SegRec.strikes = some 1 ∧ 1 + 1 < 3 ∧ 3 ≤ 2 + 1 := by decide

/-- An eligible member behind one that is not; the watermark reached and not; a victim for gain at 720 live cells and none
at 721; a victim that can and one that cannot begin. -/
theorem test_witness_EvacuationEnd_choice : Store.Canonical ready.segs ∧ ready.startup.mode = .ready ∧
    (let s := { ready with urgent := [4], ordinary := [3] }
     s.urgent ++ s.ordinary = [4] ++ 3 :: [] ∧ segState 3 s = some .full ∧ segState 4 s ≠ some .full ∧
       s.host.inFlight = none ∧ s.reloc.inFlight = none) ∧
    ready.urgent ++ ready.ordinary = [] ∧ ¬ ready.params.compactStop ≤ ready.freeCount ∧
    ({ ready with freeCount := 24 } : State).params.compactStop ≤ 24 ∧
    gainVictim { ready with segs := [(3, { fullRec with live := 720 })] } = some 3 ∧
    gainVictim { ready with segs := [(3, { fullRec with live := 721 })] } = none ∧
    (∃ p ∈ ready.segs, p.2.state = .free) ∧ ready.reloc.stranded = false ∧
    (let s := { ready with segs := [(3, { fullRec with live := 1 })] }
     (∀ p ∈ s.segs, p.2.state ≠ .free) ∧ s.reloc.openSeg.isSome = false) ∧
    heldSlot (working .held aPut) = some 0 := by decide

theorem test_witness_SnapshotCapturesTheSpaces : ready.cat.begun + 1 < 2 ^ 32 ∧ ready.cat.nextPage = none ∧
    ({ ready.cat with nextPage := some 47 } : Catalogue).nextPage = some 47 ∧ 15 < 16 := by decide

/-- The catalogue phase with what its mirrors have shown so far. -/
def reading (m : Mount) : State := { ready with startup := { ready.startup with mode := .mounting, mount := some m } }

/-- Pages 0, 1 and 47 of a mirror, and its first blank page; a valid snapshot and one that retires segment 1; no snapshot
found; the newer in mirror A; one generation in both, A's highest page the lower. -/
theorem test_witness_SnapshotFound :
    (let snap (g : Nat) (r : List Nat) : Snapshot := ⟨g, 1, List.replicate 16 ⟨.opened, false, none, 0⟩, r, 0#32⟩
     let page (n : Snapshot) : ReadOutcome := .written ⟨⟨some 8, some 0, some 0, some 0⟩, none, false, true,
       some (.snapshot n), []⟩
     let found (t : State) := t.startup.mount.map (fun m => (m.scanA.found.length, m.scanA.top, m.page))
     let next (p : Nat) (o : ReadOutcome) := startupReadEnded 0 p o (reading Mount.start)
     let at' (a b : MirrorScan) := { Mount.start with scanA := a, scanB := b }
     Mount.start.phase = .catalogue ∧ found (next 0 .blank) = some (0, 0, 1) ∧
       found (next 46 (page (snap 5 [2]))) = some (1, 46, 47) ∧ found (next 47 (page (snap 5 [2]))) = some (1, 47, 0) ∧
       found (next 1 (page (snap 5 [1]))) = some (0, 1, 2) ∧ found (next 2 .blank) = some (0, 0, 0) ∧
       (next 47 .blank).arr.catPlace = some ⟨.catalogue, .startup, .read 1 0⟩ ∧
       (catalogueRead (reading (at' ⟨0, none, []⟩ ⟨0, none, []⟩))).startup.mode = .unformatted ∧
       (catalogueRead (reading (at' ⟨47, none, [⟨snap 5 [], true⟩]⟩ ⟨9, none, [⟨snap 4 [], false⟩]⟩))).cat.nextPage = none ∧
       (catalogueRead (reading (at' ⟨3, none, [⟨snap 5 [], false⟩]⟩ ⟨9, none, [⟨snap 5 [], false⟩]⟩))).cat.nextPage =
         some 4) := by decide

/-- A condemned segment and a SET_POLICY among the waiters. -/
theorem test_witness_SnapshotCompletionReleasesWaiters :
    (let s := { holding (slotIn .awaitingCatalogue (.setPolicy 1 1 0)) ready with
      cat := { ready.cat with waiters := [⟨.segment 3, 1⟩, ⟨.slot 0, 1⟩] } }
     s.startup.format = none ∧ (⟨.segment 3, 1⟩ : Waiter) ∈ s.cat.waiters ∧ (⟨.slot 0, 1⟩ : Waiter) ∈ s.cat.waiters ∧
       segAt 3 s = some fullRec ∧ slotAt 0 s = some (slotIn .awaitingCatalogue (.setPolicy 1 1 0)) ∧ (1 : Nat) ≤ 1) := by
  decide

/-- The program of a snapshot, and a SET_QUOTA and a CLEAR_SPACE among the waiters. -/
theorem test_witness_SnapshotCompletion_barriers :
    (let snap : Snapshot := ⟨1, 1, [], [], 0#32⟩
     let s := { running (.program .writer 0 2 (.snapshot snap)) ready with
       cat := { ready.cat with write := some ⟨snap, 2, .program⟩ } }
     isHeld s = false ∧ s.arr.op = some (.program .writer 0 2 (.snapshot snap)) ∧
       s.cat.write = some ⟨snap, 2, .program⟩) ∧
    (slotIn .awaitingCatalogue (.setQuota 1 5)).request = .setQuota 1 5 ∧
    (slotIn .awaitingCatalogue (.clearSpace 1)).request = .clearSpace 1 := by decide

/-- A write of the catalogue at a step, after some failures in a row. -/
def writing (step : WriteStep) (failures : Nat) (nextPage : Option Nat) : State :=
  { holding (slotIn .awaitingCatalogue (.setQuota 1 5)) ready with
    cat := { ready.cat with
      write := some ⟨⟨1, 1, [], [], 0#32⟩, 2, step⟩, failures := failures, nextPage := nextPage
      waiters := [⟨.slot 0, 1⟩] } }

/-- R148, R150, R151: a second failure goes to the next page, or to the mirror switch; the third, and a failed mirror erase,
fail the catalogue and answer the barrier; a header OK leads to page 1. -/
theorem test_witness_SnapshotFailures :
    (let answered (s : State) := (slotAt 0 s).bind Slot.reply
     let again := writerProgrammed false (writing .program 1 (some 47))
     let fails := writerProgrammed false (writing .program 2 (some 47))
     (again.cat.write.map CatWrite.page) = some 47 ∧ again.cat.nextPage = none ∧ again.cat.failures = 2 ∧
       answered again = none ∧
       ((writerProgrammed false (writing .program 1 none)).cat.write.map CatWrite.step) = some .erase ∧
       fails.cat.failed = true ∧ fails.startup.mode = .readOnly ∧ answered fails = some (.mediaFault, .none) ∧
       answered (writerErased false (writing .erase 0 none)) = some (.mediaFault, .none) ∧
       ((writerErased true (writing .erase 0 none)).cat.write.map CatWrite.step) = some .header ∧
       (writerProgrammed true (writing .header 2 (some 1))).cat.failures = 0 ∧
       (writerProgrammed false (writing .header 2 (some 1))).cat.failed = true) ∧
    (running (.erase ⟨.writer, 0, 0⟩) ready).arr.op = some (.erase ⟨.writer, 0, 0⟩) := by decide

/-- The snapshot of a FORMAT completes, with and without a pending cause. -/
theorem test_witness_SnapshotOfFormat :
    (let s (c : Option Cause) : State := { writing .program 0 none with startup := { ready.startup with
       mode := .formatting, pendingCause := c, format := some ⟨.snapshot, some 0, false, 0, 0, 0, [], 3⟩ } }
     let ends (c : Option Cause) := snapshotCompleted ⟨⟨1, 1, [], [], 0#32⟩, 2, .program⟩ (s c)
     (s none).startup.format.map Format.phase = some .snapshot ∧ (ends none).startup.mode = .ready ∧
       ((slotAt 0 (ends none)).bind Slot.reply) = some (.ok, .formatted 1 3) ∧
       (ends (some .retiredListFull)).startup.cause = some .retiredListFull ∧ ready.comp.victim = none ∧
       ready.reloc.openSeg = none) := by decide

/-- Two candidates of one key with one sequence: the higher open stamp wins. -/
theorem test_witness_MountKeepsTheNewestEntry :
    (Store.get (Key.code key) (winners [⟨key, 3, some 10, 1, ⟨3, 1, 0⟩, 7⟩, ⟨key, 3, some 10, 1, ⟨2, 1, 0⟩, 8⟩])).map
      Candidate.stamp = some 8 := by decide

/-- A candidate counts at the clear sequence of its space and not below it; the winner enters the index. -/
theorem test_witness_MountKeeps_index :
    (let m := { Mount.start with candidates := [⟨key, 3, some 10, 1, ⟨3, 1, 0⟩, 7⟩] }
     (winners m.candidates).length ≤ 16384 ∧ lookup key (buildIndex m ready) = some (liveEntry true) ∧
       lookup key (buildIndex m { ready with
         spaces := numbered (List.replicate 16 { SpaceRec.fresh false with clearSeq := 4 }) }) = none) := by decide

/-- A TOMBSTONE candidate of each key below `n`. -/
def keysBelow (n : Nat) : List Candidate := (List.range n).map (fun i => ⟨Key.ofCode i, 3, none, 1, ⟨3, 1, 0⟩, 7⟩)

/-- A value listed under a new number makes the table one longer. -/
theorem length_put {α : Type} {k : Nat} {v : α} {m : List (Nat × α)} (h : Store.get k m = none) :
    (Store.put k v m).length = m.length + 1 := by
  induction m with
  | nil => rfl
  | cons p rest ih =>
    obtain ⟨j, w⟩ := p
    have hj : j ≠ k := fun e => by simp [Store.get, e] at h
    have hr : Store.get k rest = none := by simpa [Store.get, hj] using h
    by_cases hk : k < j
    · simp [Store.put, hk]
    · simp [Store.put, hk, hj, ih hr]

/-- As many keys as wanted have a winner, and no key above them. -/
theorem winners_keysBelow (n : Nat) :
    (winners (keysBelow n)).length = n ∧ ∀ k, n ≤ k → Store.get k (winners (keysBelow n)) = none := by
  induction n with
  | zero => exact ⟨rfl, fun _ _ => rfl⟩
  | succ n ih =>
    have code : Key.code (Key.ofCode n) = n := by simp only [Key.code, Key.ofCode]; omega
    have step : winners (keysBelow (n + 1)) = Store.put n ⟨Key.ofCode n, 3, none, 1, ⟨3, 1, 0⟩, 7⟩ (winners (keysBelow n)) := by
      simp [winners, keysBelow, List.range_succ, takeCandidate, code]
      have := ih.2 n (Nat.le_refl n)
      simp only [winners, keysBelow] at this
      rw [this]
    rw [step]
    refine ⟨by rw [length_put (ih.2 n (Nat.le_refl n)), ih.1], fun k hk => ?_⟩
    rw [Store.get_put_other (by omega), ih.2 k (by omega)]

/-- R164: more than 16,384 keys with a winner, in MOUNTING with no cause pending. -/
theorem test_witness_MountKeeps_overflow : 16384 < (winners (keysBelow 16385)).length ∧
    State.reset.startup.mode = .mounting ∧ State.reset.startup.pendingCause = none :=
  ⟨by rw [(winners_keysBelow 16385).1]; decide, rfl, rfl⟩

/-- Mount with the segments still to erase. -/
def ending (toErase : List EraseMark) : State :=
  reading { Mount.start with phase := .states, toErase := toErase, highestSeq := 7, highestStamp := 8, torn := 1 }

/-- R166: an erase OK, its header OK and FAIL, with room in the retired list and without. -/
theorem test_witness_MountErases :
    (let e : EraseMark := ⟨4, 6, 1, .bits 2⟩
     let s := ending [e]
     let full := { s with cat := { s.cat with retired := List.range 96 } }
     s.startup.mount.map Mount.toErase = some [e] ∧ segState 4 (eraseNext s) = some .erasing ∧
       (startupErased true s).arr.catPlace.isSome = true ∧ segState 4 (startupHeader true s) = some .free ∧
       segState 4 (startupHeader false s) = some .condemned ∧ (startupHeader false s).cat.waiters = [⟨.segment 4, 1⟩] ∧
       s.cat.failed = false ∧ 4 ∉ s.cat.retired ∧ ¬ full.cat.retired.length + full.cat.condemnedWaiters.length < 96 ∧
       full.startup.mode = .mounting ∧ full.startup.pendingCause = none) := by decide

/-- R167, R168: the end of mount in READY and with a pending cause; the next sequence from the scan and from a clear
sequence; a quota below its usage; the low-free condition at 4 FREE segments. -/
theorem test_witness_MountEnds :
    (let s := ending []
     let spaces (n : Nat) := numbered [{ SpaceRec.fresh false with clearSeq := n, usage := 3, quota := some 2 }]
     let t := eraseNext { s with spaces := spaces 8 }
     Store.Canonical s.segs ∧ s.comp.victim = none ∧ s.reloc.buffer = [] ∧ s.host.waiting = none ∧
       s.startup.pendingCause = none ∧ t.startup.mode = .ready ∧ t.nextSeq = some 8 ∧
       (eraseNext { s with spaces := spaces 9 }).nextSeq = some 9 ∧ t.nextStamp = some 9 ∧ t.freeCount = 5 ∧
       (Store.get 0 t.spaces).bind SpaceRec.quota = some 3 ∧ t.cat.dirty = true ∧
       t.link.notices = [.mounted .ready 0 1 0 0] ∧
       (let u := eraseNext { s with segs := [], startup := { s.startup with pendingCause := some .retiredListFull } }
        u.startup.cause = some .retiredListFull ∧ u.link.notices = [.mounted .readOnly 0 1 0 0,
          .modeChanged .readOnly (some .retiredListFull), .spaceLow 0])) ∧
    (eraseNext { ending [] with segs := [(3, fullRec), (4, rec .free 2003)] }).ordinary = [3] ∧
    (eraseNext { ending [] with segs := [(3, fullRec), (4, rec .free 2002)] }).ordinary = [] := by decide

/-- The scan in progress at segment 3, with the mark its header left. -/
def scanning (suspect : Option (Nat × Written)) : State :=
  let mark : ScanMark := ⟨.matching, 1, 0, false, none, none, .bits 0, none⟩
  { ready with startup := { ready.startup with
    mode := .mounting, mount := some { Mount.start with phase := .scan, seg := 3, marks := [(3, mark)], suspect := suspect } } }

/-- A written page whose check fails, as the last page and followed by a written one; pages 1 and 47; each header case; the
last segment of the scan. -/
theorem test_witness_MountScansAndMakesRecords :
    (let w : Written := ⟨⟨some 0, some 0, some 0, none⟩, none, false, false, none, []⟩
     (scanning (some (1, w))).startup.mount.isSome = true ∧
       ((startupReadEnded 3 2 .blank (scanning (some (1, w)))).startup.mount.map Mount.torn) = some 1 ∧
       ((startupReadEnded 3 2 (.written w) (scanning (some (1, w)))).startup.mount.map Mount.damaged) = some 1 ∧
       ((startupReadEnded 3 1 (.written w) (scanning none)).startup.mount.bind Mount.suspect) = some (1, w)) ∧
    (headerMark 1 .blank).header = .blank ∧
    (headerMark 1 (.written ⟨⟨some 0, some 0, some 0, some 0⟩, none, false, true, some (segHeader 9 0 1), []⟩)).header =
      .matching ∧
    (headerMark 1 (.written ⟨⟨some 0, some 0, some 0, some 0⟩, none, false, true, some (segHeader 9 0 2), []⟩)).header =
      .foreign ∧
    (headerMark 1 (.written ⟨⟨some 0, some 0, some 0, some 0⟩, none, false, false, none, []⟩)).header = .unreadable ∧
    nextScanned 3 ready = some 3 ∧ nextScanned 1024 ready = none ∧
    (let m := { Mount.start with marks := [(3, ⟨.matching, 1, 0, true, some 4, some 7, .bits 2, none⟩),
       (4, ⟨.blank, 0, 0, false, none, none, .bits 0, none⟩)] }
     Store.Canonical m.marks ∧ (Store.get 3 (scanRecords m ready)).map SegRec.state = some .full ∧
       (Store.get 4 (scanRecords m ready)).isNone = true) := by decide

theorem test_witness_EveryStepKeepsTablesCanonical : TablesCanonical (asked .sync) ∧
    step { asked .sync with pending := [.wpChanged true] } = .next { asked .sync with wp := true } :=
  ⟨tables_asked _, rfl⟩

theorem test_witness_EveryStepKeepsNoticesBounded : NoticesBounded [.spaceLow 4, .overflow 65535] :=
  by unfold NoticesBounded; decide

theorem test_witness_EveryStepKeepsRequestTableSound : RequestTableSound (asked .sync).link.slots := by
  refine ⟨List.pairwise_singleton _ _, ?_, ?_, ?_, ?_⟩ <;> simp [asked, holding, slotIn, Config.slots]

theorem test_witness_EveryStepKeepsCountsBounded : CountsBounded fullReplies := by
  unfold CountsBounded; refine ⟨?_, ?_, ?_, ?_, ?_, ?_, ?_⟩ <;> decide

/-- A SYNC taken in READY and in READ_ONLY. -/
theorem test_witness_ServingModesAreLeftOnlyByFormat : Settled (asked .sync) ∧ Serves (asked .sync) ∧
    isResetCommand .sync = false ∧ Instr.sync ≠ .format ∧ exec .sync ready = .next ready := by
  refine ⟨⟨rfl, rfl⟩, .inl rfl, rfl, by decide, rfl⟩

theorem test_witness_PoliciesAndFrozenMarksNeverFall : Settled ready ∧ isResetCommand .put = false ∧
    exec .put ready = .next ready := ⟨⟨rfl, rfl⟩, rfl, rfl⟩

theorem test_witness_ArrayChangesOnlyAtItsOperations : exec .put ready = .next ready ∧ ¬ isTarget ready.arr.op 48 ∧
    ready.arr.suspended = none := ⟨rfl, id, rfl⟩

theorem test_witness_ParametersChangeOnlyBySetParam : exec .put ready = .next ready ∧ Instr.put ≠ .setParam :=
  ⟨rfl, by decide⟩

/-- An answered slot that nothing names any more, and one slot that does not await a commit. -/
theorem test_witness_EndOfChangeFrame :
    (let sl : Slot := ⟨1#8, .sync, 1, .replyReady, none, some (.ok, .none)⟩
     let s := holding sl ready
     Store.Canonical s.link.slots ∧ slotAt 0 s = some sl ∧ sl.state = .replyReady ∧ s.engine.active ≠ some 0 ∧
       s.comp.compacts = [] ∧ s.cat.waiters = [] ∧ s.host.waiting = none ∧ s.startup.format = none ∧
       (∃ p ∈ s.link.slots, p.2.state ≠ .awaitingCommit)) := by decide

/-- Each test acts at the bound of its condition and not past it: a snapshot, a run by a member, by 15 FREE segments and not
by 16, the queue pressure. -/
theorem test_witness_EndOfChange_acts :
    (let dirty := { ready with cat := { ready.cat with dirty := true } }
     dirty.cat.write = none ∧ dirty.cat.failed = false ∧ (snapshotTest dirty).cat.begun = 1) ∧
    (let at' (n : Nat) : State := { ready with freeCount := n }
     (at' 15).freeCount < ready.params.compactStart ∧ ¬ (at' 16).freeCount < ready.params.compactStart ∧
       ready.comp.running = false ∧ ready.comp.noGain = false ∧ (startTest (at' 15)).comp.running = true ∧
       (startTest (at' 16)).comp.running = false ∧
       (startTest { at' 16 with ordinary := [3] }).comp.running = true) ∧
    (let s := { holding (slotIn .awaitingCommit aPut) ready with host := buffered.host }
     s.link.slots ≠ [] ∧ (∀ p ∈ s.link.slots, p.2.state = .awaitingCommit) ∧
       (pressureTest s).host.buffer = []) := by decide

/-- The engine in READING at page 47 and past it, with PFW's pause and with its read running; and in ERASING. -/
theorem test_witness_EndOfChange_engine :
    (let at' (p : Phase) (page : Nat) : State := { ready with
       segs := [(3, { fullRec with state := .evacuating, live := 1 })]
       comp := { ready.comp with running := true, victim := some ⟨3, p, page, [], false⟩ } }
     (engineTest (at' .reading 47)).arr.relPlace = some ⟨.relocate, .compaction, .read 3 47⟩ ∧
       ((engineTest (at' .reading 48)).comp.victim.map Victim.phase) = some .draining ∧
       engineTest { at' .reading 47 with comp := { (at' .reading 47).comp with paused := true } } =
         { at' .reading 47 with comp := { (at' .reading 47).comp with paused := true } } ∧
       engineTest (running (.read ⟨.compaction, 3, 47, none⟩) (at' .reading 47)) =
         running (.read ⟨.compaction, 3, 47, none⟩) (at' .reading 47) ∧
       (engineTest (at' .erasing 48)).arr.relPlace = some ⟨.relocate, .compaction, .erase 3⟩ ∧
       engineTest (erasing 0) = erasing 0 ∧ engineTest (at' .draining 48) = at' .draining 48) := by decide

end Sys2Proof.Tests
end

namespace Sys2Proof.Machine

/-! ## The canonical form of the tables is a property of `Whole` (O50, assumption 36) -/

theorem canonical_of_keys {α β : Type} {l : List (Nat × α)} {m : List (Nat × β)}
    (h : l.map Prod.fst = m.map Prod.fst) (hm : Store.Canonical m) : Store.Canonical l := by
  rw [Store.Canonical, h]; exact hm

theorem keys_of_slotIds {l m : List (Nat × Slot)} (h : l.map slotId = m.map slotId) :
    l.map Prod.fst = m.map Prod.fst := by
  have h1 := congrArg (List.map Prod.fst) h
  simpa [Function.comp_def, slotId] using h1

theorem keys_of_spaceIds {l m : List (Nat × SpaceRec)} (h : l.map spaceId = m.map spaceId) :
    l.map Prod.fst = m.map Prod.fst := by
  have h1 := congrArg (List.map Prod.fst) h
  simpa [Function.comp_def, spaceId] using h1

theorem canonical_freeSlot (n : Nat) {l : List (Nat × Slot)} (h : Store.Canonical l) :
    Store.Canonical (freeSlot n l) := by
  unfold freeSlot
  split
  · exact h
  · exact Store.canonical_mapVals (Store.canonical_del h)

/-- A change of the Host Link keeps the Request Table in slot order (R178). -/
theorem LinkStep.slots_canonical {l m : Link} (h : LinkStep l m) (hl : Store.Canonical l.slots) :
    Store.Canonical m.slots := by
  cases h with
  | marks | counters | answerLeaves | answerEnters | noticeLeaves | guard | emptied => exact hl
  | freed n => exact canonical_freeSlot n hl
  | occupied => exact Store.canonical_put hl
  | kept n =>
    have hkept : Store.Canonical (l.slots.filter (fun p => p.1 == n)) := Store.canonical_filter hl
    refine canonical_of_keys ?_ hkept
    simp [Function.comp_def]
  | noneKept => exact List.Pairwise.nil

/-- The tables of the state are canonical along every basic change of a running part. -/
theorem tablesCanonical_whole : Whole TablesCanonical where
  work s t h _ x := by unfold SameButWork at h; rw [h]; exact x
  slots s l h := fun ⟨hf, hi, hg, hp, hl, hm⟩ => ⟨hf, hi, hg, hp, canonical_of_keys (keys_of_slotIds h) hl, hm⟩
  notice _ _ x := x
  segs s l h := fun ⟨hf, hi, hg, hp, hl, hm⟩ => ⟨hf, hi, h hg, hp, hl, hm⟩
  index s l h := fun ⟨hf, hi, hg, hp, hl, hm⟩ => ⟨hf, h hi, hg, hp, hl, hm⟩
  counts s l h := fun ⟨hf, hi, hg, hp, hl, hm⟩ => ⟨hf, hi, hg, canonical_of_keys (keys_of_spaceIds h) hp, hl, hm⟩
  readOnly _ _ _ x := x
  pendingCause _ _ _ x := x
  formatFails _ _ _ x := x
  sequence _ _ _ x := x
  marks _ _ x := x
  startup s u h := fun ⟨hf, hi, hg, hp, hl, hm⟩ => ⟨hf, hi, hg, hp, hl, h hm⟩
  spaces s l h := fun ⟨hf, hi, hg, hp, hl, hm⟩ => ⟨hf, hi, hg, h hp, hl, hm⟩
  link s l h := fun ⟨hf, hi, hg, hp, hl, hm⟩ => ⟨hf, hi, hg, hp, h.slots_canonical hl, hm⟩
  params _ _ x := x
  patrol _ _ x := x
  lines _ _ _ x := x
  flash s l h := fun ⟨hf, hi, hg, hp, hl, hm⟩ => ⟨h hf, hi, hg, hp, hl, hm⟩

theorem canonical_spoilPages (g : Nat) (f : Quality → Quality) (pages : List Nat) {m : List (Nat × StoredPage)}
    (h : Store.Canonical m) : Store.Canonical (pages.foldl (spoilPage g f) m) :=
  foldl_keeps (fun _ _ ht => Store.canonical_put ht) pages h

theorem canonical_spoilSegment (g : Nat) (f : Quality → Quality) {s : State} (h : Store.Canonical s.flash) :
    Store.Canonical (spoilSegment g f s).flash := by
  have hpages := canonical_spoilPages g f (List.range Config.pages) h
  simpa only [spoilSegment] using hpages

/-- Work cut short leaves the pages of the array listed in order (R84). -/
theorem canonical_cutShort {s : State} (h : Store.Canonical s.flash) : Store.Canonical (cutShort s).flash := by
  have hop : Store.Canonical (cutOperation s.arr.op s).flash := by
    unfold cutOperation
    split
    · exact Store.canonical_put h
    · exact canonical_spoilSegment _ _ h
    · exact h
  unfold cutShort cutErase
  split
  · exact canonical_spoilSegment _ _ hop
  · exact hop

/-- The held part lists nothing but the array, whose pages stay in order (R158). -/
theorem tablesCanonical_discardAll {s : State} (h : Store.Canonical s.flash) (w r : Bool) :
    TablesCanonical { discardAll s with powered := w, rst := r } :=
  ⟨canonical_cutShort h, .nil, .nil, .nil, .nil, trivial⟩

/-- Settles O50: the tables' form is kept by every basic change, and so by every command at the front of the queue. -/
theorem everyStepKeepsTablesCanonical : Obligations.EveryStepKeepsTablesCanonical := by
  intro s t hs hstep
  obtain ⟨hflash, hindex, hsegs, hspaces, hslots, hmarks⟩ := hs
  unfold step at hstep
  split at hstep
  · exact next_of ⟨hflash, hindex, hsegs, hspaces, hslots, hmarks⟩ hstep
  · next c rest _ =>
    have hrest : TablesCanonical { s with pending := rest } := ⟨hflash, hindex, hsegs, hspaces, hslots, hmarks⟩
    have hscan : marksCanonical { s with pending := rest } := hmarks
    exact tablesCanonical_whole.keeps_command hscan hrest
      (tablesCanonical_discardAll hflash) (fun _ => hrest) hstep

end Sys2Proof.Machine


/-! # The Record Index: one change of an entry and what follows from it (R4, R13, R14, Table 1-2) -/

namespace Sys2Proof.Machine

/-! ## Reading the Segment Table after a change -/

theorem segAt_modSeg (h g : Nat) (f : SegRec → SegRec) (s : State) :
    segAt h (modSeg g f s) = if h = g then (segAt h s).map f else segAt h s := by
  split
  · next e => subst e; exact Store.get_modify_same ..
  · next e => exact Store.get_modify_other e ..

theorem segAt_dropLive (h g n : Nat) (s : State) :
    segAt h (dropLive g n s) =
      (segAt h s).map (fun r => { r with live := r.live - (if g = h then n else 0) }) := by
  have hmod : segAt h (dropLive g n s) = segAt h (modSeg g (fun r => { r with live := r.live - n }) s) := by
    unfold dropLive; dsimp only; split <;> rfl
  rw [hmod, segAt_modSeg]
  by_cases e : h = g
  · simp [e]
  · simp [e, Ne.symm e]

theorem segAt_addLive (h g n : Nat) (s : State) :
    segAt h (addLive g n s) = (segAt h s).map (fun r => { r with live := r.live + (if g = h then n else 0) }) := by
  rw [addLive, segAt_modSeg]
  by_cases e : h = g
  · simp [e]
  · simp [e, Ne.symm e]

/-- The cells of an entry in a segment, by its location (R3, R4). -/
theorem cellsIn_of_loc {x : IndexEntry} {l : Loc} (h : x.loc? = some l) (g : Nat) :
    cellsIn g (some x) = if l.seg = g then x.cells else 0 := by
  simp [cellsIn, IndexEntry.inSeg, h]

theorem cellsIn_live (g q len cells : Nat) (l : Loc) (p : Bool) :
    cellsIn g (some (.live q len cells l p)) = if l.seg = g then cells else 0 := cellsIn_of_loc rfl g

theorem cellsIn_tombstone (g q : Nat) (l : Loc) (p : Bool) :
    cellsIn g (some (.tombstone q l p)) = if l.seg = g then 1 else 0 := cellsIn_of_loc rfl g

theorem cellsIn_of_no_loc {x : IndexEntry} (h : x.loc? = none) (g : Nat) : cellsIn g (some x) = 0 := by
  simp [cellsIn, IndexEntry.inSeg, h]

theorem segAt_uncountOld (g : Nat) (e : Option IndexEntry) (s : State) :
    segAt g (uncountOld e s) = (segAt g s).map (fun r => { r with live := r.live - cellsIn g e }) := by
  cases e with
  | none => simp [uncountOld, cellsIn]
  | some x =>
    cases hx : x.loc? with
    | none => simp [uncountOld, hx, cellsIn_of_no_loc hx]
    | some l => simp only [uncountOld, hx, segAt_dropLive, cellsIn_of_loc hx]

theorem segAt_countNew (g : Nat) (e : Option IndexEntry) (s : State) :
    segAt g (countNew e s) = (segAt g s).map (fun r => { r with live := r.live + cellsIn g e }) := by
  cases e with
  | none => simp [countNew, cellsIn]
  | some x =>
    cases hx : x.loc? with
    | none => simp [countNew, hx, cellsIn_of_no_loc hx]
    | some l => simp only [countNew, hx, segAt_addLive, cellsIn_of_loc hx]

/-! ## The frame of a change -/

theorem uncountOld_frame (e : Option IndexEntry) (s : State) :
    uncountOld e s = { s with segs := (uncountOld e s).segs, comp := (uncountOld e s).comp } := by
  unfold uncountOld dropLive; (repeat' split) <;> rfl

theorem countNew_frame (e : Option IndexEntry) (s : State) : countNew e s = { s with segs := (countNew e s).segs } := by
  unfold countNew; (repeat' split) <;> rfl

/-- One change of an entry touches the index, the live cells, the space's counts and the no-gain mark, and nothing else
(R4). -/
theorem changeEntry_frame (k : Key) (new : Option IndexEntry) (s : State) :
    changeEntry k new s = { s with
      index := setEntry k new s.index
      segs := (changeEntry k new s).segs
      spaces := Store.modify k.space (SpaceRec.recount (lookup k s) new) s.spaces
      comp := (changeEntry k new s).comp } := by
  rw [changeEntry, countNew_frame, uncountOld_frame]
  rfl

section
variable (k : Key) (new : Option IndexEntry) (s : State)

@[simp] theorem changeEntry_index : (changeEntry k new s).index = setEntry k new s.index := by rw [changeEntry_frame]
@[simp] theorem changeEntry_spaces : (changeEntry k new s).spaces =
    Store.modify k.space (SpaceRec.recount (lookup k s) new) s.spaces := by rw [changeEntry_frame]
@[simp] theorem changeEntry_reloc : (changeEntry k new s).reloc = s.reloc := by rw [changeEntry_frame]
@[simp] theorem changeEntry_link : (changeEntry k new s).link = s.link := by rw [changeEntry_frame]

end

/-- The live cells of every segment after a change (R4, Table 1-2). -/
theorem segAt_changeEntry (g : Nat) (k : Key) (new : Option IndexEntry) (s : State) :
    segAt g (changeEntry k new s) =
      (segAt g s).map (fun r => { r with live := r.live - cellsIn g (lookup k s) + cellsIn g new }) := by
  have h : segAt g (changeEntry k new s) = segAt g (countNew new (uncountOld (lookup k s) s)) := rfl
  rw [h, segAt_countNew, segAt_uncountOld, Option.map_map]
  rfl

theorem get_setEntry_same (k : Key) (new : Option IndexEntry) {l : List (Nat × IndexEntry)} (h : Store.Canonical l) :
    Store.get (Key.code k) (setEntry k new l) = new := by
  cases new with
  | none => exact Store.get_del_same h
  | some e => exact Store.get_put_same ..

theorem get_setEntry_other {k : Key} {c : Nat} (h : c ≠ Key.code k) (new : Option IndexEntry)
    (l : List (Nat × IndexEntry)) : Store.get c (setEntry k new l) = Store.get c l := by
  cases new with
  | none => exact Store.get_del_other h _
  | some e => exact Store.get_put_other h ..

theorem lookup_changeEntry (k : Key) (new : Option IndexEntry) {s : State} (h : Store.Canonical s.index) :
    lookup k (changeEntry k new s) = new := by
  rw [lookup, changeEntry_index, get_setEntry_same k new h]

theorem get_changeEntry_other {k : Key} {c : Nat} (h : c ≠ Key.code k) (new : Option IndexEntry) (s : State) :
    Store.get c (changeEntry k new s).index = Store.get c s.index := by
  rw [changeEntry_index, get_setEntry_other h]

/-- The counts of every space after a change (Table 1-2). -/
theorem space_changeEntry (m : Nat) (k : Key) (new : Option IndexEntry) (s : State) :
    Store.get m (changeEntry k new s).spaces =
      (Store.get m s.spaces).map (fun r => if m = k.space then SpaceRec.recount (lookup k s) new r else r) := by
  rw [changeEntry_spaces]
  split
  · next e => subst e; exact Store.get_modify_same ..
  · next e => rw [Store.get_modify_other e]; simp

/-- Settles O22: the reads of the index, the segments and the spaces after `changeEntry`. -/
theorem indexChangeKeepsTheCounts : Obligations.IndexChangeKeepsTheCounts := fun k new s hs =>
  ⟨lookup_changeEntry k new hs, fun _ hc => get_changeEntry_other hc new s, fun g => segAt_changeEntry g k new s,
    fun m => space_changeEntry m k new s⟩

/-! ## A tombstone dropped at evacuation (R13) -/

theorem Store.length_del {α : Type} {k : Nat} {v : α} {m : List (Nat × α)} (h : Store.get k m = some v) :
    (Store.del k m).length + 1 = m.length := by
  induction m with
  | nil => cases h
  | cons p rest ih =>
    obtain ⟨j, w⟩ := p
    by_cases e : j = k
    · simp [Store.del, e]
    · simp only [Store.get, e, if_false] at h
      simp [Store.del, e, ih h]

theorem dropTombstone_of_match {k : Key} {q : Nat} {loc : Loc} {s : State} {p : Bool}
    (h : lookup k s = some (.tombstone q loc p)) : dropTombstone k q loc s = changeEntry k none s := by
  simp [dropTombstone, h]

theorem dropTombstone_of_other {k : Key} {q : Nat} {loc : Loc} {s : State}
    (h : ∀ p, lookup k s ≠ some (.tombstone q loc p)) : dropTombstone k q loc s = s := by
  unfold dropTombstone
  split
  · next q' l p hl =>
    rw [if_neg]
    rintro ⟨rfl, rfl⟩
    exact h p hl
  · rfl

/-- A TOMBSTONE counts neither as usage nor as a key: its removal leaves the space's record as it is (R4). -/
theorem recount_tombstone_none (q : Nat) (l : Loc) (p : Bool) (r : SpaceRec) :
    SpaceRec.recount (some (.tombstone q l p)) none r = r := by
  simp [SpaceRec.recount, usageOf, IndexEntry.usage, isPresent, IndexEntry.present]

/-- Settles O23: the drop is one change of the entry, to none. -/
theorem tombstoneDropRemovesTheEntry : Obligations.TombstoneDropRemovesTheEntry := by
  refine fun k q loc s hs => ⟨fun p hp => ?_, dropTombstone_of_other⟩
  rw [dropTombstone_of_match hp]
  refine ⟨lookup_changeEntry k none hs, fun c hc => get_changeEntry_other hc none s, ?_, fun g => ?_, fun m => ?_⟩
  · rw [changeEntry_index]
    exact Store.length_del hp
  · rw [segAt_changeEntry, hp, cellsIn_tombstone]
    simp only [cellsIn, Nat.add_zero, eq_comm]
  · rw [space_changeEntry, hp]
    simp [recount_tombstone_none]

/-! ## A record reported unreadable (R14, R116) -/

theorem markLost_of_match {k : Key} {q len cells : Nat} {loc : Loc} {p : Bool} {s : State}
    (h : lookup k s = some (.live q len cells loc p)) :
    markLost k q loc s = queueNotice (.recordLost k.space k.item q) (changeEntry k (some (.lost q len)) s) := by
  simp [markLost, h]

theorem markLost_of_other {k : Key} {q : Nat} {loc : Loc} {s : State}
    (h : ∀ len cells p, lookup k s ≠ some (.live q len cells loc p)) : markLost k q loc s = s := by
  unfold markLost
  split
  · next q' len cells l p hl =>
    rw [if_neg]
    rintro ⟨rfl, rfl⟩
    exact h len cells p hl
  · rfl

/-- A LOST key stays present and gives up its cells (R4, R14). -/
theorem recount_live_lost {q len cells : Nat} {l : Loc} {p : Bool} {r : SpaceRec} (h : 1 ≤ r.keyCount) :
    SpaceRec.recount (some (.live q len cells l p)) (some (.lost q len)) r = { r with usage := r.usage - cells } := by
  simp [SpaceRec.recount, usageOf, IndexEntry.usage, isPresent, IndexEntry.present, Nat.sub_add_cancel h]

/-- Settles O38: the entry's one change is from LIVE to LOST, with its notice. -/
theorem unreadableRecordBecomesLost : Obligations.UnreadableRecordBecomesLost := by
  refine fun k q loc s hs => ⟨fun len cells p hp => ?_, markLost_of_other⟩
  rw [markLost_of_match hp]
  have hnew := lookup_changeEntry k (some (.lost q len)) hs
  refine ⟨hnew, fun c hc => get_changeEntry_other hc (some (.lost q len)) s, ?_, fun g => ?_,
    fun m r hr hcount => ?_⟩
  · rw [queueNotice_link, changeEntry_link]
  · refine (segAt_changeEntry g k _ s).trans ?_
    rw [hp, cellsIn_live, cellsIn_of_no_loc rfl]
    simp only [Nat.add_zero, eq_comm]
  · rw [queueNotice_spaces, space_changeEntry, hr, hp, Option.map_some]
    split
    · next e => rw [recount_live_lost (hcount e)]
    · rfl

end Sys2Proof.Machine


/-! # The Request Engine takes a request and checks it (R131, R132, R181) -/

namespace Sys2Proof.Machine

/-! ## The taken slot -/

theorem mem_of_oldestQueued {l : List (Nat × Slot)} {p : Nat × Slot} (h : oldestQueued l = some p) : p ∈ l := by
  induction l generalizing p with
  | nil => cases h
  | cons a rest ih =>
    unfold oldestQueued at h
    split at h
    · cases h; exact List.mem_cons_self
    · next q _ hq =>
      cases h
      unfold olderSlot
      split
      · exact List.mem_cons_of_mem _ (ih hq)
      · exact List.mem_cons_self
    · exact List.mem_cons_of_mem _ (ih h)

namespace Takes

variable {n : Nat} {r : Request} {s : State}

theorem engine_idle (h : Takes n r s) : s.engine.active = none := by
  obtain ⟨_, _, htaken⟩ := h
  unfold nextTaken at htaken
  split at htaken
  · next hfree => simp only [engineFree, Bool.and_eq_true, Option.isNone_iff_eq_none] at hfree; exact hfree.1.1
  · cases htaken

theorem slot (h : Takes n r s) : ∃ sl, slotAt n s = some sl ∧ sl.request = r := by
  obtain ⟨_, hslots, htaken⟩ := h
  unfold nextTaken at htaken
  split at htaken
  · obtain ⟨p, hp, hpair⟩ := Option.map_eq_some_iff.mp htaken
    obtain ⟨rfl, rfl⟩ := Prod.mk.inj hpair
    exact ⟨p.2, Store.get_of_mem hslots (mem_of_oldestQueued hp), rfl⟩
  · cases htaken

theorem exec_put {k : Key} {d : Bool} {exp : Option Nat} {v : List Byte} (h : Takes n (.put k d exp v) s) :
    exec .put s = .next (carryPut n k exp v (takenSlot n s)) := by
  obtain ⟨hheld, _, htaken⟩ := h
  simp [exec, execPut, whileRunning, hheld, putStep, htaken]

theorem exec_delete {k : Key} {d : Bool} {exp : Option Nat} (h : Takes n (.delete k d exp) s) :
    exec .delete s = .next (carryDelete n k exp (takenSlot n s)) := by
  obtain ⟨hheld, _, htaken⟩ := h
  simp [exec, execDelete, whileRunning, hheld, deleteStep, htaken]

theorem exec_get {k : Key} (h : Takes n (.get k) s) : exec .get s = .next (carryGet n k (takenSlot n s)) := by
  obtain ⟨hheld, _, htaken⟩ := h
  simp [exec, execGet, whileRunning, hheld, getStep, htaken]

theorem exec_list {space m : Nat} {after : Option Nat} (h : Takes n (.list space after m) s) :
    exec .list s = .next (carryList n space after m (takenSlot n s)) := by
  obtain ⟨hheld, _, htaken⟩ := h
  simp [exec, execList, whileRunning, hheld, listStep, htaken]

end Takes

/-! ## What becomes of the taken slot -/

theorem Store.modify_modify {α : Type} (k : Nat) (f g : α → α) (m : List (Nat × α)) :
    Store.modify k f (Store.modify k g m) = Store.modify k (f ∘ g) m := by
  induction m with
  | nil => rfl
  | cons p rest ih =>
    obtain ⟨j, w⟩ := p
    by_cases e : j = k
    · simp [Store.modify, e]
    · simp [Store.modify, e, ih]

theorem Engine.release_active (n : Nat) (e : Engine) :
    Engine.release n { e with active := some n } = { e with active := none } := by
  simp [Engine.release]

/-- The slot the engine has just taken is answered: the engine is as free as before (R179, R181). -/
theorem answer_takenSlot {n : Nat} {s : State} (h : s.engine.active = none) (st : Status) (d : ReplyData) :
    answer n st d (takenSlot n s) = answeredIn n st d s := by
  have hengine : ({ s.engine with active := none } : Engine) = s.engine := by rw [← h]
  have hslots : Store.modify n (Slot.answered st d) (takenSlot n s).link.slots =
      Store.modify n (Slot.answered st d) s.link.slots := Store.modify_modify ..
  simp only [answer, modSlot, hslots, takenSlot_engine, Engine.release_active, hengine]
  rfl

/-- A request that fails a check is answered with it (R131). -/
theorem afterChecks_refused {checks : List (Option (Status × ReplyData))} {st : Status} {d : ReplyData}
    (h : firstRefusal checks = some (st, d)) (n : Nat) (go : State → State) (s : State) :
    afterChecks n checks go s = settle (answer n st d s) := by
  simp [afterChecks, h]

theorem afterChecks_passed {checks : List (Option (Status × ReplyData))} (h : firstRefusal checks = none) (n : Nat)
    (go : State → State) (s : State) : afterChecks n checks go s = settle (go s) := by
  simp [afterChecks, h]

/-! ## The first refusal of a list of checks (R131) -/

theorem firstRefusal_failIf (c : Bool) (st : Status) (rest : List (Option (Status × ReplyData))) :
    firstRefusal (failIf c st :: rest) = if c = true then some (st, .none) else firstRefusal rest := by
  cases c <;> rfl

theorem firstRefusal_expectedCheck (exp : Option Nat) (e : Option IndexEntry)
    (rest : List (Option (Status × ReplyData))) :
    firstRefusal (expectedCheck exp e :: rest) =
      if expectedHolds exp e = false then some (.seqMismatch, .sequence (currentSeq e)) else firstRefusal rest := by
  cases h : expectedHolds exp e <;> simp [expectedCheck, h, firstRefusal]

/-- The mode check of a request that stores (check 1 of Table 7-2; Table 9-4). -/
theorem firstRefusal_modeCheck (s : State) (rest : List (Option (Status × ReplyData))) :
    firstRefusal (modeCheck true s :: rest) =
      if s.startup.mode = .mounting then some (.notReady, .none)
      else if s.startup.mode = .unformatted then some (.unformatted, .none)
      else if s.startup.mode = .readOnly then some (.readOnlyMode, .none)
      else firstRefusal rest := by
  cases h : s.startup.mode <;> simp [modeCheck, modeRefusal, h, firstRefusal]

/-- Checks 1 to 6 of Table 7-2 before any others. -/
theorem firstRefusal_commonChecks (k : Key) (s : State) (rest : List (Option (Status × ReplyData))) :
    firstRefusal (commonChecks k s ++ rest) =
      if s.startup.mode = .mounting then some (.notReady, .none)
      else if s.startup.mode = .unformatted then some (.unformatted, .none)
      else if s.startup.mode = .readOnly then some (.readOnlyMode, .none)
      else if s.pfw then some (.powerLow, .none)
      else if 16 ≤ k.space then some (.badRequest, .none)
      else if (spaceAt k.space s).frozen then some (.frozen, .none)
      else if (spaceAt k.space s).policy = .readOnly then some (.readOnlySpace, .none)
      else if (spaceAt k.space s).pinGuard ∧ s.wp then some (.writeProtected, .none)
      else firstRefusal rest := by
  simp only [commonChecks, List.cons_append, List.nil_append, firstRefusal_modeCheck, firstRefusal_failIf,
    decide_eq_true_eq, beq_iff_eq, Bool.and_eq_true]
  rfl

theorem quotaExceeded_iff (sp : SpaceRec) (e : Option IndexEntry) (len : Nat) :
    quotaExceeded sp e len = true ↔
      ∃ q, sp.quota = some q ∧ q < sp.usage - usageOf e + (if 1008 < len then 5 else (len + 16 + 255) / 256) := by
  cases h : sp.quota with
  | none => simp [quotaExceeded, h]
  | some q => simp only [quotaExceeded, h, decide_eq_true_eq, Option.some.injEq, exists_eq_left']; rfl

/-- The condition of an expected sequence, by its value (R6). -/
theorem expectedHolds_iff (exp : Option Nat) (e : Option IndexEntry) :
    expectedHolds exp e = true ↔ (exp = none ∨ (exp = some 0 ∧ isPresent e = false) ∨
      ∃ q x, exp = some q ∧ q ≠ 0 ∧ e = some x ∧ x.present = true ∧ x.seq = q) := by
  match exp with
  | none => simp [expectedHolds]
  | some 0 =>
    simp only [expectedHolds, Bool.not_eq_true', reduceCtorEq, true_and, false_or, Option.some.injEq]
    exact ⟨.inl, fun h => h.elim id (fun ⟨q, _, hq, hne, _⟩ => absurd hq.symm hne)⟩
  | some (q + 1) =>
    cases e with
    | none => simp [expectedHolds]
    | some x =>
      simp only [expectedHolds, Bool.and_eq_true, beq_iff_eq]
      constructor
      · exact fun ⟨hpresent, hseq⟩ => .inr (.inr ⟨q + 1, x, rfl, q.succ_ne_zero, rfl, hpresent, hseq⟩)
      · rintro (h | ⟨h, _⟩ | ⟨p, y, hp, _, hy, hpresent, hseq⟩)
        · cases h
        · cases h
        · cases hp; cases hy; exact ⟨hpresent, hseq⟩

/-- Settles O19: the checks are refused one after the other, and the taken slot is answered with the first refusal. -/
theorem writeChecksInOrder : Obligations.WriteChecksInOrder := by
  refine ⟨⟨fun k exp len s => ?_, fun k exp s => ?_, fun s n k d exp v st data h hr => ?_,
    fun s n k d exp st data h hr => ?_⟩, expectedHolds_iff⟩
  · simp only [putChecks, firstRefusal_commonChecks, firstRefusal_failIf, firstRefusal_expectedCheck, quotaExceeded_iff,
      Bool.and_eq_true, beq_iff_eq, decide_eq_true_eq, Option.isNone_iff_eq_none]
    rfl
  · simp only [deleteChecks, firstRefusal_commonChecks, firstRefusal_failIf, firstRefusal_expectedCheck, beq_iff_eq]
    rfl
  · rw [h.exec_put, carryPut, afterChecks_refused (by exact hr), answer_takenSlot h.engine_idle]
  · rw [h.exec_delete, carryDelete, afterChecks_refused (by exact hr), answer_takenSlot h.engine_idle]

end Sys2Proof.Machine


/-! # GET and LIST (R16, R17, R63) -/

namespace Sys2Proof.Machine

/-! ## The checks of a reading request (Table 9-4, R125) -/

theorem readChecks_unformatted (s : State) (h : s.startup.mode = .unformatted) (space : Nat) :
    firstRefusal [modeCheck false s, spaceCheck space] = some (.unformatted, .none) := by
  simp [modeCheck, modeRefusal, h, firstRefusal]

theorem modeCheck_of_serves (s : State) (h : Serves s) : modeCheck false s = none := by
  rcases h with h | h <;> simp [modeCheck, modeRefusal, h]

theorem readChecks_badSpace (s : State) (h : Serves s) {space : Nat} (hsp : 16 ≤ space) :
    firstRefusal [modeCheck false s, spaceCheck space] = some (.badRequest, .none) := by
  simp [modeCheck_of_serves s h, firstRefusal, spaceCheck, failIf, Config.spaces, hsp]

theorem readChecks_pass (s : State) (h : Serves s) {space : Nat} (hsp : space < 16) :
    firstRefusal [modeCheck false s, spaceCheck space] = none := by
  simp [modeCheck_of_serves s h, firstRefusal, spaceCheck, failIf, Config.spaces, Nat.not_le.mpr hsp]

/-! ## GET -/

theorem getKey_answered (n : Nat) {k : Key} (s : State) {st : Status} {d : ReplyData}
    (h : getLookup k s = .answered st d) : getKey n k s = answer n st d s := by
  simp [getKey, h]

theorem getKey_onArray (n : Nat) {k : Key} (s : State) {t : GetTaken} (h : getLookup k s = .onArray t) :
    getKey n k s = makeClaim .host .requestEngine (.readKey k) s := by
  simp [getKey, h]

/-- A GET that the index or RAM answers (R16, R63). -/
theorem exec_get_answered {s : State} {n : Nat} {k : Key} (h : Takes n (.get k) s) (hserves : Serves s)
    (hsp : k.space < 16) {st : Status} {d : ReplyData} (hfound : getLookup k s = .answered st d) :
    exec .get s = .next (settle (answeredIn n st d s)) := by
  rw [h.exec_get, carryGet, afterChecks_passed (readChecks_pass (takenSlot n s) hserves hsp),
    getKey_answered n (takenSlot n s) hfound, answer_takenSlot h.engine_idle]

/-- A GET whose record is read from the array: the HOST class claims the read (R16, R75). -/
theorem exec_get_claimed {s : State} {n : Nat} {k : Key} (h : Takes n (.get k) s) (hserves : Serves s)
    (hsp : k.space < 16) {t : GetTaken} (hfound : getLookup k s = .onArray t) :
    exec .get s = .next (settle (makeClaim .host .requestEngine (.readKey k) (takenSlot n s))) := by
  rw [h.exec_get, carryGet, afterChecks_passed (readChecks_pass (takenSlot n s) hserves hsp),
    getKey_onArray n (takenSlot n s) hfound]

theorem getLookup_absent {k : Key} {s : State} (h : isPresent (lookup k s) = false) :
    getLookup k s = .answered .notFound .none := by
  unfold getLookup
  cases hl : lookup k s with
  | none => rfl
  | some e =>
    rw [hl] at h
    cases e with
    | tombstone => rfl
    | live => cases h
    | lost => cases h

/-! ### The value in RAM (R63) -/

/-- The entry at a cell is found behind entries at other cells. -/
theorem valueIn_record {front : List Placed} {cell : Nat} (hfront : ∀ x ∈ front, x.cell ≠ cell) (k : Key) (q len : Nat)
    (chk : BitVec 16) (v : List Byte) (back : List Placed) :
    valueIn (front ++ ⟨cell, .record k q len chk v⟩ :: back) cell = some v := by
  have hnone : front.find? (fun p => p.cell == cell) = none := by
    simpa [List.find?_eq_none] using hfront
  simp [valueIn, List.find?_append, hnone]

theorem streamValue_of_inFlight {id : StreamId} {loc : Loc} {s : State} {f : InFlight}
    (hf : (streamOf id s).inFlight = some f) (hpage : f.seg = loc.seg ∧ f.page = loc.page) :
    streamValue id loc s = valueIn f.placed loc.cell := by
  simp [streamValue, hf, hpage]

/-- Off the page in flight, a stream holds what its buffer holds when the buffer is destined for the page. -/
theorem streamValue_off_inFlight (id : StreamId) (loc : Loc) {s : State}
    (hf : ∀ f, (streamOf id s).inFlight = some f → ¬ (f.seg = loc.seg ∧ f.page = loc.page)) :
    streamValue id loc s =
      if bufferDest id s = some (loc.seg, loc.page) then valueIn (streamOf id s).buffer loc.cell else none := by
  cases h : (streamOf id s).inFlight with
  | none => simp [streamValue, h]
  | some f => simp [streamValue, h, hf f h]

/-- The value comes from the stream that holds the page; a page of the RELOCATE stream is none of the HOST stream's. -/
theorem ramValue_of_stream {id : StreamId} {loc : Loc} {s : State} {v : List Byte}
    (hother : id = .relocate → streamValue .host loc s = none) (hv : streamValue id loc s = some v) :
    ramValue loc s = v := by
  cases id with
  | host => simp [ramValue, hv]
  | relocate => simp [ramValue, hv, hother rfl]

/-- Settles O27: a GET by what `getLookup` finds, and the value by the stream that holds the page. -/
theorem getByTheIndexEntry : Obligations.GetByTheIndexEntry := by
  refine ⟨fun s n k h hmode => ?_, fun s n k h hserves => ⟨fun hsp => ?_, fun hsp => ⟨fun hl => ?_, fun q len hl => ?_,
    fun q len cells loc hl => ?_, fun q len cells loc hl => ?_⟩⟩,
    fun s id g p front back cell k q len chk v hfront hreloc => ?_⟩
  · rw [h.exec_get, carryGet, afterChecks_refused (readChecks_unformatted (takenSlot n s) hmode _),
      answer_takenSlot h.engine_idle]
  · rw [h.exec_get, carryGet, afterChecks_refused (readChecks_badSpace (takenSlot n s) hserves hsp),
      answer_takenSlot h.engine_idle]
  · exact exec_get_answered h hserves hsp (getLookup_absent hl)
  · exact exec_get_answered h hserves hsp (by simp [getLookup, hl])
  · exact exec_get_answered h hserves hsp (by simp [getLookup, hl])
  · have hfound : getLookup k s = .onArray ⟨k, q, len, loc, cells⟩ := by simp [getLookup, hl]
    exact exec_get_claimed h hserves hsp hfound
  · have hhost : id = .relocate → streamValue .host ⟨g, p, cell⟩ s = none := fun e => by
      obtain ⟨hdest, hflight⟩ := hreloc e
      rw [streamValue_off_inFlight .host ⟨g, p, cell⟩ hflight, if_neg hdest]
    refine ⟨fun hdest hflight hbuffer => ramValue_of_stream hhost ?_, fun tr hflight => ramValue_of_stream hhost ?_⟩
    · rw [streamValue_off_inFlight id ⟨g, p, cell⟩ hflight, if_pos hdest, hbuffer, valueIn_record hfront]
    · rw [streamValue_of_inFlight hflight ⟨rfl, rfl⟩, valueIn_record hfront]

/-! ## LIST -/

/-- A number of the index order splits into its space and item (R1). -/
theorem code_eq_iff {c item : Nat} (space : Nat) (h : item < 65536) :
    Key.code ⟨space, item⟩ = c ↔ (Key.ofCode c).space = space ∧ (Key.ofCode c).item = item := by
  simp only [Key.code, Key.ofCode]; omega

theorem listItem_iff {item : Nat} {e : IndexEntry} {x : ListItem} :
    listItem item e = some x ↔ x.item = item ∧ e.present = true ∧ x.seq = e.seq ∧
      ((∃ q cells loc pr, e = .live q x.len cells loc pr ∧ x.lost = false) ∨
        (∃ q, e = .lost q x.len ∧ x.lost = true)) := by
  obtain ⟨i, lost, len, seq⟩ := x
  cases e with
  | live q l c loc p => simp [listItem, IndexEntry.present, IndexEntry.seq]; tauto
  | lost q l => simp [listItem, IndexEntry.present, IndexEntry.seq]; tauto
  | tombstone q loc p => simp [listItem, IndexEntry.present]

theorem afterCursor_iff (after : Option Nat) (item : Nat) :
    afterCursor after item = true ↔ ∀ a, after = some a → a < item := by
  cases after <;> simp [afterCursor]

/-- The walk collects exactly the present keys of the space after the cursor (R17). -/
theorem mem_presentItems {space : Nat} {after : Option Nat} {s : State} (hs : Store.Canonical s.index) {x : ListItem} :
    x ∈ presentItems space after s.index ↔ x.item < 65536 ∧ (∀ a, after = some a → a < x.item) ∧
      ∃ e, lookup ⟨space, x.item⟩ s = some e ∧ listItem x.item e = some x := by
  simp only [presentItems, List.mem_filterMap, Option.ite_none_right_eq_some, afterCursor_iff]
  constructor
  · rintro ⟨⟨c, e⟩, hmem, ⟨hspace, hafter⟩, hitem⟩
    have hx := (listItem_iff.mp hitem).1
    have hlt : (Key.ofCode c).item < 65536 := Nat.mod_lt _ (by decide)
    rw [hx]
    refine ⟨hlt, hafter, e, ?_, hitem⟩
    rw [lookup, (code_eq_iff space hlt).mpr ⟨hspace, rfl⟩]
    exact Store.get_of_mem hs hmem
  · rintro ⟨hlt, hafter, e, hl, hitem⟩
    obtain ⟨hspace, hcode⟩ := (code_eq_iff space hlt).mp rfl
    refine ⟨(Key.code ⟨space, x.item⟩, e), Store.mem_of_get hl, ⟨hspace, ?_⟩, ?_⟩
    · rw [hcode]; exact hafter
    · rw [hcode]; exact hitem

/-- The walk is in item order, since the index is in key order (R1, R17). -/
theorem presentItems_rising {space : Nat} {after : Option Nat} {index : List (Nat × IndexEntry)}
    (h : Store.Canonical index) : ((presentItems space after index).map ListItem.item).Pairwise (· < ·) := by
  rw [List.pairwise_map, presentItems]
  refine (List.pairwise_map.mp h).filterMap _ fun p p' hlt x hx y hy => ?_
  simp only [Option.ite_none_right_eq_some] at hx hy
  obtain ⟨⟨hsx, _⟩, hx⟩ := hx
  obtain ⟨⟨hsy, _⟩, hy⟩ := hy
  rw [(listItem_iff.mp hx).1, (listItem_iff.mp hy).1]
  simp only [Key.ofCode] at hsx hsy ⊢
  omega

/-- Settles O28: the list of the statement is the walk `presentItems`. -/
theorem listWalksThePresentKeys : Obligations.ListWalksThePresentKeys := by
  refine ⟨fun s n space after m h hmode => ?_, fun s n space after m h hserves hsp => ?_,
    fun s n space after m h hserves hsp hindex => ⟨presentItems space after s.index, ?_, presentItems_rising hindex,
      fun x => ?_⟩⟩
  · rw [h.exec_list, carryList, afterChecks_refused (readChecks_unformatted (takenSlot n s) hmode _),
      answer_takenSlot h.engine_idle]
  · rw [h.exec_list, carryList, afterChecks_refused (readChecks_badSpace (takenSlot n s) hserves hsp),
      answer_takenSlot h.engine_idle]
  · rw [h.exec_list, carryList, afterChecks_passed (readChecks_pass (takenSlot n s) hserves hsp),
      answer_takenSlot h.engine_idle]
    rfl
  · rw [mem_presentItems hindex]
    simp only [listItem_iff, true_and]

end Sys2Proof.Machine


/-! # What a commit cause touches (R51) -/

namespace Sys2Proof.Machine

/-- A commit of stream `id` brings `s` to `t`: it touches the stream, the Segment Table but no live cells, the commit
window timer, the claims and the no-gain mark. -/
structure CommitTouches (id : StreamId) (s t : State) : Prop where
  frame : t = { s with
    segs := t.segs, commitTimer := t.commitTimer, arr := t.arr
    comp := { s.comp with noGain := t.comp.noGain }
    host := if id = .host then t.host else s.host
    reloc := if id = .relocate then t.reloc else s.reloc }
  live : ∀ h, (segAt h t).map SegRec.live = (segAt h s).map SegRec.live

namespace CommitTouches

variable {id : StreamId} {s t u : State}

theorem refl (id : StreamId) (s : State) : CommitTouches id s s where
  frame := by cases id <;> rfl
  live _ := rfl

theorem trans (h1 : CommitTouches id s t) (h2 : CommitTouches id t u) : CommitTouches id s u where
  frame := by
    refine h2.frame.trans ?_
    rw [h1.frame]
    cases id <;> rfl
  live h := (h2.live h).trans (h1.live h)

theorem modStream (id : StreamId) (f : Stream → Stream) (s : State) : CommitTouches id s (modStream id f s) where
  frame := by cases id <;> rfl
  live _ := by cases id <;> rfl

theorem modSeg (id : StreamId) (g : Nat) (f : SegRec → SegRec) (hf : ∀ r, (f r).live = r.live) (s : State) :
    CommitTouches id s (modSeg g f s) where
  frame := by cases id <;> rfl
  live h := by
    rw [segAt_modSeg]
    split
    · rw [Option.map_map]; exact congrArg (Option.map · _) (funext hf)
    · rfl

theorem fillSegment (id : StreamId) (g : Nat) (s : State) : CommitTouches id s (fillSegment g s) :=
  (modSeg id g (fun r => { r with state := .full, stream := none, nextPage := none }) (fun _ => rfl) s).trans
    ⟨by cases id <;> rfl, fun _ => rfl⟩

theorem closeOpen (id : StreamId) (s : State) : CommitTouches id s (closeOpen id s) := by
  unfold Machine.closeOpen
  split
  · exact refl id s
  · exact (modStream id _ s).trans (fillSegment id _ _)

theorem advancePage (id : StreamId) (g page : Nat) (final : Bool) (s : State) :
    CommitTouches id s (advancePage id g page final s) := by
  unfold Machine.advancePage
  split
  · exact closeOpen id s
  · exact modSeg id g (fun r => { r with nextPage := some (page + 1) }) (fun _ => rfl) s

theorem stopTimer (id : StreamId) (s : State) : CommitTouches id s (stopTimer id s) := by
  cases id
  · exact ⟨rfl, fun _ => rfl⟩
  · exact refl _ s

theorem claimProgram (id : StreamId) (f : InFlight) (s : State) : CommitTouches id s (claimProgram id f s) where
  frame := by cases id <;> rfl
  live _ := rfl

theorem commitNow (id : StreamId) (s : State) : CommitTouches id s (commitNow id s) := by
  unfold Machine.commitNow
  split
  · exact refl id s
  · exact (modStream id _ s).trans ((advancePage id _ _ _ _).trans ((stopTimer id _).trans (claimProgram id _ _)))

theorem commitCause (id : StreamId) (s : State) : CommitTouches id s (commitCause id s) := by
  unfold Machine.commitCause
  dsimp only
  split
  · exact refl id s
  · split
    · exact commitNow id s
    · exact modStream id _ s

/-- The evacuation context is none of a commit's business. -/
theorem victim (h : CommitTouches id s t) : t.comp.victim = s.comp.victim := by rw [h.frame]

end CommitTouches

/-! ## What a commit cause does to its stream -/

theorem commitCause_inFlight {id : StreamId} {s : State} (hstranded : (streamOf id s).stranded = false)
    (hbuffer : (streamOf id s).buffer ≠ []) (hflight : (streamOf id s).inFlight ≠ none) :
    commitCause id s = modStream id (fun st => { st with commitRequested := true }) s := by
  simp [commitCause, hstranded, hbuffer, hflight]

theorem commitCause_idle {id : StreamId} {s : State} (hstranded : (streamOf id s).stranded = false)
    (hbuffer : (streamOf id s).buffer ≠ []) (hflight : (streamOf id s).inFlight = none) :
    commitCause id s = commitNow id s := by
  simp [commitCause, hstranded, hbuffer, hflight]

theorem bufferDest_of_open {id : StreamId} {s : State} {g p : Nat} (hopen : (streamOf id s).openSeg = some g)
    (hstranded : (streamOf id s).stranded = false) (hpage : (segAt g s).bind SegRec.nextPage = some p) :
    bufferDest id s = some (g, p) := by
  obtain ⟨r, hr, hp⟩ := Option.bind_eq_some_iff.mp hpage
  simp [bufferDest, hopen, hstranded, hr, hp]

/-- The segment's advance leaves of the HOST stream all but its open segment (R35). -/
theorem advancePage_host (g page : Nat) (final : Bool) (s : State) :
    (advancePage .host g page final s).host =
      { s.host with openSeg := (advancePage .host g page final s).host.openSeg } := by
  unfold advancePage closeOpen
  split
  · split <;> rfl
  · rfl

theorem mem_claims_claim (a : ArrayCtl) (c : Claim) (h : c.cls = .host) :
    c ∈ (a.claim c).hostPlace.toList ++ (a.claim c).outside := by
  unfold ArrayCtl.claim
  rw [h]
  cases a.place .host <;> simp [ArrayCtl.setPlace]

/-- The HOST buffer becomes the page in flight, its program is claimed and the timer stops (R51(a) to (f)). -/
theorem commitNow_host {s : State} {g p : Nat} (hdest : bufferDest .host s = some (g, p)) :
    (commitNow .host s).host.buffer = [] ∧ (commitNow .host s).host.cellsUsed = 0 ∧
      (commitNow .host s).host.commitRequested = false ∧ (commitNow .host s).commitTimer = none ∧
      ∃ tr, (commitNow .host s).host.inFlight = some ⟨g, p, s.host.padded, tr⟩ ∧
        (⟨.host, .hostStream, .program g p (.entries s.host.padded tr)⟩ : Claim) ∈
          (commitNow .host s).arr.hostPlace.toList ++ (commitNow .host s).arr.outside := by
  have hhost (f : InFlight) (t : State) : (claimProgram .host f (stopTimer .host t)).host = t.host := rfl
  simp only [commitNow, hdest, hhost, streamOf]
  rw [advancePage_host]
  exact ⟨rfl, rfl, rfl, rfl, _, rfl, mem_claims_claim _ _ rfl⟩

end Sys2Proof.Machine


/-! # A HOST entry is placed (R7, R9, R45, R47, R48, R52, R57) -/

namespace Sys2Proof.Machine

/-! ## The entry joins the buffer and the index -/

theorem hostEntry_seq (k : Key) (v : Option (List Byte)) (q : Nat) : Entry.seq? (hostEntry k v q) = some q := by
  cases v <;> rfl

theorem hostEntry_cells (k : Key) (v : Option (List Byte)) (q : Nat) : Entry.cells (hostEntry k v q) = hostCells v := by
  cases v <;> rfl

theorem placeLoc_of_dest {id : StreamId} {s : State} {g p : Nat} (h : bufferDest id s = some (g, p)) :
    placeLoc id s = ⟨g, p, (streamOf id s).cellsUsed⟩ := by
  simp [placeLoc, h]

/-- A RECORD or TOMBSTONE joins the buffer at its first free cell, and the segment's lowest sequence takes its sequence
(R48, R27). -/
theorem pushEntry_eq {id : StreamId} {e : Entry} {q : Nat} {s : State} {g p : Nat} (hseq : Entry.seq? e = some q)
    (hdest : bufferDest id s = some (g, p)) :
    pushEntry id e s = modSeg g (SegRec.takeSeq q) (modStream id (fun st => { st with
      buffer := st.buffer ++ [⟨(streamOf id s).cellsUsed, e⟩], cellsUsed := st.cellsUsed + Entry.cells e }) s) := by
  simp [pushEntry, hseq, placeLoc_of_dest hdest]

theorem advanceSeq_frame (s : State) :
    advanceSeq s = { s with nextSeq := (advanceSeq s).nextSeq, freeDraws := (advanceSeq s).freeDraws } := by
  unfold advanceSeq; split <;> rfl

theorem advanceSeq_congr (s t : State) (hseq : t.nextSeq = s.nextSeq) (hdraws : t.freeDraws = s.freeDraws) :
    (advanceSeq t).nextSeq = (advanceSeq s).nextSeq ∧ (advanceSeq t).freeDraws = (advanceSeq s).freeDraws := by
  unfold advanceSeq nextSeqOf
  rw [hseq, hdraws]
  split <;> exact ⟨rfl, rfl⟩

theorem advanceSeq_nextSeq {s : State} (h : nextSeqOf s + 1 < Config.seqBound) :
    (advanceSeq s).nextSeq = some (nextSeqOf s + 1) := by
  simp [advanceSeq, h]

/-- A segment record after the entry with sequence `q` is placed in segment `g` (R27, R4). -/
def SegRec.afterPlace (g q h : Nat) (old new : Option IndexEntry) (r : SegRec) : SegRec :=
  let taken := if h = g then r.takeSeq q else r
  { taken with live := taken.live - cellsIn h old + cellsIn h new }

theorem SegRec.afterPlace_live (g q h : Nat) (old new : Option IndexEntry) (r : SegRec) :
    (r.afterPlace g q h old new).live = r.live - cellsIn h old + cellsIn h new := by
  unfold afterPlace; split <;> rfl

theorem SegRec.afterPlace_nextPage (g q h : Nat) (old new : Option IndexEntry) (r : SegRec) :
    (r.afterPlace g q h old new).nextPage = r.nextPage := by
  unfold afterPlace; split <;> rfl

/-- What the placement of a HOST entry makes of the state, but for the no-gain mark (R48, R45, Table 1-2). -/
theorem placeHost_spec (k : Key) (v : Option (List Byte)) {s : State} {g p : Nat}
    (hdest : bufferDest .host s = some (g, p)) :
    let q := nextSeqOf s
    let new := hostIndexEntry v q ⟨g, p, s.host.cellsUsed⟩
    ∃ segs comp, (∀ h, Store.get h segs = (segAt h s).map (SegRec.afterPlace g q h (lookup k s) (some new))) ∧
      placeHost k v s = { s with
        index := Store.put (Key.code k) new s.index
        segs := segs
        spaces := Store.modify k.space (SpaceRec.recount (lookup k s) (some new)) s.spaces
        comp := comp
        host := { s.host with
          buffer := s.host.buffer ++ [⟨s.host.cellsUsed, hostEntry k v q⟩]
          cellsUsed := s.host.cellsUsed + hostCells v }
        nextSeq := (advanceSeq s).nextSeq
        freeDraws := (advanceSeq s).freeDraws } := by
  intro q new
  let pushed := pushEntry .host (hostEntry k v q) s
  have hpushed : pushed = _ := pushEntry_eq (hostEntry_seq k v q) hdest
  let changed := changeEntry k (some new) pushed
  have hchanged : changed = _ := changeEntry_frame k (some new) pushed
  have hplace : placeHost k v s = advanceSeq changed := by rw [placeHost, placeLoc_of_dest hdest]; rfl
  refine ⟨changed.segs, changed.comp, fun h => ?_, ?_⟩
  · have hlookup : lookup k pushed = lookup k s := by rw [hpushed]; rfl
    have hsegs : segAt h pushed = (segAt h s).map (fun r => if h = g then r.takeSeq q else r) := by
      rw [hpushed, segAt_modSeg]
      split
      · rfl
      · exact (Option.map_id' ..).symm
    refine (segAt_changeEntry h k (some new) pushed).trans ?_
    rw [hlookup, hsegs, Option.map_map]
    rfl
  · have hseq : changed.nextSeq = s.nextSeq ∧ changed.freeDraws = s.freeDraws := by
      rw [hchanged, hpushed]; exact ⟨rfl, rfl⟩
    obtain ⟨hnext, hdraws⟩ := advanceSeq_congr s changed hseq.1 hseq.2
    rw [hplace, advanceSeq_frame, hnext, hdraws, hchanged, hpushed, hostEntry_cells]
    rfl

/-! ## The timer and the commit causes of a placement (R48, R51, R52, R64) -/

theorem hostPlacementCauses_touches (b : Bool) (s : State) : CommitTouches .host s (hostPlacementCauses b s) := by
  unfold hostPlacementCauses
  split
  · exact .commitCause _ s
  · exact .refl _ s

theorem startTimer_eq (b : Bool) (s : State) :
    startTimer b s = { s with commitTimer :=
      if b ∧ s.pfw = false ∧ s.params.commitWindow ≠ 0 then some s.params.commitWindow else s.commitTimer } := by
  unfold startTimer; split <;> rfl

/-- `w` is `s` with the entry `e` of `cells` cells in the HOST buffer and the timer started where the buffer was empty;
no commit cause has arisen yet. -/
structure JoinsHostBuffer (e : Placed) (cells : Nat) (s w : State) : Prop where
  host : w.host = { s.host with buffer := s.host.buffer ++ [e], cellsUsed := s.host.cellsUsed + cells }
  pfw : w.pfw = s.pfw
  params : w.params = s.params
  timer : w.commitTimer =
    if s.host.buffer = [] ∧ s.pfw = false ∧ s.params.commitWindow ≠ 0 then some s.params.commitWindow else s.commitTimer

/-- The commit causes of a placement do to the buffer what `HostBuffered` says. -/
theorem JoinsHostBuffer.hostBuffered {e : Placed} {cells g p : Nat} {s w : State} (hw : JoinsHostBuffer e cells s w)
    (hstranded : s.host.stranded = false) (hdest : bufferDest .host w = some (g, p)) :
    HostBuffered e cells g p s (hostPlacementCauses s.host.buffer.isEmpty w) := by
  have hstr : (streamOf .host w).stranded = false := by rw [streamOf, hw.host]; exact hstranded
  have hbuf : (streamOf .host w).buffer ≠ [] := by rw [streamOf, hw.host]; simp
  have hfl : (streamOf .host w).inFlight = s.host.inFlight := by rw [streamOf, hw.host]
  have hcause : (Config.cells ≤ w.host.cellsUsed ∨ w.pfw ∨ (s.host.buffer.isEmpty ∧ w.params.commitWindow = 0)) ↔
      (16 ≤ s.host.cellsUsed + cells ∨ s.pfw = true ∨ (s.host.buffer = [] ∧ s.params.commitWindow = 0)) := by
    rw [hw.host, hw.pfw, hw.params, List.isEmpty_iff]; rfl
  refine ⟨fun hc => ?_, fun hc hflight => ?_, fun hc hflight => ?_⟩
  · rw [hostPlacementCauses, if_neg (mt hcause.mp hc), hw.host]
    exact ⟨rfl, rfl, rfl, rfl, hw.timer⟩
  · rw [hostPlacementCauses, if_pos (hcause.mpr hc), commitCause_inFlight hstr hbuf (hfl ▸ hflight), hostStream_host,
      hw.host]
    exact ⟨rfl, rfl, rfl, rfl, hw.timer⟩
  · have hpage : w.host.padded = if s.host.ended = true ∨ 16 ≤ s.host.cellsUsed + cells then s.host.buffer ++ [e]
        else s.host.buffer ++ [e] ++ [⟨s.host.cellsUsed + cells, .pad⟩] := by
      rw [hw.host]; rfl
    rw [hostPlacementCauses, if_pos (hcause.mpr hc), commitCause_idle hstr hbuf (hfl.trans hflight)]
    have hcommit := commitNow_host hdest
    rw [hpage] at hcommit
    exact hcommit

/-- Committed or not, the entry is pending in the HOST stream (R62). -/
theorem HostBuffered.pending {e : Placed} {cells g p : Nat} {s u : State} (h : HostBuffered e cells g p s u) :
    e ∈ u.host.pendingEntries := by
  obtain ⟨hstays, hrequests, hcommits⟩ := h
  unfold Stream.pendingEntries
  by_cases hc : 16 ≤ s.host.cellsUsed + cells ∨ s.pfw = true ∨ (s.host.buffer = [] ∧ s.params.commitWindow = 0)
  · by_cases hf : s.host.inFlight = none
    · obtain ⟨_, _, _, _, tr, hflight, _⟩ := hcommits hc hf
      rw [hflight]
      simp only [Option.map_some, Option.getD_some, List.mem_append]
      left
      split <;> simp
    · simp [(hrequests hc hf).1]
  · simp [(hstays hc).1]

/-! ## The slot of a placed entry (R57) -/

/-- A durable request waits for the page; any other is answered OK. The engine lets the slot go (R57, R181). -/
theorem afterPlacement_eq {n q g p c : Nat} {sl : Slot} {s : State} (hslot : slotAt n s = some sl)
    (hactive : s.engine.active = some n) :
    afterPlacement n ⟨g, p, c⟩ q s = { s with
      link := { s.link with
        slots := Store.modify n (Slot.placed (Request.durable sl.request) ⟨g, p, q⟩) s.link.slots }
      engine := { s.engine with active := none } } := by
  have hrelease : s.engine.release n = { s.engine with active := none } := by simp [Engine.release, hactive]
  unfold afterPlacement
  rw [hslot]
  cases hd : Request.durable sl.request with
  | true => simp only [hd, if_true, modSlot, hrelease]; rfl
  | false => simp only [hd, Bool.false_eq_true, if_false, answer, modSlot, hrelease]; rfl

theorem slotAt_takenSlot {n : Nat} {sl : Slot} {s : State} (h : slotAt n s = some sl) :
    slotAt n (takenSlot n s) = some { sl with state := .active } := by
  refine (Store.get_modify_same n (fun sl => { sl with state := .active }) s.link.slots).trans ?_
  rw [show Store.get n s.link.slots = some sl from h]
  rfl

/-- Taking the slot first makes no difference to the placed slot. -/
theorem placed_takenSlot (n : Nat) (d : Bool) (w : PageWait) (s : State) :
    Store.modify n (Slot.placed d w) (takenSlot n s).link.slots = Store.modify n (Slot.placed d w) s.link.slots := by
  refine (Store.modify_modify ..).trans (congrArg (Store.modify n · s.link.slots) (funext fun sl => ?_))
  cases d <;> rfl

/-! ## The placement of a taken request's entry -/

/-- `w` is `s` with the entry of slot `n` in the index and in the HOST buffer, its slot acted on and the timer started,
before the commit causes of the placement (R48, R57, R52). -/
structure HostEntered (n : Nat) (k : Key) (v : Option (List Byte)) (d : Bool) (g p : Nat) (s w : State) : Prop where
  joins : JoinsHostBuffer ⟨s.host.cellsUsed, hostEntry k v (nextSeqOf s)⟩ (hostCells v) s w
  segs : ∀ h, segAt h w = (segAt h s).map (SegRec.afterPlace g (nextSeqOf s) h (lookup k s)
    (some (hostIndexEntry v (nextSeqOf s) ⟨g, p, s.host.cellsUsed⟩)))
  frame : w = { s with
    index := Store.put (Key.code k) (hostIndexEntry v (nextSeqOf s) ⟨g, p, s.host.cellsUsed⟩) s.index
    segs := w.segs
    spaces := Store.modify k.space (SpaceRec.recount (lookup k s)
      (some (hostIndexEntry v (nextSeqOf s) ⟨g, p, s.host.cellsUsed⟩))) s.spaces
    link := { s.link with slots := Store.modify n (Slot.placed d ⟨g, p, nextSeqOf s⟩) s.link.slots }
    engine := { s.engine with active := none }
    nextSeq := (advanceSeq s).nextSeq
    comp := w.comp, host := w.host, freeDraws := w.freeDraws, commitTimer := w.commitTimer }

/-- The placement of the entry of the slot just taken: it enters buffer and index, and then the commit causes arise. -/
theorem placeFor_enters {n : Nat} (k : Key) (v : Option (List Byte)) {g p : Nat} {sl : Slot} {s : State}
    (hslot : slotAt n s = some sl) (hdest : bufferDest .host s = some (g, p)) :
    ∃ w, placeFor n k v (takenSlot n s) = hostPlacementCauses s.host.buffer.isEmpty w ∧
      HostEntered n k v (Request.durable sl.request) g p s w := by
  have htaken : bufferDest .host (takenSlot n s) = some (g, p) := hdest
  obtain ⟨segs, comp, hsegs, hplace⟩ := placeHost_spec k v htaken
  have hactive : slotAt n (placeHost k v (takenSlot n s)) = some { sl with state := .active } := by
    rw [hplace]; exact slotAt_takenSlot hslot
  have hengine : (placeHost k v (takenSlot n s)).engine.active = some n := by rw [hplace]; rfl
  refine ⟨_, by rw [placeFor, placeLoc_of_dest htaken, afterPlacement_eq hactive hengine, startTimer_eq]; rfl, ?_⟩
  obtain ⟨hnext, -⟩ := advanceSeq_congr s (takenSlot n s) rfl rfl
  rw [hplace, hnext]
  refine ⟨⟨rfl, rfl, rfl, ?_⟩, hsegs, ?_⟩
  · simp only [List.isEmpty_iff]; rfl
  · have hslots := placed_takenSlot n (Request.durable sl.request) ⟨g, p, nextSeqOf s⟩ s
    rw [← hslots]
    rfl

/-- The placement of the entry of the slot just taken, as `HostPlaced` describes it. -/
theorem hostPlaced_placeFor {n : Nat} {k : Key} (v : Option (List Byte)) {g p : Nat} {sl : Slot} {s : State}
    (hslot : slotAt n s = some sl) (hopen : s.host.openSeg = some g) (hstranded : s.host.stranded = false)
    (hpage : (segAt g s).bind SegRec.nextPage = some p) :
    HostPlaced n k v (Request.durable sl.request) g p s (placeFor n k v (takenSlot n s)) := by
  obtain ⟨w, hplace, hw⟩ := placeFor_enters k v hslot (bufferDest_of_open hopen hstranded hpage)
  have hu := hostPlacementCauses_touches s.host.buffer.isEmpty w
  have hnextPage : (segAt g w).bind SegRec.nextPage = some p := by
    rw [hw.segs, Option.bind_map, ← hpage]
    exact congrArg _ (funext fun r => SegRec.afterPlace_nextPage ..)
  have hdest : bufferDest .host w = some (g, p) :=
    bufferDest_of_open (by rw [streamOf, hw.joins.host]; exact hopen) (by rw [streamOf, hw.joins.host]; exact hstranded)
      hnextPage
  have hbuffered := hw.joins.hostBuffered hstranded hdest
  rw [hplace]
  generalize hostPlacementCauses s.host.buffer.isEmpty w = u at hu hbuffered
  have hindex : u.index = Store.put (Key.code k) (hostIndexEntry v (nextSeqOf s) ⟨g, p, s.host.cellsUsed⟩) s.index := by
    rw [hu.frame, hw.frame]
  have hlive (h : Nat) : (segAt h u).map SegRec.live = (segAt h s).map (fun r => r.live - cellsIn h (lookup k s) +
      cellsIn h (some (hostIndexEntry v (nextSeqOf s) ⟨g, p, s.host.cellsUsed⟩))) := by
    rw [hu.live, hw.segs, Option.map_map]
    exact congrArg (Option.map · _) (funext fun r => SegRec.afterPlace_live ..)
  have hseq (hq : nextSeqOf s + 1 < Config.seqBound) : u.nextSeq = some (nextSeqOf s + 1) := by
    rw [hu.frame, hw.frame, ← advanceSeq_nextSeq hq]
  refine ⟨?_, fun c hc => ?_, hbuffered.pending, hbuffered, hseq, ?_, hlive, ?_⟩
  · rw [lookup, hindex]; exact Store.get_put_same ..
  · rw [hindex]; exact Store.get_put_other hc ..
  · rw [hu.frame, hw.frame]
  · rw [hu.frame, hw.frame]
    exact ⟨rfl, rfl, rfl, rfl, rfl, rfl, rfl, rfl, rfl, rfl, rfl, rfl, rfl, rfl, rfl, rfl⟩

end Sys2Proof.Machine


/-! # PUT and DELETE: placed, waiting or held (R31 to R33, R48 to R50, R105) -/

namespace Sys2Proof.Machine

/-! ## The ask for a segment (2.5) -/

theorem leastWornFree_free {l : List (Nat × SegRec)} {g : Nat} {r : SegRec} (h : leastWornFree l = some (g, r)) :
    (g, r) ∈ l ∧ r.state = .free := by
  induction l generalizing g r with
  | nil => cases h
  | cons p rest ih =>
    obtain ⟨a, x⟩ := p
    unfold leastWornFree at h
    split at h
    · split at h
      · next hfree => cases h; exact ⟨List.mem_cons_self, hfree⟩
      · cases h
    · next best hbest =>
      split at h
      · next hfree => cases h; exact ⟨List.mem_cons_self, hfree.1⟩
      · cases h
        exact ⟨List.mem_cons_of_mem _ (ih hbest).1, (ih hbest).2⟩

theorem Store.isSome_get_of_mem {α : Type} {k : Nat} {v : α} {m : List (Nat × α)} (h : (k, v) ∈ m) :
    ∃ w, Store.get k m = some w := by
  induction m with
  | nil => cases h
  | cons p rest ih =>
    obtain ⟨j, w⟩ := p
    by_cases e : j = k
    · exact ⟨w, by simp [Store.get, e]⟩
    · rcases List.mem_cons.mp h with h | h
      · cases h; exact absurd rfl e
      · simpa [Store.get, e] using ih h

/-- The free count falls to 4: the part enters the low-free condition (R30). -/
theorem freeCountFalls_low (s : State) (h : s.freeCount - 1 ≤ Config.hostReserve ∧ s.lowFree = false) :
    freeCountFalls s = queueNotice (.spaceLow (s.freeCount - 1))
      { s with freeCount := s.freeCount - 1, lowFree := true } := by
  simp [freeCountFalls, h]

theorem freeCountFalls_other (s : State) (h : ¬ (s.freeCount - 1 ≤ Config.hostReserve ∧ s.lowFree = false)) :
    freeCountFalls s = { s with freeCount := s.freeCount - 1 } := by
  simp only [freeCountFalls, if_neg h]

theorem freeCountFalls_frame (s : State) : freeCountFalls s = { s with
    freeCount := (freeCountFalls s).freeCount, lowFree := (freeCountFalls s).lowFree
    link := { s.link with notices := (freeCountFalls s).link.notices } } := by
  unfold freeCountFalls; dsimp only; split <;> rfl

/-- Segment `g` opened for a stream with an open stamp (R31, R33, R30). -/
def grantSegment (id : StreamId) (g stamp : Nat) (s : State) : State :=
  freeCountFalls (modStream id (fun st => { st with openSeg := some g })
    { modSeg g (fun r => { r with
        state := .opened, stream := some id, openStamp := some stamp, nextPage := some 1 }) s with
      nextStamp := stampAfter stamp })

/-- When an ask is granted, and what it then leaves (R31 to R34). -/
theorem openSegment_eq_some_iff {id : StreamId} {retry : Bool} {s t : State} :
    openSegment id retry s = some t ↔ ∃ stamp g r, s.nextStamp = some stamp ∧ leastWornFree s.segs = some (g, r) ∧
      askAllowed id retry s.freeCount = true ∧ grantSegment id g stamp s = t := by
  constructor
  · intro h
    unfold openSegment at h
    split at h
    · next stamp g r hstamp hleast =>
      split at h
      · next hask => exact ⟨stamp, g, r, hstamp, hleast, hask, Option.some.inj h⟩
      · cases h
    · cases h
  · rintro ⟨stamp, g, r, hstamp, hleast, hask, rfl⟩
    simp only [openSegment, hstamp, hleast, hask, if_true]
    rfl

/-- The stream's segment is open at page 1, and of the rest the Segment Table, the stamp counter, the free count and the
notices alone may have changed. -/
theorem openSegment_opens {id : StreamId} {retry : Bool} {s t : State} (h : openSegment id retry s = some t) :
    ∃ g, (segAt g t).bind SegRec.nextPage = some 1 ∧
      t = { modStream id (fun st => { st with openSeg := some g }) s with
        segs := t.segs, nextStamp := t.nextStamp, freeCount := t.freeCount, lowFree := t.lowFree
        link := { s.link with notices := t.link.notices } } := by
  obtain ⟨stamp, g, r, _, hleast, _, rfl⟩ := openSegment_eq_some_iff.mp h
  obtain ⟨x, hx⟩ := Store.isSome_get_of_mem (leastWornFree_free hleast).1
  have hsegs : (grantSegment id g stamp s).segs = Store.modify g (fun r => { r with
      state := .opened, stream := some id, openStamp := some stamp, nextPage := some 1 }) s.segs := by
    rw [grantSegment, freeCountFalls_frame]; cases id <;> rfl
  refine ⟨g, ?_, ?_⟩
  · rw [segAt, hsegs, Store.get_modify_same, hx]; rfl
  · rw [grantSegment, freeCountFalls_frame]; cases id <;> rfl

theorem freeCountFalls_takenSlot (n : Nat) (s : State) :
    freeCountFalls (takenSlot n s) = takenSlot n (freeCountFalls s) := by
  by_cases h : s.freeCount - 1 ≤ Config.hostReserve ∧ s.lowFree = false
  · rw [freeCountFalls_low s h, freeCountFalls_low (takenSlot n s) h]; rfl
  · rw [freeCountFalls_other s h, freeCountFalls_other (takenSlot n s) h]; rfl

theorem grantSegment_takenSlot (id : StreamId) (g stamp n : Nat) (s : State) :
    grantSegment id g stamp (takenSlot n s) = takenSlot n (grantSegment id g stamp s) := by
  rw [grantSegment, grantSegment, ← freeCountFalls_takenSlot]
  cases id <;> rfl

/-- The taken slot has no part in the ask. -/
theorem openSegment_takenSlot (id : StreamId) (retry : Bool) (n : Nat) (s : State) :
    openSegment id retry (takenSlot n s) = (openSegment id retry s).map (takenSlot n) := by
  refine Option.ext fun t => ?_
  simp only [Option.map_eq_some_iff, openSegment_eq_some_iff, takenSlot_nextStamp, takenSlot_segs, takenSlot_freeCount,
    grantSegment_takenSlot]
  constructor
  · rintro ⟨stamp, g, r, hstamp, hleast, hask, rfl⟩
    exact ⟨_, ⟨stamp, g, r, hstamp, hleast, hask, rfl⟩, rfl⟩
  · rintro ⟨_, ⟨stamp, g, r, hstamp, hleast, hask, rfl⟩, rfl⟩
    exact ⟨stamp, g, r, hstamp, hleast, hask, rfl⟩

/-- The HOST stream's ask is refused without a stamp, without a FREE segment, and at 4 or fewer FREE (R31 to R33). -/
theorem openSegment_refused {s : State} (hsegs : Store.Canonical s.segs)
    (h : s.nextStamp = none ∨ (∀ g r, segAt g s = some r → r.state ≠ .free) ∨ s.freeCount ≤ 4) :
    openSegment .host false s = none := by
  refine Option.eq_none_iff_forall_ne_some.mpr fun t ht => ?_
  obtain ⟨stamp, g, r, hstamp, hleast, hask, _⟩ := openSegment_eq_some_iff.mp ht
  obtain ⟨hmem, hfree⟩ := leastWornFree_free hleast
  rcases h with h | h | h
  · rw [hstamp] at h; cases h
  · exact h g r (Store.get_of_mem hsegs hmem) hfree
  · simp only [askAllowed, Bool.false_or, decide_eq_true_eq] at hask
    exact absurd hask (Nat.not_lt.mpr h)

/-! ## The Write Path's answer to a taken request -/

theorem roomFor_ready (id : StreamId) (s : State) {c g : Nat} (hopen : (streamOf id s).openSeg = some g)
    (hended : (streamOf id s).ended = false) (hroom : (streamOf id s).cellsUsed + c ≤ 16) :
    roomFor id c s = .ready s := by
  simp [roomFor, hopen, hended, Config.cells, hroom]

theorem roomFor_full (id : StreamId) (s : State) {c g : Nat} (hopen : (streamOf id s).openSeg = some g)
    (hfull : (streamOf id s).ended = true ∨ 16 < (streamOf id s).cellsUsed + c) : roomFor id c s = .full := by
  simp [roomFor, hopen, Config.cells, hfull]

theorem roomFor_opened (id : StreamId) (s : State) {t : State} (hopen : (streamOf id s).openSeg = none)
    (ht : openSegment id false s = some t) (c : Nat) : roomFor id c s = .ready t := by
  simp [roomFor, hopen, ht]

theorem roomFor_noSegment (id : StreamId) (s : State) (hopen : (streamOf id s).openSeg = none)
    (hask : openSegment id false s = none) (c : Nat) : roomFor id c s = .noSegment := by
  simp [roomFor, hopen, hask]

/-- A buffer that is ended gets a PAD for its unused cells once (R49, R51(a)). -/
theorem Stream.ended_buffer (st : Stream) :
    (if st.ended then st.buffer else st.padded) =
      if st.ended = true ∨ 16 ≤ st.cellsUsed then st.buffer else st.buffer ++ [⟨st.cellsUsed, .pad⟩] := by
  cases h : st.ended <;> simp [Stream.padded, h, Config.cells]

/-! ## The entry of a taken request -/

theorem storeFor_opened {n : Nat} {k : Key} {v : Option (List Byte)} {s t : State} (hopen : s.host.openSeg = none)
    (ht : openSegment .host false s = some t) :
    storeFor n k v (takenSlot n s) = placeFor n k v (takenSlot n t) := by
  have hask : openSegment .host false (takenSlot n s) = some (takenSlot n t) := by
    rw [openSegment_takenSlot, ht, Option.map_some]
  rw [storeFor, roomFor_opened .host (takenSlot n s) hopen hask]

/-- The entry waits behind a buffer that cannot take it, which is ended with a PAD (R49). -/
theorem storeFor_full {n : Nat} {k : Key} (v : Option (List Byte)) {g : Nat} {s : State}
    (hopen : s.host.openSeg = some g) (hfull : s.host.ended = true ∨ 16 < s.host.cellsUsed + hostCells v) :
    storeFor n k v (takenSlot n s) = commitCause .host { modSlot n (fun sl => { sl with state := .active }) s with
      engine := { s.engine with active := some n }
      host := { s.host with
        buffer := if s.host.ended = true ∨ 16 ≤ s.host.cellsUsed then s.host.buffer
          else s.host.buffer ++ [⟨s.host.cellsUsed, .pad⟩]
        ended := s.host.ended || decide (s.host.cellsUsed < 16)
        waiting := some (.host n k v) } } := by
  rw [storeFor, roomFor_full .host (takenSlot n s) hopen hfull, ← Stream.ended_buffer]
  rfl

/-- Its ask refused, the request is HELD, or answered MEDIA_FULL under the no-gain mark (R50, R105). -/
theorem storeFor_noSegment {n : Nat} (k : Key) (v : Option (List Byte)) {s : State}
    (hidle : s.engine.active = none) (hopen : s.host.openSeg = none) (hask : openSegment .host false s = none) :
    (s.comp.noGain = true → storeFor n k v (takenSlot n s) = answeredIn n .mediaFull .none s) ∧
    (s.comp.noGain = false → storeFor n k v (takenSlot n s) = { modSlot n (fun sl => { sl with state := .held }) s with
      engine := { s.engine with active := some n } }) := by
  have hask' : openSegment .host false (takenSlot n s) = none := by rw [openSegment_takenSlot, hask, Option.map_none]
  have hslots : Store.modify n (fun sl => { sl with state := .held }) (takenSlot n s).link.slots =
      Store.modify n (fun sl => { sl with state := SlotState.held }) s.link.slots := Store.modify_modify ..
  rw [storeFor, roomFor_noSegment .host (takenSlot n s) hopen hask']
  refine ⟨fun h => ?_, fun h => ?_⟩
  · simp only [holdRequest, takenSlot_comp, h, if_true]
    exact answer_takenSlot hidle ..
  · simp only [holdRequest, takenSlot_comp, h, Bool.false_eq_true, if_false, modSlot, hslots]
    rfl

/-! ## The two requests -/

section
variable {n : Nat} {k : Key} {d : Bool} {exp : Option Nat} {s : State}

theorem Takes.exec_put_passed {v : List Byte} (h : Takes n (.put k d exp v) s)
    (hpass : firstRefusal (putChecks k exp v.length s) = none) :
    exec .put s = .next (settle (storeFor n k (some v) (takenSlot n s))) := by
  rw [h.exec_put, carryPut, afterChecks_passed (by exact hpass)]

theorem Takes.exec_delete_absent (h : Takes n (.delete k d exp) s)
    (hpass : firstRefusal (deleteChecks k exp s) = none) (habsent : isPresent (lookup k s) = false) :
    exec .delete s = .next (settle (answeredIn n .notFound .none s)) := by
  have hl : isPresent (lookup k (takenSlot n s)) = false := habsent
  rw [h.exec_delete, carryDelete, afterChecks_passed (by exact hpass), deleteKey, hl, if_neg Bool.false_ne_true,
    answer_takenSlot h.engine_idle]

theorem Takes.exec_delete_present (h : Takes n (.delete k d exp) s)
    (hpass : firstRefusal (deleteChecks k exp s) = none) (hpresent : isPresent (lookup k s) = true) :
    exec .delete s = .next (settle (storeFor n k none (takenSlot n s))) := by
  have hl : isPresent (lookup k (takenSlot n s)) = true := hpresent
  rw [h.exec_delete, carryDelete, afterChecks_passed (by exact hpass), deleteKey, hl, if_pos rfl]

end

/-- With room in the buffer the entry of a taken request is placed there (R48). -/
theorem storeFor_places_ready {n : Nat} {k : Key} {v : Option (List Byte)} {r : Request} {g p : Nat} {s : State}
    (h : Takes n r s) (hroom : HostRoom g p (hostCells v) s) :
    HostPlaced n k v (Request.durable r) g p s (storeFor n k v (takenSlot n s)) := by
  obtain ⟨sl, hslot, rfl⟩ := h.slot
  obtain ⟨hopen, hstranded, hpage, hended, hfits⟩ := hroom
  rw [storeFor, roomFor_ready .host (takenSlot n s) hopen hended hfits]
  exact hostPlaced_placeFor v hslot hopen hstranded hpage

/-- With a segment opened for it the entry of a taken request is placed at page 1 of that segment (R50(1)). -/
theorem storeFor_places_opened {n : Nat} {k : Key} {v : Option (List Byte)} {r : Request} {s t : State}
    (h : Takes n r s) (hopen : s.host.openSeg = none) (hstranded : s.host.stranded = false)
    (ht : openSegment .host false s = some t) :
    ∃ g, t.host.openSeg = some g ∧ HostPlaced n k v (Request.durable r) g 1 t (storeFor n k v (takenSlot n s)) := by
  obtain ⟨sl, hslot, rfl⟩ := h.slot
  obtain ⟨g, hpage, hframe⟩ := openSegment_opens ht
  have hopened : t.host.openSeg = some g := by rw [hframe]; rfl
  have hstr : t.host.stranded = false := by rw [hframe]; exact hstranded
  have hslot' : slotAt n t = some sl := by rw [hframe]; exact hslot
  rw [storeFor_opened hopen ht]
  exact ⟨g, hopened, hostPlaced_placeFor v hslot' hopened hstr hpage⟩

/-- Settles O20: the three ways of `storeFor` for the record of a PUT that passed its checks. -/
theorem putPlacesItsRecordOrWaits : Obligations.PutPlacesItsRecordOrWaits := by
  refine ⟨fun s n k d exp v g p h hpass hroom => ?_, fun s n k d exp v t h hpass hopen hstranded ht => ?_,
    fun s n k d exp v h hpass => ⟨fun g hopen hfull => ?_, fun hopen hsegs hrefused => ?_⟩⟩
  · exact ⟨_, h.exec_put_passed hpass, storeFor_places_ready h hroom⟩
  · obtain ⟨g, hg, hplaced⟩ := storeFor_places_opened h hopen hstranded ht
    exact ⟨g, _, hg, h.exec_put_passed hpass, hplaced⟩
  · rw [h.exec_put_passed hpass, storeFor_full (some v) hopen hfull]
  · obtain ⟨hfull, hheld⟩ := storeFor_noSegment k (some v) h.engine_idle hopen
      (openSegment_refused hsegs hrefused)
    rw [h.exec_put_passed hpass]
    exact ⟨fun hm => by rw [hfull hm], fun hm => by rw [hheld hm]⟩

/-- Settles O21: the TOMBSTONE of a present key goes the way of a PUT's record. -/
theorem deletePlacesTombstone : Obligations.DeletePlacesTombstone := by
  refine fun s n k d exp h hpass => ⟨h.exec_delete_absent hpass, fun hpresent => ?_⟩
  have hexec := h.exec_delete_present hpass hpresent
  refine ⟨fun g p hroom => ?_, fun hopen hstranded t ht => ?_, fun g hopen hfull => ?_, fun hopen hsegs hrefused => ?_⟩
  · exact ⟨_, hexec, storeFor_places_ready h hroom⟩
  · obtain ⟨g, hg, hplaced⟩ := storeFor_places_opened h hopen hstranded ht
    exact ⟨g, _, hg, hexec, hplaced⟩
  · rw [hexec, storeFor_full none hopen hfull]
  · obtain ⟨hfull, hheld⟩ := storeFor_noSegment k none h.engine_idle hopen
      (openSegment_refused hsegs hrefused)
    rw [hexec]
    exact ⟨fun hm => by rw [hfull hm], fun hm => by rw [hheld hm]⟩

end Sys2Proof.Machine


/-! # Relocated copies and the evacuation of a victim (R11, R13, R27, R48 to R50, R56, R96 to R101) -/

namespace Sys2Proof.Machine

/-! ## The compare-and-update of a copy (R11) -/

/-- The index still speaks for a copy exactly when its key's entry has its sequence at the source. -/
theorem copyHolds_iff {e : Entry} {k : Key} {q : Nat} (hk : Entry.key? e = some k) (hq : Entry.seq? e = some q)
    (src : Loc) (s : State) :
    copyHolds e src s = true ↔ ∃ x, lookup k s = some x ∧ x.seq = q ∧ x.loc? = some src := by
  simp only [copyHolds, hk, hq]
  cases lookup k s with
  | none => simp
  | some x => simp [and_comm]

theorem copyHolds_false {e : Entry} {k : Key} {q : Nat} {src : Loc} {s : State} (hk : Entry.key? e = some k)
    (hq : Entry.seq? e = some q) (h : ∀ x, lookup k s = some x → ¬ (x.seq = q ∧ x.loc? = some src)) :
    copyHolds e src s = false := by
  rw [← Bool.not_eq_true, copyHolds_iff hk hq]
  exact fun ⟨x, hx, hmatch⟩ => h x hx hmatch

/-- A located entry that moves keeps everything but its location and its programmed field (R11). -/
theorem movedTo_located {x : IndexEntry} {src : Loc} (h : x.loc? = some src) (dst : Loc) :
    (x.movedTo dst).seq = x.seq ∧ (x.movedTo dst).cells = x.cells ∧ (x.movedTo dst).programmed = false ∧
      (x.movedTo dst).present = x.present := by
  cases x with
  | live => exact ⟨rfl, rfl, rfl, rfl⟩
  | tombstone => exact ⟨rfl, rfl, rfl, rfl⟩
  | lost => cases h

/-- A moved entry counts in its space as before (Table 1-2). -/
theorem recount_movedTo {x : IndexEntry} {r : SpaceRec} (husage : x.usage ≤ r.usage) (hcount : 1 ≤ r.keyCount)
    (dst : Loc) : SpaceRec.recount (some x) (some (x.movedTo dst)) r = r := by
  have husage : r.usage - usageOf (some x) + usageOf (some (x.movedTo dst)) = r.usage := by
    cases x <;> exact Nat.sub_add_cancel husage
  have hkeys : r.keyCount - (if isPresent (some x) then 1 else 0) +
      (if isPresent (some (x.movedTo dst)) then 1 else 0) = r.keyCount := by
    cases x with
    | tombstone => rfl
    | live => exact Nat.sub_add_cancel hcount
    | lost => exact Nat.sub_add_cancel hcount
  rw [SpaceRec.recount, husage, hkeys]

theorem relocateEntry_holds {e : Entry} {k : Key} {q : Nat} {src : Loc} {s : State} {x : IndexEntry}
    (hk : Entry.key? e = some k) (hq : Entry.seq? e = some q) (hx : lookup k s = some x) (hseq : x.seq = q)
    (hloc : x.loc? = some src) (dst : Loc) : relocateEntry e src dst s = changeEntry k (some (x.movedTo dst)) s := by
  have hholds := (copyHolds_iff hk hq src s).mpr ⟨x, hx, hseq, hloc⟩
  simp [relocateEntry, hholds, hk, hx]

theorem relocateEntry_dead {e : Entry} {src : Loc} {s : State} (h : copyHolds e src s = false) (dst : Loc) :
    relocateEntry e src dst s = s := by
  simp [relocateEntry, h]

theorem relocateEntry_reloc (e : Entry) (src dst : Loc) (s : State) : (relocateEntry e src dst s).reloc = s.reloc := by
  unfold relocateEntry
  split
  · split
    · exact changeEntry_reloc ..
    · rfl
  · rfl

/-! ## A copy handed to the Write Path (R98, R48 to R50) -/

/-- The copy waits behind a buffer that cannot take it, which is ended with a PAD (R49). -/
theorem handCopy_full {e : Entry} {src : Loc} {s : State} {g : Nat} (hopen : s.reloc.openSeg = some g)
    (hfull : s.reloc.ended = true ∨ 16 < s.reloc.cellsUsed + Entry.cells e) :
    handCopy e src s = .waits (commitCause .relocate { s with reloc := { s.reloc with
      buffer := if s.reloc.ended = true ∨ 16 ≤ s.reloc.cellsUsed then s.reloc.buffer
        else s.reloc.buffer ++ [⟨s.reloc.cellsUsed, .pad⟩]
      ended := s.reloc.ended || decide (s.reloc.cellsUsed < 16)
      waiting := some (.copy e src) } }) := by
  rw [handCopy, roomFor_full .relocate s hopen hfull, ← Stream.ended_buffer]
  rfl

theorem takeSeq_eq (q : Nat) (r : SegRec) :
    SegRec.takeSeq q r = { r with lowestSeq := lowestOf (r.lowestSeq.toList ++ [q]) } := by
  unfold SegRec.takeSeq
  cases r.lowestSeq <;> rfl

/-- A copy joins the RELOCATE buffer with its compare-and-update, and 16 cells used is a commit cause (R48, R27, R11,
R56). -/
theorem placeCopy_eq {e : Entry} {q : Nat} (src : Loc) {s : State} {g p : Nat} (hq : Entry.seq? e = some q)
    (hdest : bufferDest .relocate s = some (g, p)) :
    let used := s.reloc.cellsUsed + Entry.cells e
    let t := relocateEntry e src ⟨g, p, s.reloc.cellsUsed⟩ { s with
      reloc := { s.reloc with buffer := s.reloc.buffer ++ [⟨s.reloc.cellsUsed, e⟩], cellsUsed := used }
      segs := Store.modify g (fun r => { r with lowestSeq := lowestOf (r.lowestSeq.toList ++ [q]) }) s.segs }
    placeCopy e src s = if 16 ≤ used then commitCause .relocate t else t := by
  intro used t
  have hpush : pushEntry .relocate e s = { s with
      reloc := { s.reloc with buffer := s.reloc.buffer ++ [⟨s.reloc.cellsUsed, e⟩], cellsUsed := used }
      segs := Store.modify g (fun r => { r with lowestSeq := lowestOf (r.lowestSeq.toList ++ [q]) }) s.segs } := by
    rw [pushEntry_eq hq hdest, show SegRec.takeSeq q = _ from funext (takeSeq_eq q)]
    rfl
  have ht : relocateEntry e src ⟨g, p, s.reloc.cellsUsed⟩ (pushEntry .relocate e s) = t := by rw [hpush]
  have hused : t.reloc.cellsUsed = used := by rw [relocateEntry_reloc]
  rw [placeCopy, placeLoc_of_dest hdest]
  simp only [streamOf, ht, hused]
  rfl

/-! ## The drop test of a tombstone (R99) -/

theorem mem_otherLowest {g low : Nat} {s : State} (hs : Store.Canonical s.segs) :
    low ∈ otherLowest g s ↔ ∃ h r, h ≠ g ∧ segAt h s = some r ∧ r.lowestSeq = some low := by
  simp only [otherLowest, List.mem_filterMap, List.mem_filter, bne_iff_ne]
  constructor
  · rintro ⟨⟨h, r⟩, ⟨hmem, hne⟩, hlow⟩
    exact ⟨h, r, hne, Store.get_of_mem hs hmem, hlow⟩
  · rintro ⟨h, r, hne, hget, hlow⟩
    exact ⟨(h, r), ⟨Store.mem_of_get hget, hne⟩, hlow⟩

theorem mem_waitingSeqs {x : Nat} {st : Stream} :
    x ∈ waitingSeqs st ↔ ∃ e src, st.waiting = some (.copy e src) ∧ Entry.seq? e = some x := by
  unfold waitingSeqs
  cases h : st.waiting with
  | none => simp
  | some w => cases w <;> simp

/-- The drop test, over the other segments, the streams' pages and their waiting copies (R99). -/
theorem dropTest_iff {victim q : Nat} {s : State} (hs : Store.Canonical s.segs) :
    dropTest victim q s = true ↔
      (∀ h r low, h ≠ victim → segAt h s = some r → r.lowestSeq = some low → q < low) ∧
      (∀ x ∈ seqsOf s.host.pendingEntries ++ seqsOf s.reloc.pendingEntries, q < x) ∧
      ∀ e src x, s.host.waiting = some (.copy e src) ∨ s.reloc.waiting = some (.copy e src) → Entry.seq? e = some x →
        q < x := by
  simp only [dropTest, Bool.and_eq_true, List.all_eq_true, decide_eq_true_eq, streamSeqs, List.mem_append,
    mem_otherLowest hs, mem_waitingSeqs]
  constructor
  · rintro ⟨hsegs, hstreams⟩
    exact ⟨fun h r low hne hr hlow => hsegs low ⟨h, r, hne, hr, hlow⟩,
      fun x hx => hstreams x (hx.elim (fun h => .inl (.inl (.inl h))) (fun h => .inl (.inr h))),
      fun e src x hw hx => hstreams x (hw.elim (fun h => .inl (.inl (.inr ⟨e, src, h, hx⟩)))
        (fun h => .inr ⟨e, src, h, hx⟩))⟩
  · rintro ⟨hsegs, hpages, hwaits⟩
    refine ⟨fun low ⟨h, r, hne, hr, hlow⟩ => hsegs h r low hne hr hlow, ?_⟩
    rintro x (((hx | ⟨e, src, hw, hx⟩) | hx) | ⟨e, src, hw, hx⟩)
    · exact hpages x (.inl hx)
    · exact hwaits e src x (.inl hw) hx
    · exact hpages x (.inr hx)
    · exact hwaits e src x (.inr hw) hx

/-! ## One entry of the victim (R97, R99, R100) -/

/-- A dead entry is skipped. -/
theorem handleItem_dead {loc : Loc} {e : Entry} {s : State} (h : copyHolds e loc s = false) :
    handleItem (.entry loc e) s = .done s := by
  simp [handleItem, h]

theorem handleItem_record {loc : Loc} {k : Key} {q len : Nat} {chk : BitVec 16} {v : List Byte} {s : State}
    (h : copyHolds (.record k q len chk v) loc s = true) :
    handleItem (.entry loc (.record k q len chk v)) s = handCopy (.record k q len chk v) loc s := by
  simp [handleItem, h]

theorem handleItem_tombstone {loc : Loc} {k : Key} {q : Nat} {s : State} (h : copyHolds (.tombstone k q) loc s = true) :
    handleItem (.entry loc (.tombstone k q)) s = handTombstone k q loc s := by
  simp [handleItem, h]

/-- In a table in order, a search finds what the least number that answers it gives. -/
theorem Store.findSome_least {α β : Type} {f : Nat × α → Option β} {m : List (Nat × α)} (hm : Store.Canonical m)
    {c : Nat} {v : α} {b : β} (hc : (c, v) ∈ m) (hb : f (c, v) = some b)
    (hleast : ∀ d w, (d, w) ∈ m → (f (d, w)).isSome → c ≤ d) : m.findSome? f = some b := by
  induction m with
  | nil => cases hc
  | cons p rest ih =>
    obtain ⟨j, w⟩ := p
    simp only [Store.Canonical, List.map_cons, List.pairwise_cons] at hm
    obtain ⟨hfirst, hrest⟩ := hm
    rcases List.mem_cons.mp hc with h | h
    · rw [List.findSome?_cons, ← h, hb]
    · have hlt : j < c := hfirst c (List.mem_map.mpr ⟨(c, v), h, rfl⟩)
      have hnone : f (j, w) = none := by
        rw [← Option.not_isSome_iff_eq_none]
        exact fun hsome => absurd (hleast j w List.mem_cons_self hsome) (Nat.not_le.mpr hlt)
      rw [List.findSome?_cons, hnone]
      exact ih hrest h fun d x hd => hleast d x (List.mem_cons_of_mem _ hd)

/-- What the search for the TOMBSTONE at a location asks of one index entry (R97(2)). -/
def tombstoneTest (loc : Loc) (p : Nat × IndexEntry) : Option (Key × Nat) :=
  match p.2 with
  | .tombstone q l _ => if l = loc then some (Key.ofCode p.1, q) else none
  | _ => none

theorem tombstoneAt_eq (loc : Loc) (s : State) : tombstoneAt loc s = s.index.findSome? (tombstoneTest loc) := rfl

theorem tombstoneTest_isSome {loc : Loc} {c : Nat} {e : IndexEntry} (h : (tombstoneTest loc (c, e)).isSome) :
    ∃ q p, e = .tombstone q loc p := by
  cases e with
  | tombstone q l p =>
    by_cases hl : l = loc
    · exact ⟨q, p, by rw [hl]⟩
    · simp [tombstoneTest, hl] at h
  | live => cases h
  | lost => cases h

/-- The TOMBSTONE found at a location is the first in key order (R97(2)). -/
theorem tombstoneAt_of_least {loc : Loc} {s : State} {c q : Nat} {p : Bool} (hs : Store.Canonical s.index)
    (hc : Store.get c s.index = some (.tombstone q loc p))
    (hleast : ∀ d r p', Store.get d s.index = some (.tombstone r loc p') → c ≤ d) :
    tombstoneAt loc s = some (Key.ofCode c, q) := by
  rw [tombstoneAt_eq]
  refine Store.findSome_least hs (Store.mem_of_get hc) (by simp [tombstoneTest]) fun d e hd hsome => ?_
  obtain ⟨r, p', rfl⟩ := tombstoneTest_isSome hsome
  exact hleast d r p' (Store.get_of_mem hs hd)

theorem tombstoneAt_none {loc : Loc} {s : State} (hs : Store.Canonical s.index)
    (h : ∀ c q p, Store.get c s.index ≠ some (.tombstone q loc p)) : tombstoneAt loc s = none := by
  rw [tombstoneAt_eq, List.findSome?_eq_none_iff]
  rintro ⟨c, e⟩ hmem
  rw [← Option.not_isSome_iff_eq_none]
  intro hsome
  obtain ⟨q, p, rfl⟩ := tombstoneTest_isSome hsome
  exact h c q p (Store.get_of_mem hs hmem)

theorem handleItem_unreadable {loc : Loc} {k : Key} {q : Nat} {s : State} (h : tombstoneAt loc s = some (k, q)) :
    handleItem (.unreadable loc) s = handTombstone k q loc s := by
  simp [handleItem, h]

theorem handleItem_unreadable_none {loc : Loc} {s : State} (h : tombstoneAt loc s = none) :
    handleItem (.unreadable loc) s = .done s := by
  simp [handleItem, h]

section
variable {k : Key} {v : Victim} {q len cells : Nat} {loc : Loc} {p : Bool} {s : State} (hv : s.comp.victim = some v)
include hv

theorem handleItem_sweep_tombstone (hl : lookup k s = some (.tombstone q loc p)) (hseg : loc.seg = v.seg) :
    handleItem (.sweep k) s = handTombstone k q loc s := by
  simp [handleItem, hl, hv, hseg]

theorem handleItem_sweep_live (hl : lookup k s = some (.live q len cells loc p)) (hseg : loc.seg = v.seg) :
    handleItem (.sweep k) s = .done (markLost k q loc s) := by
  simp [handleItem, hl, hv, hseg]

/-- A key no longer located in the victim is passed over by the sweep (R100). -/
theorem handleItem_sweep_elsewhere (hl : ∀ x, lookup k s = some x → x.inSeg v.seg = false) :
    handleItem (.sweep k) s = .done s := by
  cases h : lookup k s with
  | none => simp [handleItem, h]
  | some x =>
    have hx := hl x h
    cases x with
    | lost => simp [handleItem, h]
    | live q len cells loc p =>
      have hseg : ¬ loc.seg = v.seg := by simpa [IndexEntry.inSeg, IndexEntry.loc?] using hx
      simp [handleItem, h, hv, hseg]
    | tombstone q loc p =>
      have hseg : ¬ loc.seg = v.seg := by simpa [IndexEntry.inSeg, IndexEntry.loc?] using hx
      simp [handleItem, h, hv, hseg]

end

/-! ## The entries of a page, the sweep and the victim's reading (R96 to R101) -/

/-- The state with another evacuation context. -/
def victimIs (v : Victim) (s : State) : State := { s with comp := { s.comp with victim := some v } }

theorem modVictim_eq {s : State} {v : Victim} (h : s.comp.victim = some v) (f : Victim → Victim) :
    modVictim f s = victimIs (f v) s := by
  simp [modVictim, modComp, victimIs, h]

/-- After the last entry of a page the engine reads on (R98). -/
theorem copyLoop_nil_reading {s : State} {v : Victim} (h : s.comp.victim = some v) (hv : v.sweeping = false) :
    copyLoop [] s = victimIs { v with phase := .reading, todo := [] } s := by
  simp [copyLoop, pageHandled, h, hv, modVictim_eq h]

/-- After the sweep the engine drains, which is a commit cause of the RELOCATE stream (R101). -/
theorem copyLoop_nil_sweeping {s : State} {v : Victim} (h : s.comp.victim = some v) (hv : v.sweeping = true) :
    copyLoop [] s = commitCause .relocate (victimIs { v with phase := .draining, todo := [] } s) := by
  simp [copyLoop, pageHandled, h, hv, modVictim_eq h]

theorem copyLoop_done {i : CopyItem} {s t : State} (h : handleItem i s = .done t) (rest : List CopyItem) :
    copyLoop (i :: rest) s = copyLoop rest t := by
  simp [copyLoop, h]

theorem copyLoop_waits {i : CopyItem} {s t : State} {v : Victim} (h : handleItem i s = .waits t)
    (hv : t.comp.victim = some v) (rest : List CopyItem) :
    copyLoop (i :: rest) s = victimIs { v with todo := rest } t := by
  simp [copyLoop, h, modVictim_eq hv]

theorem copyLoop_stopped {i : CopyItem} {s t : State} (h : handleItem i s = .stopped t) (rest : List CopyItem) :
    copyLoop (i :: rest) s = t := by
  simp [copyLoop, h]

theorem beginSweep_eq {s : State} {v : Victim} (h : s.comp.victim = some v) (g : Nat) :
    beginSweep g s = copyLoop ((s.index.filter (fun p => p.2.inSeg g)).map (fun p => .sweep (Key.ofCode p.1)))
      (victimIs { v with phase := .copying, sweeping := true, nextPage := 48, todo := [] } s) := by
  rw [beginSweep, modVictim_eq h]

theorem joinQueue_comp (g : Nat) (r : RefreshReason) (s : State) : (joinQueue g r s).comp = s.comp := by
  unfold joinQueue; split <;> rfl

theorem upgradeReason_comp (g : Nat) (old new : RefreshReason) (s : State) :
    (upgradeReason g old new s).comp = s.comp := by
  unfold upgradeReason; (repeat' split) <;> rfl

theorem closeForRefresh_victim (g : Nat) (s : State) : (closeForRefresh g s).comp.victim = s.comp.victim := by
  unfold closeForRefresh
  split
  · rfl
  · next id _ =>
    split
    · exact (CommitTouches.closeOpen id s).victim
    · exact ((CommitTouches.modStream id (fun st => { st with finalPage := true }) s).trans
        (CommitTouches.commitCause id _)).victim

/-- A refresh reason that arrives leaves the evacuation in progress alone (R87, R88). -/
theorem refreshArrival_victim (g : Nat) (r : RefreshReason) (s : State) :
    (refreshArrival g r s).comp.victim = s.comp.victim := by
  have hjoin : (joinQueue g r (setReason g r s)).comp = s.comp := joinQueue_comp ..
  unfold refreshArrival
  split
  · rfl
  · split
    · split
      · rw [upgradeReason_comp]
      · rfl
    · split
      · rw [closeForRefresh_victim, hjoin]
      · split
        · rw [hjoin]
        · rfl

/-- The outcome is the one the engine waits for, of a victim with live cells left (R96). -/
structure AwaitsRead (v : Victim) (r : SegRec) (g page : Nat) (s : State) : Prop where
  victim : s.comp.victim = some v
  record : segAt g s = some r
  seg : v.seg = g
  phase : v.phase = .reading
  page : v.nextPage = page
  live : r.live ≠ 0

section
variable {v : Victim} {r : SegRec} {g page : Nat} {s : State}

/-- An outcome that comes when the victim no longer waits for it is discarded (R96). -/
theorem engineRead_discarded (hv : s.comp.victim = some v) (hr : segAt g s = some r)
    (h : v.seg ≠ g ∨ v.phase ≠ .reading ∨ v.nextPage ≠ page ∨ r.live = 0) (o : ReadOutcome) :
    engineRead g page o s = s := by
  have hlive : liveOf g s = r.live := by simp [liveOf, hr]
  simp [engineRead, hv, hlive, h]

theorem AwaitsRead.not_discarded (h : AwaitsRead v r g page s) :
    ¬ (v.seg ≠ g ∨ v.phase ≠ .reading ∨ v.nextPage ≠ page ∨ liveOf g s = 0) := by
  simp [h.seg, h.phase, h.page, liveOf, h.record, h.live]

/-- A blank page ends the reading (R97). -/
theorem AwaitsRead.engineRead_blank (h : AwaitsRead v r g page s) :
    engineRead g page .blank s = victimIs { v with nextPage := 48 } s := by
  simp only [engineRead, h.victim, if_neg h.not_discarded, modVictim_eq h.victim]

/-- A written page whose trailer is unreadable queues the victim and gives no entry (R97). -/
theorem AwaitsRead.engineRead_unreadable (h : AwaitsRead v r g page s) {w : Written} (hw : w.trailer = none) :
    engineRead g page (.written w) s = copyLoop []
      (victimIs { v with phase := .copying, nextPage := page + 1 } (refreshArrival g .uncorrectable s)) := by
  have hv' : (refreshArrival g .uncorrectable s).comp.victim = some v := (refreshArrival_victim ..).trans h.victim
  simp only [engineRead, h.victim, if_neg h.not_discarded, itemsOf, hw, Option.isNone_none, if_true, modVictim_eq hv']

/-- A written page is handled by the entry starts of its trailer (R97). -/
theorem AwaitsRead.engineRead_readable (h : AwaitsRead v r g page s) {w : Written} {tr : Trailer}
    (hw : w.trailer = some tr) :
    engineRead g page (.written w) s =
      copyLoop (itemsOf g page w) (victimIs { v with phase := .copying, nextPage := page + 1 } s) := by
  simp only [engineRead, h.victim, if_neg h.not_discarded, hw, Option.isNone_some, Bool.false_eq_true, if_false,
    modVictim_eq h.victim]

end

/-! ## The obligation -/

/-- The compare-and-update of R11. -/
theorem relocateEntry_compares (e : Entry) (k : Key) (q : Nat) (src dst : Loc) (s : State)
    (hs : Store.Canonical s.index) (hk : Entry.key? e = some k) (hq : Entry.seq? e = some q) {x : IndexEntry}
    (hx : lookup k s = some x) (hseq : x.seq = q) (hloc : x.loc? = some src) :
    let t := relocateEntry e src dst s
    lookup k t = some (x.movedTo dst) ∧ (x.movedTo dst).seq = q ∧ (x.movedTo dst).cells = x.cells ∧
      (x.movedTo dst).programmed = false ∧ (x.movedTo dst).present = x.present ∧
      (∀ c, c ≠ Key.code k → Store.get c t.index = Store.get c s.index) ∧
      (∀ g, segAt g t = (segAt g s).map (fun r =>
        { r with live := r.live - cellsIn g (some x) + cellsIn g (some (x.movedTo dst)) })) ∧
      (∀ m r, Store.get m s.spaces = some r → (m = k.space → x.usage ≤ r.usage ∧ 1 ≤ r.keyCount) →
        Store.get m t.spaces = some r) := by
  obtain ⟨hmseq, hmcells, hmprog, hmpresent⟩ := movedTo_located hloc dst
  rw [relocateEntry_holds hk hq hx hseq hloc]
  refine ⟨lookup_changeEntry k _ hs, hmseq.trans hseq, hmcells, hmprog, hmpresent,
    fun c hc => get_changeEntry_other hc _ s, fun g => ?_, fun m r hr hcounts => ?_⟩
  · rw [segAt_changeEntry, hx]
  · rw [space_changeEntry, hr, hx, Option.map_some]
    split
    · next hm => rw [recount_movedTo (hcounts hm).1 (hcounts hm).2]
    · rfl

/-- Settles O24, part by part: the compare-and-update, the copy's way to the buffer, its placement, the drop test, the
entries of a page, and the victim's reading. -/
theorem relocationComparesAndUpdates : Obligations.RelocationComparesAndUpdates := by
  refine ⟨fun e k q src dst s hs hk hq => ⟨fun x hx hseq hloc => ?_, fun hdead => ?_⟩,
    fun e src s => ⟨fun g hopen => ⟨fun hended hroom => ?_, handCopy_full hopen⟩,
      fun hopen => ⟨fun t ht => ?_, fun ht => ?_⟩⟩,
    fun e q src s g p hq hdest => ⟨fun hused => ?_, fun hused => ?_⟩, fun victim q s hs => dropTest_iff hs,
    ⟨fun loc e k q s hk hq => ⟨fun hdead => ?_, fun x hx hseq hloc => ⟨fun len chk v he => ?_, fun he => ?_⟩⟩,
      fun loc s hs => ⟨fun c q p hc hleast => ?_, fun hnone => ?_⟩,
      fun k v s hv => ⟨fun q loc p => handleItem_sweep_tombstone hv, fun q len cells loc p => handleItem_sweep_live hv,
        handleItem_sweep_elsewhere hv⟩⟩,
    ⟨fun s v hv => ⟨copyLoop_nil_reading hv, copyLoop_nil_sweeping hv⟩,
      fun i rest s => ⟨fun t h => copyLoop_done h rest, fun t v h hv => copyLoop_waits h hv rest,
        fun t h => copyLoop_stopped h rest⟩,
      fun s v r g page hv hr => ⟨engineRead_discarded hv hr, fun hg hphase hpage hlive => ?_⟩,
      fun s v hv => beginSweep_eq hv v.seg⟩⟩
  · exact relocateEntry_compares e k q src dst s hs hk hq hx hseq hloc
  · exact relocateEntry_dead (copyHolds_false hk hq hdead) dst
  · rw [handCopy, roomFor_ready .relocate s hopen hended hroom]
  · rw [handCopy, roomFor_opened .relocate s hopen ht]
  · rw [handCopy, roomFor_noSegment .relocate s hopen ht]
    rfl
  · rw [placeCopy_eq src hq hdest, if_neg (Nat.not_le.mpr hused)]
  · rw [placeCopy_eq src hq hdest, if_pos hused]
  · exact handleItem_dead (copyHolds_false hk hq hdead)
  · subst he
    exact handleItem_record ((copyHolds_iff hk hq loc s).mpr ⟨x, hx, hseq, hloc⟩)
  · subst he
    exact handleItem_tombstone ((copyHolds_iff hk hq loc s).mpr ⟨x, hx, hseq, hloc⟩)
  · exact handleItem_unreadable (tombstoneAt_of_least hs hc hleast)
  · exact handleItem_unreadable_none (tombstoneAt_none hs hnone)
  · have hawaits : AwaitsRead v r g page s := ⟨hv, hr, hg, hphase, hpage, hlive⟩
    refine ⟨hawaits.engineRead_blank, fun w => ⟨hawaits.engineRead_unreadable, fun tr hw => ?_⟩⟩
    rw [hawaits.engineRead_readable hw, itemsOf, hw]
    rfl

end Sys2Proof.Machine


/-! # The Allocator's choice (R30 to R34) -/

namespace Sys2Proof.Machine

/-! ## Streams and segment records after the basic changes -/

@[simp] theorem streamOf_modStream_same (id : StreamId) (f : Stream → Stream) (s : State) :
    streamOf id (modStream id f s) = f (streamOf id s) := by cases id <;> rfl

@[simp] theorem segAt_modStream (h : Nat) (id : StreamId) (f : Stream → Stream) (s : State) :
    segAt h (modStream id f s) = segAt h s := by cases id <;> rfl

/-! ## The least worn FREE segment (R31) -/

theorem leastWornFree_eq_none_iff {l : List (Nat × SegRec)} :
    leastWornFree l = none ↔ ∀ p ∈ l, p.2.state ≠ .free := by
  induction l with
  | nil => simp [leastWornFree]
  | cons p rest ih =>
    cases h : leastWornFree rest with
    | none =>
      have hrest := ih.mp h
      simp only [leastWornFree, h, ite_eq_right_iff, reduceCtorEq, imp_false, List.forall_mem_cons]
      exact ⟨fun hp => ⟨hp, hrest⟩, fun hall => hall.1⟩
    | some best =>
      obtain ⟨hmem, hfree⟩ := leastWornFree_free h
      have hne : leastWornFree (p :: rest) ≠ none := by simp only [leastWornFree, h]; split <;> simp
      exact iff_of_false hne fun hall => hall best (List.mem_cons_of_mem _ hmem) hfree

/-- No FREE segment goes before the chosen one in wear, then in number (R31). -/
theorem leastWornFree_least {l : List (Nat × SegRec)} {g : Nat} {r : SegRec} (hl : Store.Canonical l)
    (h : leastWornFree l = some (g, r)) {k : Nat} {x : SegRec} (hx : (k, x) ∈ l) (hfree : x.state = .free) :
    r.eraseCount < x.eraseCount ∨ (r.eraseCount = x.eraseCount ∧ g ≤ k) := by
  induction l generalizing g r with
  | nil => cases hx
  | cons p rest ih =>
    obtain ⟨a, y⟩ := p
    simp only [Store.Canonical, List.map_cons, List.pairwise_cons] at hl
    obtain ⟨hfirst, hrest⟩ := hl
    have hafter : ∀ q ∈ rest, a < q.1 := fun q hq => hfirst q.1 (List.mem_map.mpr ⟨q, hq, rfl⟩)
    cases hbest : leastWornFree rest with
    | none =>
      have hnone := leastWornFree_eq_none_iff.mp hbest
      simp only [leastWornFree, hbest, Option.ite_none_right_eq_some, Option.some.injEq, Prod.mk.injEq] at h
      obtain ⟨_, rfl, rfl⟩ := h
      rcases List.mem_cons.mp hx with hx | hx
      · cases hx; exact .inr ⟨rfl, Nat.le_refl _⟩
      · exact absurd hfree (hnone _ hx)
    | some best =>
      obtain ⟨b, z⟩ := best
      have hb : a < b := hafter _ (leastWornFree_free hbest).1
      simp only [leastWornFree, hbest] at h
      split at h
      · next htake =>
        obtain ⟨_, hle⟩ := htake
        cases h
        rcases List.mem_cons.mp hx with hx | hx
        · cases hx; exact .inr ⟨rfl, Nat.le_refl _⟩
        · have hk := hafter _ hx
          rcases ih hrest hbest hx with hlt | ⟨heq, _⟩ <;> dsimp only at * <;> omega
      · next hkeep =>
        cases h
        rcases List.mem_cons.mp hx with hx | hx
        · cases hx
          exact .inl (Nat.lt_of_not_le fun hle => hkeep ⟨hfree, hle⟩)
        · exact ih hrest hbest hx

/-! ## The ask (R32 to R34) -/

theorem askAllowed_iff {id : StreamId} {retry : Bool} {n : Nat} :
    askAllowed id retry n = true ↔ (id = .host → retry = false → 5 ≤ n) := by
  cases id with
  | relocate => simp [askAllowed]
  | host => cases retry <;> simp [askAllowed, Config.hostReserve, Nat.lt_iff_add_one_le]

/-- When an ask fails (R32 to R34). -/
theorem openSegment_eq_none_iff {id : StreamId} {retry : Bool} {s : State} (hs : Store.Canonical s.segs) :
    openSegment id retry s = none ↔ s.nextStamp = none ∨ (∀ h x, segAt h s = some x → x.state ≠ .free) ∨
      (id = .host ∧ retry = false ∧ s.freeCount ≤ 4) := by
  have hfree : leastWornFree s.segs = none ↔ ∀ h x, segAt h s = some x → x.state ≠ .free :=
    leastWornFree_eq_none_iff.trans
      ⟨fun h g x hx => h (g, x) (Store.mem_of_get hx), fun h p hp => h p.1 p.2 (Store.get_of_mem hs hp)⟩
  have hask : askAllowed id retry s.freeCount = false ↔ id = .host ∧ retry = false ∧ s.freeCount ≤ 4 := by
    rw [← Bool.not_eq_true, askAllowed_iff]
    constructor
    · intro h
      simp only [Classical.not_imp] at h
      exact ⟨h.1, h.2.1, by omega⟩
    · rintro ⟨hid, hretry, hcount⟩ h
      have := h hid hretry
      omega
  rw [← hfree, ← hask]
  unfold openSegment
  cases s.nextStamp <;> cases leastWornFree s.segs <;> cases askAllowed id retry s.freeCount <;> simp

/-! ## The segment opened (R31, R33, R30) -/

/-- A record that the Allocator opens for a stream. -/
def SegRec.openedFor (id : StreamId) (stamp : Nat) (r : SegRec) : SegRec :=
  { r with state := .opened, stream := some id, openStamp := some stamp, nextPage := some 1 }

section
variable (id : StreamId) (g stamp : Nat) (s : State)

/-- What the grant makes of the state, but for the low-free condition and its notice (R31, R33). -/
theorem grantSegment_frame : grantSegment id g stamp s =
    { modStream id (fun st => { st with openSeg := some g }) s with
      segs := Store.modify g (SegRec.openedFor id stamp) s.segs
      nextStamp := stampAfter stamp
      freeCount := s.freeCount - 1
      lowFree := (grantSegment id g stamp s).lowFree
      link := { s.link with notices := (grantSegment id g stamp s).link.notices } } := by
  cases id <;> (unfold grantSegment freeCountFalls; dsimp only; split <;> rfl)

theorem segAt_grantSegment (h : Nat) : segAt h (grantSegment id g stamp s) =
    if h = g then (segAt h s).map (SegRec.openedFor id stamp) else segAt h s := by
  rw [grantSegment_frame]
  exact segAt_modSeg h g (SegRec.openedFor id stamp) s

theorem streamOf_grantSegment : streamOf id (grantSegment id g stamp s) = { streamOf id s with openSeg := some g } := by
  rw [grantSegment_frame]; cases id <;> rfl

/-- The grant is a fall of the free count in a state with the counts and notices of before. -/
theorem grantSegment_falls : ∃ t, grantSegment id g stamp s = freeCountFalls t ∧ t.freeCount = s.freeCount ∧
    t.lowFree = s.lowFree ∧ t.link = s.link := by
  cases id <;> exact ⟨_, rfl, rfl, rfl, rfl⟩

/-- The notice at the entry into the low-free condition (R30). -/
theorem grantSegment_low (h : s.freeCount - 1 ≤ 4 ∧ s.lowFree = false) :
    (grantSegment id g stamp s).lowFree = true ∧
      (grantSegment id g stamp s).link.notices = pushNotice (.spaceLow (s.freeCount - 1)) s.link.notices := by
  obtain ⟨t, ht, hcount, hlow, hlink⟩ := grantSegment_falls id g stamp s
  rw [ht, ← hcount, ← hlink, freeCountFalls_low t (by rw [hcount, hlow]; exact h)]
  exact ⟨rfl, rfl⟩

theorem grantSegment_not_low (h : ¬ (s.freeCount - 1 ≤ 4 ∧ s.lowFree = false)) :
    (grantSegment id g stamp s).lowFree = s.lowFree ∧ (grantSegment id g stamp s).link = s.link := by
  obtain ⟨t, ht, hcount, hlow, hlink⟩ := grantSegment_falls id g stamp s
  rw [ht, freeCountFalls_other t (by rw [hcount, hlow]; exact h)]
  exact ⟨hlow, hlink⟩

end

/-- Settles O25: the ask fails as `openSegment_eq_none_iff` says, and is granted by `grantSegment`. -/
theorem allocatorOpensLeastWorn : Obligations.AllocatorOpensLeastWorn := by
  refine fun id retry s hs => ⟨openSegment_eq_none_iff hs, fun u hu => ?_⟩
  obtain ⟨stamp, g, r, hstamp, hleast, hask, rfl⟩ := openSegment_eq_some_iff.mp hu
  obtain ⟨hmem, hfree⟩ := leastWornFree_free hleast
  have hr : segAt g s = some r := Store.get_of_mem hs hmem
  have hopened : segAt g (grantSegment id g stamp s) = some (SegRec.openedFor id stamp r) := by
    rw [segAt_grantSegment, if_pos rfl, hr]; rfl
  refine ⟨g, r, stamp, hr, hfree, hstamp, fun h x hx => leastWornFree_least hs hleast (Store.mem_of_get hx),
    askAllowed_iff.mp hask, hopened, fun h hne => ?_, ?_, fun hstranded => ?_, ?_, ?_, ?_,
    grantSegment_low id g stamp s, grantSegment_not_low id g stamp s⟩
  · rw [segAt_grantSegment, if_neg hne]
  · rw [streamOf_grantSegment]
  · refine bufferDest_of_open ?_ ?_ (by rw [hopened]; rfl)
    · rw [streamOf_grantSegment]
    · rw [streamOf_grantSegment]; exact hstranded
  · rw [grantSegment_frame]; cases id <;> rfl
  · rw [grantSegment_frame]; rfl
  · rw [grantSegment_frame]

end Sys2Proof.Machine


/-! # Answers, claims and segments that become FULL (R35, R37, R76, R77, R179) -/

namespace Sys2Proof.Machine

/-! ## The slots (R179) -/

/-- A second answer replaces the first. -/
theorem Slot.answered_answered (st st' : Status) (d d' : ReplyData) (sl : Slot) :
    Slot.answered st d (Slot.answered st' d' sl) = Slot.answered st d sl := rfl

theorem slotAt_answer (m n : Nat) (st : Status) (d : ReplyData) (s : State) :
    slotAt m (answer n st d s) = if m = n then (slotAt m s).map (Slot.answered st d) else slotAt m s := by
  split
  · next e => subst e; exact Store.get_modify_same ..
  · next e => exact Store.get_modify_other e ..

theorem slotAt_answerAll (m : Nat) (ns : List Nat) (st : Status) (d : ReplyData) (s : State) :
    slotAt m (answerAll ns st d s) = if m ∈ ns then (slotAt m s).map (Slot.answered st d) else slotAt m s := by
  induction ns generalizing s with
  | nil => rfl
  | cons n ns ih =>
    rw [answerAll, List.foldl_cons, ← answerAll, ih, slotAt_answer]
    by_cases hn : m = n <;> by_cases hns : m ∈ ns <;> simp [hn, hns, Function.comp_def, Slot.answered_answered]

theorem answerAll_frame (ns : List Nat) (st : Status) (d : ReplyData) (s : State) : answerAll ns st d s =
    { s with link := { s.link with slots := (answerAll ns st d s).link.slots }
             engine := (answerAll ns st d s).engine } := by
  induction ns generalizing s with
  | nil => rfl
  | cons n ns ih => rw [answerAll, List.foldl_cons, ← answerAll, ih]; rfl

/-- A slot of the Request Table that is found by a search is the slot of its number (R178). -/
theorem mem_slotsWhere {s : State} (hs : Store.Canonical s.link.slots) {p : Slot → Bool} {n : Nat} :
    n ∈ slotsWhere p s ↔ ∃ sl, slotAt n s = some sl ∧ p sl = true := by
  simp only [slotsWhere, List.mem_map, List.mem_filter]
  constructor
  · rintro ⟨⟨m, sl⟩, ⟨hmem, hp⟩, rfl⟩
    exact ⟨sl, Store.get_of_mem hs hmem, hp⟩
  · rintro ⟨sl, hget, hp⟩
    exact ⟨(n, sl), ⟨Store.mem_of_get hget, hp⟩, rfl⟩

/-- The number of the held slot is that of a HELD slot (R105). -/
theorem slotAt_heldSlot {s : State} (hs : Store.Canonical s.link.slots) {n : Nat} (h : heldSlot s = some n) :
    ∃ sl, slotAt n s = some sl ∧ sl.state = .held := by
  obtain ⟨sl, hsl, hheld⟩ := (mem_slotsWhere hs).mp (List.mem_of_mem_head? h)
  exact ⟨sl, hsl, beq_iff_eq.mp hheld⟩

/-- The Request Table in slot order is kept by every basic change (R178). -/
theorem slotsCanonical_stable : Stable (fun t => Store.Canonical t.link.slots) where
  work s t h _ x := by unfold SameButWork at h; rw [h]; exact x
  slots _ _ h x := canonical_of_keys (keys_of_slotIds h) x
  notice _ _ x := x
  segs _ _ _ x := x
  index _ _ _ x := x
  counts _ _ _ x := x
  readOnly _ _ _ x := x
  pendingCause _ _ _ x := x
  formatFails _ _ _ x := x

theorem slotsCanonical_placing : Placing (fun t => Store.Canonical t.link.slots) :=
  { slotsCanonical_stable with sequence := fun _ _ _ x => x, marks := fun _ _ x => x }

/-- The Segment Table in segment order is kept by every basic change (R24). -/
theorem segsCanonical_stable : Stable (fun t => Store.Canonical t.segs) where
  work s t h _ x := by unfold SameButWork at h; rw [h]; exact x
  slots _ _ _ x := x
  notice _ _ x := x
  segs _ _ h x := h x
  index _ _ _ x := x
  counts _ _ _ x := x
  readOnly _ _ _ x := x
  pendingCause _ _ _ x := x
  formatFails _ _ _ x := x

/-- The array's pages are changed by no basic change (R73, R74). -/
theorem flash_stable (pages : List (Nat × StoredPage)) : Stable (fun t => t.flash = pages) where
  work s t h _ x := by unfold SameButWork at h; rw [h]; exact x
  slots _ _ _ x := x
  notice _ _ x := x
  segs _ _ _ x := x
  index _ _ _ x := x
  counts _ _ _ x := x
  readOnly _ _ _ x := x
  pendingCause _ _ _ x := x
  formatFails _ _ _ x := x

/-! ## The claims of a class (R75 to R77) -/

/-- The claims of a class: the one in its place, then those that wait outside. -/
def ArrayCtl.claimsOf (a : ArrayCtl) (cls : ClaimClass) : List Claim :=
  (a.place cls).toList ++ a.outside.filter (fun c => c.cls == cls)

@[simp] theorem ArrayCtl.place_setPlace_same (a : ArrayCtl) (cls : ClaimClass) (c : Option Claim) :
    (a.setPlace cls c).place cls = c := by cases cls <;> rfl

theorem ArrayCtl.place_setPlace_other {cls cls' : ClaimClass} (h : cls' ≠ cls) (a : ArrayCtl) (c : Option Claim) :
    (a.setPlace cls c).place cls' = a.place cls' := by
  cases cls <;> cases cls' <;> simp_all [ArrayCtl.place, ArrayCtl.setPlace]

@[simp] theorem ArrayCtl.setPlace_outside (a : ArrayCtl) (cls : ClaimClass) (c : Option Claim) :
    (a.setPlace cls c).outside = a.outside := by cases cls <;> rfl

/-- A claim made stands in its place or outside it (R76). -/
theorem ArrayCtl.mem_claim (a : ArrayCtl) (c : Claim) :
    c ∈ ((a.claim c).place c.cls).toList ++ (a.claim c).outside := by
  unfold ArrayCtl.claim
  split
  · simp
  · simp

theorem ArrayCtl.mem_claimsOf_claim {a : ArrayCtl} {c x : Claim} {cls : ClaimClass}
    (h : x ∈ (a.claim c).claimsOf cls) : x ∈ a.claimsOf cls ∨ x = c := by
  unfold ArrayCtl.claim at h
  split at h
  · by_cases hcls : cls = c.cls
    · subst hcls
      simp only [claimsOf, place_setPlace_same, setPlace_outside, List.mem_append, Option.mem_toList,
        Option.some.injEq] at h ⊢
      exact h.elim (fun e => .inr e.symm) (fun hx => .inl (.inr hx))
    · rw [claimsOf, place_setPlace_other hcls, setPlace_outside] at h
      exact .inl h
  · simp only [claimsOf, List.filter_append, List.mem_append, List.mem_filter, List.mem_singleton] at h ⊢
    rcases h with h | h | h
    · exact .inl (.inl h)
    · exact .inl (.inr h)
    · exact .inr h.1

theorem dropFirst_sublist {α : Type} (p : α → Bool) (l : List α) : List.Sublist (Store.dropFirst p l) l := by
  induction l with
  | nil => exact .slnil
  | cons x xs ih =>
    unfold Store.dropFirst
    split
    · exact List.sublist_cons_self x xs
    · exact ih.cons_cons x

/-- A place that refills takes a claim of its class from outside (R76). -/
theorem ArrayCtl.mem_claimsOf_refill {a : ArrayCtl} {cls cls' : ClaimClass} {x : Claim}
    (h : x ∈ (a.refill cls).claimsOf cls') : x ∈ a.claimsOf cls' := by
  unfold ArrayCtl.refill at h
  split at h
  · exact h
  · split at h
    · exact h
    · next c hc =>
      have hout : (Store.dropFirst (fun d => d.cls == cls) a.outside).Sublist a.outside := dropFirst_sublist ..
      rw [claimsOf] at h ⊢
      rcases List.mem_append.mp h with hx | hx
      · by_cases hcls : cls' = cls
        · subst hcls
          have hxc : c = x := by
            have hplace : ∀ o, ({ a.setPlace cls' (some c) with outside := o } : ArrayCtl).place cls' = some c := by
              cases cls' <;> exact fun _ => rfl
            rw [hplace] at hx
            exact (Option.some.inj (Option.mem_toList.mp hx))
          have hclass : (c.cls == cls') = true := List.find?_some (p := fun c : Claim => c.cls == cls') hc
          subst hxc
          exact List.mem_append_right _ (List.mem_filter.mpr ⟨List.mem_of_find?_eq_some hc, hclass⟩)
        · have hplace : ∀ o, ({ a.setPlace cls (some c) with outside := o } : ArrayCtl).place cls' = a.place cls' := by
            intro o
            rw [← place_setPlace_other hcls a (some c)]
            cases cls' <;> rfl
          rw [hplace] at hx
          exact List.mem_append_left _ hx
      · exact List.mem_append_right _ ((hout.filter _).subset hx)

theorem ArrayCtl.mem_claimsOf_leaveIf {a : ArrayCtl} {cls cls' : ClaimClass} {p : Claim → Bool} {x : Claim}
    (h : x ∈ (a.leaveIf cls p).claimsOf cls') :
    x ∈ a.claimsOf cls' ∧ (cls' = cls → p x = false ∨ x ∈ a.outside.filter (fun c => c.cls == cls)) := by
  have hsplit (y : Claim) (hy : y ∈ a.claimsOf cls) (hp : ∀ c, a.place cls = some c → p c = false) :
      p y = false ∨ y ∈ a.outside.filter (fun c => c.cls == cls) := by
    rcases List.mem_append.mp hy with hplace | hout
    · exact .inl (hp y (Option.mem_toList.mp hplace))
    · exact .inr hout
  unfold ArrayCtl.leaveIf at h
  split at h
  · next hnone =>
    exact ⟨h, fun e => hsplit x (e ▸ h) (fun c hc => by rw [hnone] at hc; cases hc)⟩
  · next c hc =>
    split at h
    · have hleft := mem_claimsOf_refill h
      by_cases hcls : cls' = cls
      · subst hcls
        simp only [claimsOf, place_setPlace_same, setPlace_outside, Option.toList_none, List.nil_append] at hleft
        exact ⟨List.mem_append_right _ hleft, fun _ => .inr hleft⟩
      · rw [claimsOf, place_setPlace_other hcls, setPlace_outside] at hleft
        exact ⟨hleft, fun e => absurd e hcls⟩
    · next hp =>
      exact ⟨h, fun e => hsplit x (e ▸ h) (fun d hd => by rw [hc] at hd; cases hd; simpa using hp)⟩

/-- A withdrawal makes no claim, and leaves none of its class that it is for (R77). -/
theorem ArrayCtl.mem_claimsOf_withdraw {a : ArrayCtl} {cls cls' : ClaimClass} {p : Claim → Bool} {x : Claim}
    (h : x ∈ (a.withdraw cls p).claimsOf cls') : x ∈ a.claimsOf cls' ∧ (cls' = cls → p x = false) := by
  let b : ArrayCtl := { a with outside := a.outside.filter (fun c => !(c.cls == cls && p c)) }
  have hb : x ∈ (b.leaveIf cls p).claimsOf cls' := by
    unfold ArrayCtl.withdraw at h
    dsimp only at h
    split at h
    · cases cls' <;> exact h
    · exact h
  obtain ⟨hmem, hp⟩ := mem_claimsOf_leaveIf hb
  have hout : b.outside.Sublist a.outside := List.filter_sublist
  have hplace : b.place cls' = a.place cls' := by cases cls' <;> rfl
  refine ⟨?_, fun e => (hp e).elim id fun hx => ?_⟩
  · rw [claimsOf, hplace] at hmem
    rcases List.mem_append.mp hmem with hx | hx
    · exact List.mem_append_left _ hx
    · exact List.mem_append_right _ ((hout.filter _).subset hx)
  · obtain ⟨hx, hcls⟩ := List.mem_filter.mp hx
    have hkept := (List.mem_filter.mp hx).2
    rw [hcls] at hkept
    simpa using hkept

/-! ## A segment becomes FULL (R35, R37) -/

/-- The record of a segment that becomes FULL (R37). -/
def SegRec.filled (r : SegRec) : SegRec := { r with state := .full, stream := none, nextPage := none }

theorem segAt_fillSegment (h g : Nat) (s : State) :
    segAt h (fillSegment g s) = if h = g then (segAt h s).map SegRec.filled else segAt h s :=
  segAt_modSeg h g SegRec.filled s

@[simp] theorem streamOf_fillSegment (id : StreamId) (g : Nat) (s : State) :
    streamOf id (fillSegment g s) = streamOf id s := by cases id <;> rfl

theorem closeOpen_of_open {id : StreamId} {s : State} {g : Nat} (h : (streamOf id s).openSeg = some g) :
    closeOpen id s = fillSegment g (modStream id (fun st => { st with openSeg := none }) s) := by
  simp [closeOpen, h]

theorem streamOf_closeOpen (id : StreamId) (s : State) :
    streamOf id (closeOpen id s) = { streamOf id s with openSeg := none } := by
  unfold closeOpen
  split
  · next h => rw [← h]
  · rw [streamOf_fillSegment, streamOf_modStream_same]

theorem segAt_closeOpen_other {id : StreamId} {s : State} {h : Nat} (hne : (streamOf id s).openSeg ≠ some h) :
    segAt h (closeOpen id s) = segAt h s := by
  unfold closeOpen
  split
  · rfl
  · next g hg =>
    have hgh : h ≠ g := fun e => hne (e ▸ hg)
    rw [segAt_fillSegment, if_neg hgh, segAt_modStream]

theorem advancePage_stream (id : StreamId) (g page : Nat) (final : Bool) (s : State) :
    streamOf id (advancePage id g page final s) = { streamOf id s with
      openSeg := (streamOf id (advancePage id g page final s)).openSeg } := by
  unfold advancePage
  split
  · rw [streamOf_closeOpen]
  · cases id <;> rfl

/-- A stream's segment advances; no stream comes to hold another segment by it (R35). -/
theorem advancePage_openSeg (id : StreamId) (g page : Nat) (final : Bool) (s : State) :
    (streamOf id (advancePage id g page final s)).openSeg = none ∨
      (streamOf id (advancePage id g page final s)).openSeg = (streamOf id s).openSeg := by
  unfold advancePage
  split
  · rw [streamOf_closeOpen]; exact .inl rfl
  · cases id <;> exact .inr rfl

theorem segAt_advancePage_other {id : StreamId} {g page h : Nat} {final : Bool} {s : State} (hg : h ≠ g)
    (hopen : (streamOf id s).openSeg ≠ some h) : segAt h (advancePage id g page final s) = segAt h s := by
  unfold advancePage
  split
  · exact segAt_closeOpen_other hopen
  · rw [segAt_modSeg, if_neg hg]

@[simp] theorem streamOf_stopTimer (id id' : StreamId) (s : State) : streamOf id (stopTimer id' s) = streamOf id s := by
  cases id <;> cases id' <;> rfl

@[simp] theorem segAt_stopTimer (h : Nat) (id : StreamId) (s : State) : segAt h (stopTimer id s) = segAt h s := by
  cases id <;> rfl

@[simp] theorem streamOf_claimProgram (id id' : StreamId) (f : InFlight) (s : State) :
    streamOf id (claimProgram id' f s) = streamOf id s := by
  cases id <;> rfl

@[simp] theorem segAt_claimProgram (h : Nat) (id : StreamId) (f : InFlight) (s : State) :
    segAt h (claimProgram id f s) = segAt h s := rfl

/-! ## What a commit cause does (R51) -/

/-- The page that a stream's buffer becomes at a commit (R51(a), (b)). -/
def committedPage (id : StreamId) (g p : Nat) (s : State) : InFlight :=
  ⟨g, p, (streamOf id s).padded, buildTrailer id (stampOf g s) p (streamOf id s).padded⟩

theorem commitNow_of_dest {id : StreamId} {s : State} {g p : Nat} (h : bufferDest id s = some (g, p)) :
    commitNow id s = claimProgram id (committedPage id g p s) (stopTimer id
      (advancePage id g p (streamOf id s).finalPage (modStream id (Stream.committed (committedPage id g p s)) s))) := by
  simp only [commitNow, h]; rfl

theorem commitNow_of_no_dest {id : StreamId} {s : State} (h : bufferDest id s = none) : commitNow id s = s := by
  simp only [commitNow, h]

/-- A commit cause is without effect, a mark, or the commit of the buffer (R51). -/
theorem commitCause_cases (id : StreamId) (s : State) :
    commitCause id s = s ∨
    commitCause id s = modStream id (fun st => { st with commitRequested := true }) s ∨
    ∃ g p, bufferDest id s = some (g, p) ∧ (streamOf id s).stranded = false ∧
      commitCause id s = commitNow id s := by
  unfold commitCause
  dsimp only
  split
  · exact .inl rfl
  · next hs =>
    split
    · cases hdest : bufferDest id s with
      | none => exact .inl (commitNow_of_no_dest hdest)
      | some d =>
        have hstranded : (streamOf id s).stranded = false := by
          rw [← Bool.not_eq_true]; exact fun e => hs (.inl e)
        exact .inr (.inr ⟨d.1, d.2, rfl, hstranded, rfl⟩)
    · exact .inr (.inl rfl)

/-- A buffer that is not stranded is destined for its stream's open segment, at the record's next page (R46). -/
theorem bufferDest_unstranded {id : StreamId} {s : State} {g p : Nat} (h : bufferDest id s = some (g, p))
    (hstranded : (streamOf id s).stranded = false) :
    (streamOf id s).openSeg = some g ∧ (segAt g s).bind SegRec.nextPage = some p := by
  simp only [bufferDest, hstranded, Bool.false_eq_true, if_false] at h
  split at h
  · cases h
  · next k hk =>
    split at h
    · cases h
    · next r hr =>
      obtain ⟨q, hq, he⟩ := Option.map_eq_some_iff.mp h
      cases he
      exact ⟨hk, by rw [hr]; exact hq⟩

/-- A commit cause leaves every segment alone but the stream's open one (R35). -/
theorem segAt_commitCause_other {id : StreamId} {s : State} {h : Nat} (hne : (streamOf id s).openSeg ≠ some h) :
    segAt h (commitCause id s) = segAt h s := by
  rcases commitCause_cases id s with e | e | ⟨g, p, hdest, hstranded, e⟩
  · rw [e]
  · rw [e, segAt_modStream]
  · have hopen := (bufferDest_unstranded hdest hstranded).1
    have hg : h ≠ g := fun hh => hne (hh ▸ hopen)
    rw [e, commitNow_of_dest hdest, segAt_claimProgram, segAt_stopTimer, segAt_advancePage_other hg, segAt_modStream]
    rw [streamOf_modStream_same]
    exact hne

/-- After a commit cause a stream has its open segment still, or none (R35). -/
theorem commitCause_openSeg (id : StreamId) (s : State) :
    (streamOf id (commitCause id s)).openSeg = none ∨
      (streamOf id (commitCause id s)).openSeg = (streamOf id s).openSeg := by
  rcases commitCause_cases id s with e | e | ⟨g, p, hdest, _, e⟩
  · rw [e]; exact .inr rfl
  · rw [e, streamOf_modStream_same]; exact .inr rfl
  · rw [e, commitNow_of_dest hdest, streamOf_claimProgram, streamOf_stopTimer]
    have h := advancePage_openSeg id g p (streamOf id s).finalPage
      (modStream id (Stream.committed (committedPage id g p s)) s)
    rwa [streamOf_modStream_same] at h

/-- The buffer of a stream with no page in flight becomes its page in flight (R51). -/
theorem commitCause_commits {id : StreamId} {s : State} {g p : Nat} (hstranded : (streamOf id s).stranded = false)
    (hbuffer : (streamOf id s).buffer ≠ []) (hflight : (streamOf id s).inFlight = none)
    (hdest : bufferDest id s = some (g, p)) :
    (streamOf id (commitCause id s)).buffer = [] ∧
      (streamOf id (commitCause id s)).inFlight = some (committedPage id g p s) := by
  rw [commitCause_idle hstranded hbuffer hflight, commitNow_of_dest hdest, streamOf_claimProgram, streamOf_stopTimer,
    advancePage_stream, streamOf_modStream_same]
  exact ⟨rfl, rfl⟩

theorem commitCause_stranded {id : StreamId} {s : State} (h : (streamOf id s).stranded = true) :
    commitCause id s = s := by
  simp [commitCause, h]

theorem commitCause_waiting (id : StreamId) (s : State) :
    (streamOf id (commitCause id s)).waiting = (streamOf id s).waiting := by
  rcases commitCause_cases id s with e | e | ⟨g, p, hdest, _, e⟩
  · rw [e]
  · rw [e, streamOf_modStream_same]
  · rw [e, commitNow_of_dest hdest, streamOf_claimProgram, streamOf_stopTimer, advancePage_stream,
      streamOf_modStream_same]
    rfl

/-- The entries of the buffer are among those of the page it becomes (R51(a)). -/
theorem Stream.mem_padded {st : Stream} {x : Placed} (h : x ∈ st.buffer) : x ∈ st.padded := by
  unfold Stream.padded
  split
  · exact h
  · exact List.mem_append_left _ h

end Sys2Proof.Machine


/-! # Entry into READ_ONLY (R61(2), R66, R107(a) to (c), R109(1), R123(3), R156) -/

namespace Sys2Proof.Machine

/-! ## A HOST entry that waits is dropped (R66) -/

theorem dropHostWaiting_of_host {s : State} {n : Nat} {k : Key} {v : Option (List Byte)}
    (h : s.host.waiting = some (.host n k v)) :
    dropHostWaiting s = answer n .readOnlyMode .none (modStream .host (fun st => { st with waiting := none }) s) := by
  simp [dropHostWaiting, h]

theorem dropHostWaiting_of_other {s : State} (h : ∀ n k v, s.host.waiting ≠ some (.host n k v)) :
    dropHostWaiting s = s := by
  unfold dropHostWaiting
  split
  · next n k v hw => exact absurd hw (h n k v)
  · rfl

theorem dropHostWaiting_frame (s : State) : dropHostWaiting s = { s with
    host := { s.host with waiting := (dropHostWaiting s).host.waiting }
    link := { s.link with slots := (dropHostWaiting s).link.slots }
    engine := (dropHostWaiting s).engine } := by
  unfold dropHostWaiting; split <;> rfl

theorem dropHostWaiting_waiting {s : State} (h : ∀ e l, s.host.waiting ≠ some (.copy e l)) :
    (dropHostWaiting s).host.waiting = none := by
  unfold dropHostWaiting
  split
  · rfl
  · next hhost =>
    cases hw : s.host.waiting with
    | none => rfl
    | some w =>
      cases w with
      | host n k v => exact absurd hw (hhost n k v)
      | copy e l => exact absurd hw (h e l)

theorem slotAt_dropHostWaiting_same {s : State} {n : Nat} {k : Key} {v : Option (List Byte)}
    (h : s.host.waiting = some (.host n k v)) :
    slotAt n (dropHostWaiting s) = (slotAt n s).map (Slot.answered .readOnlyMode .none) := by
  rw [dropHostWaiting_of_host h, slotAt_answer, if_pos rfl]; rfl

theorem slotAt_dropHostWaiting_other {s : State} {n : Nat} (h : ∀ k v, s.host.waiting ≠ some (.host n k v)) :
    slotAt n (dropHostWaiting s) = slotAt n s := by
  unfold dropHostWaiting
  split
  · next m k v hw =>
    have hne : n ≠ m := fun e => h k v (e ▸ hw)
    rw [slotAt_answer, if_neg hne]; rfl
  · rfl

/-! ## An evacuation is abandoned (R107) -/

theorem Victim.evacuating_iff (v : Victim) : v.evacuating = true ↔ v.phase ≠ .erasing ∧ v.phase ≠ .header := by
  cases h : v.phase <;> simp [Victim.evacuating, h]

theorem abandonEvacuation_of_evacuating {s : State} {v : Victim} (hv : s.comp.victim = some v)
    (he : v.evacuating = true) :
    abandonEvacuation s = { fillSegment v.seg s with
      arr := s.arr.withdraw .relocate (fun c => c.origin == .compaction)
      comp := { s.comp with noGain := false, running := false, victim := none }
      reloc := { s.reloc with waiting := none } } := by
  simp only [abandonEvacuation, hv, he, if_true]; rfl

theorem abandonEvacuation_of_not {s : State} (h : ∀ v, s.comp.victim = some v → v.evacuating = false) :
    abandonEvacuation s = s := by
  unfold abandonEvacuation
  split
  · rfl
  · next v hv => rw [h v hv, if_neg Bool.false_ne_true]

/-- An evacuation in progress is abandoned, or nothing happens (R107, R109(1)). -/
theorem evacuating_or_not (s : State) : (∃ v, s.comp.victim = some v ∧ v.evacuating = true) ∨
    ∀ v, s.comp.victim = some v → v.evacuating = false := by
  cases hv : s.comp.victim with
  | none => exact .inr fun v h => by cases h
  | some v =>
    cases he : v.evacuating with
    | true => exact .inl ⟨v, rfl, he⟩
    | false => exact .inr fun w h => by cases h; exact he

theorem abandonEvacuation_frame (s : State) : abandonEvacuation s = { s with
    segs := (abandonEvacuation s).segs
    arr := (abandonEvacuation s).arr
    comp := { (abandonEvacuation s).comp with compacts := s.comp.compacts }
    reloc := { s.reloc with waiting := (abandonEvacuation s).reloc.waiting } } := by
  rcases evacuating_or_not s with ⟨v, hv, he⟩ | h
  · rw [abandonEvacuation_of_evacuating hv he]; rfl
  · rw [abandonEvacuation_of_not h]

/-- A victim that is kept is being erased (R109(1)). -/
theorem abandonEvacuation_victim {s : State} {v : Victim} (h : (abandonEvacuation s).comp.victim = some v) :
    s.comp.victim = some v ∧ v.evacuating = false := by
  rcases evacuating_or_not s with ⟨w, hw, he⟩ | hnot
  · rw [abandonEvacuation_of_evacuating hw he] at h; cases h
  · rw [abandonEvacuation_of_not hnot] at h; exact ⟨h, hnot v h⟩

theorem segAt_abandonEvacuation_other {s : State} {h : Nat} (hne : ∀ v, s.comp.victim = some v → v.seg ≠ h) :
    segAt h (abandonEvacuation s) = segAt h s := by
  rcases evacuating_or_not s with ⟨v, hv, he⟩ | hnot
  · rw [abandonEvacuation_of_evacuating hv he]
    exact (segAt_fillSegment h v.seg s).trans (if_neg (Ne.symm (hne v hv)))
  · rw [abandonEvacuation_of_not hnot]

/-! ## The held request and the COMPACTs are answered (R105, R93) -/

theorem slotAt_answerHeld (n : Nat) (st : Status) (s : State) : slotAt n (answerHeld st s) =
    if heldSlot s = some n then (slotAt n s).map (Slot.answered st .none) else slotAt n s := by
  unfold answerHeld
  split
  · next h => simp [h]
  · next m h => simp only [slotAt_answer, h, Option.some.injEq, eq_comm]

theorem answerHeld_frame (st : Status) (s : State) : answerHeld st s =
    { s with link := { s.link with slots := (answerHeld st s).link.slots }, engine := (answerHeld st s).engine } := by
  unfold answerHeld; split <;> rfl

theorem slotAt_answerCompacts (n : Nat) (st : Status) (s : State) : slotAt n (answerCompacts st s) =
    if n ∈ s.comp.compacts.map CompactWait.slot then (slotAt n s).map (Slot.answered st (.freeCount s.freeCount))
    else slotAt n s :=
  slotAt_answerAll ..

theorem answerCompacts_frame (st : Status) (s : State) : answerCompacts st s = { s with
    link := { s.link with slots := (answerCompacts st s).link.slots }
    engine := (answerCompacts st s).engine
    comp := { s.comp with compacts := [] } } := by
  unfold answerCompacts; dsimp only; rw [answerAll_frame]

/-- A slot that comes before every other HELD one stays so when another is answered (R105). -/
theorem heldSlot_answer {s : State} {m n : Nat} (hne : m ≠ n) (st : Status) (d : ReplyData)
    (h : heldSlot s = some n) : heldSlot (answer m st d s) = some n := by
  simp only [heldSlot, slotsWhere, answer_link] at h ⊢
  generalize s.link.slots = l at h ⊢
  induction l with
  | nil => cases h
  | cons p rest ih =>
    obtain ⟨j, sl⟩ := p
    have hanswered : (Slot.answered st d sl).state ≠ .held := by simp [Slot.answered]
    by_cases hheld : sl.state = .held
    · simp only [List.filter_cons, beq_iff_eq, hheld, if_true, List.map_cons, List.head?_cons, Option.some.injEq] at h
      subst h
      simp [Store.modify, Ne.symm hne, hheld]
    · simp only [List.filter_cons, beq_iff_eq, hheld, if_false] at h
      by_cases hj : j = m
      · simpa [Store.modify, hj, hanswered] using h
      · simpa [Store.modify, hj, hheld] using ih h

/-! ## What the entry touches -/

/-- The work of the entry into READ_ONLY brings `s` to `t`: the HOST stream loses at most its waiting entry, and a
stranded RELOCATE stream too. -/
structure EntryTouches (s t : State) : Prop where
  frame : t = { s with
    link := { s.link with slots := t.link.slots }
    engine := t.engine, segs := t.segs, arr := t.arr, comp := t.comp
    host := { s.host with waiting := t.host.waiting }, reloc := t.reloc }
  stranded : s.reloc.stranded = true → t.reloc = { s.reloc with waiting := t.reloc.waiting }

theorem EntryTouches.trans {s t u : State} (h1 : EntryTouches s t) (h2 : EntryTouches t u) : EntryTouches s u where
  frame := by
    refine h2.frame.trans ?_
    rw [h1.frame]
  stranded h := by
    have ht := h1.stranded h
    have hu := h2.stranded (by rw [ht]; exact h)
    rw [hu, ht]

theorem advancePage_timer (id : StreamId) (g page : Nat) (final : Bool) (s : State) :
    (advancePage id g page final s).commitTimer = s.commitTimer := by
  unfold advancePage closeOpen fillSegment
  (repeat' split) <;> cases id <;> rfl

theorem commitCause_relocate_timer (s : State) : (commitCause .relocate s).commitTimer = s.commitTimer := by
  rcases commitCause_cases .relocate s with e | e | ⟨g, p, hdest, _, e⟩
  · rw [e]
  · rw [e]; rfl
  · rw [e, commitNow_of_dest hdest]
    exact advancePage_timer .relocate g p _ _

theorem commitCause_relocate_touches (s : State) : EntryTouches s (commitCause .relocate s) where
  frame := by
    have h := (CommitTouches.commitCause .relocate s).frame
    rw [commitCause_relocate_timer] at h
    rw [h]
    rfl
  stranded h := by rw [commitCause_stranded (id := .relocate) h]

/-- The part of the entry before the answers to the held request and the COMPACTs (R66, R107, R51). -/
def relocationEnded (s : State) : State := commitCause .relocate (abandonEvacuation (dropHostWaiting s))

theorem relocationEnded_touches (s : State) : EntryTouches s (relocationEnded s) := by
  have hdrop : EntryTouches s (dropHostWaiting s) :=
    ⟨by rw [dropHostWaiting_frame], fun _ => by rw [dropHostWaiting_frame]⟩
  have habandon : EntryTouches (dropHostWaiting s) (abandonEvacuation (dropHostWaiting s)) :=
    ⟨by rw [abandonEvacuation_frame], fun _ => by rw [abandonEvacuation_frame]⟩
  exact hdrop.trans (habandon.trans (commitCause_relocate_touches _))

/-- The answers and the patrol's withdrawal leave the segments and the streams as they are (R93, R105, R123(3)). -/
theorem readOnlyEffects_frame (s : State) : readOnlyEffects s = { relocationEnded s with
    link := { (relocationEnded s).link with slots := (readOnlyEffects s).link.slots }
    engine := (readOnlyEffects s).engine
    arr := (relocationEnded s).arr.withdraw .patrol (fun c => c.origin == .patrolUnit)
    comp := { (relocationEnded s).comp with compacts := [] } } := by
  have h : readOnlyEffects s = withdrawOf .patrol .patrolUnit
    (answerCompacts .readOnlyMode (answerHeld .readOnlyMode (relocationEnded s))) := rfl
  rw [h, answerCompacts_frame, answerHeld_frame]
  rfl

theorem readOnlyEffects_touches (s : State) : EntryTouches s (readOnlyEffects s) := by
  refine (relocationEnded_touches s).trans ⟨?_, fun _ => ?_⟩
  · rw [readOnlyEffects_frame]
  · rw [readOnlyEffects_frame]

/-! ## The victim and the segments at the entry -/

theorem relocationEnded_victim (s : State) :
    (relocationEnded s).comp.victim = (abandonEvacuation (dropHostWaiting s)).comp.victim :=
  (CommitTouches.commitCause .relocate _).victim

/-- Only a victim in ERASING or HEADER is still there after the entry (R109(1)). -/
theorem readOnlyEffects_victim {s : State} {v : Victim} (h : (readOnlyEffects s).comp.victim = some v) :
    s.comp.victim = some v ∧ v.evacuating = false := by
  rw [readOnlyEffects_frame] at h
  obtain ⟨hv, he⟩ := abandonEvacuation_victim ((relocationEnded_victim s).symm.trans h)
  rw [dropHostWaiting_frame] at hv
  exact ⟨hv, he⟩

/-- Segment `h` is neither the victim nor open for the RELOCATE stream, and so none of the entry's business. -/
structure Uninvolved (h : Nat) (s : State) : Prop where
  openSeg : s.reloc.openSeg ≠ some h
  victim : ∀ v, s.comp.victim = some v → v.seg ≠ h

theorem segAt_relocationEnded_other {h : Nat} {s : State} (hs : Uninvolved h s) :
    segAt h (relocationEnded s) = segAt h s := by
  have hdrop : ∀ v, (dropHostWaiting s).comp.victim = some v → v.seg ≠ h := by
    rw [dropHostWaiting_frame]; exact hs.victim
  rw [relocationEnded, segAt_commitCause_other, segAt_abandonEvacuation_other hdrop, dropHostWaiting_frame]
  · rfl
  · rw [abandonEvacuation_frame, dropHostWaiting_frame]; exact hs.openSeg

theorem readOnlyEffects_uninvolved {h : Nat} {s : State} (hs : Uninvolved h s) :
    segAt h (readOnlyEffects s) = segAt h s ∧ Uninvolved h (readOnlyEffects s) := by
  refine ⟨?_, fun hopen => ?_, fun v hv => hs.victim v (readOnlyEffects_victim hv).1⟩
  · rw [readOnlyEffects_frame]
    exact segAt_relocationEnded_other hs
  · rw [readOnlyEffects_frame] at hopen
    have hbefore : (abandonEvacuation (dropHostWaiting s)).reloc.openSeg = s.reloc.openSeg := by
      rw [abandonEvacuation_frame, dropHostWaiting_frame]
    rcases commitCause_openSeg .relocate (abandonEvacuation (dropHostWaiting s)) with e | e
    · exact Option.some_ne_none h (hopen.symm.trans e)
    · exact hs.openSeg (hbefore.symm.trans (e.symm.trans hopen))

/-- A FULL segment stays FULL with its record, but for a stream and a next page that it should not have. -/
def KeepsFull (h : Nat) (s t : State) : Prop :=
  ∀ r, segAt h s = some r → r.state = .full → ∃ r', segAt h t = some r' ∧ r'.state = .full ∧
    r' = { r with stream := r'.stream, nextPage := r'.nextPage } ∧ (r.stream = none → r.nextPage = none → r' = r)

theorem KeepsFull.of_segAt {h : Nat} {s t : State} (e : segAt h t = segAt h s) : KeepsFull h s t :=
  fun r hr hfull => ⟨r, e.trans hr, hfull, rfl, fun _ _ => rfl⟩

theorem KeepsFull.trans {h : Nat} {s t u : State} (h1 : KeepsFull h s t) (h2 : KeepsFull h t u) : KeepsFull h s u := by
  intro r hr hfull
  obtain ⟨r1, hr1, hfull1, heq1, hsame1⟩ := h1 r hr hfull
  obtain ⟨r2, hr2, hfull2, heq2, hsame2⟩ := h2 r1 hr1 hfull1
  refine ⟨r2, hr2, hfull2, heq2.trans (by rw [heq1]), fun hstream hpage => ?_⟩
  have e := hsame1 hstream hpage
  rw [← e] at hstream hpage ⊢
  exact hsame2 hstream hpage

theorem SegRec.filled_eq {r : SegRec} (hfull : r.state = .full) (hstream : r.stream = none)
    (hpage : r.nextPage = none) : r.filled = r := by
  rw [filled, ← hfull, ← hstream, ← hpage]

theorem KeepsFull.fillSegment (h g : Nat) (s : State) : KeepsFull h s (fillSegment g s) := by
  intro r hr hfull
  rw [segAt_fillSegment, hr]
  split
  · exact ⟨r.filled, rfl, rfl, by rw [SegRec.filled, hfull], SegRec.filled_eq hfull⟩
  · exact ⟨r, rfl, hfull, rfl, fun _ _ => rfl⟩

theorem KeepsFull.abandonEvacuation (h : Nat) (s : State) : KeepsFull h s (abandonEvacuation s) := by
  rcases evacuating_or_not s with ⟨v, hv, he⟩ | hnot
  · rw [abandonEvacuation_of_evacuating hv he]
    exact KeepsFull.fillSegment h v.seg s
  · rw [abandonEvacuation_of_not hnot]
    exact .of_segAt rfl

theorem KeepsFull.closeOpen (h : Nat) (id : StreamId) (s : State) : KeepsFull h s (closeOpen id s) := by
  unfold Machine.closeOpen
  split
  · exact .of_segAt rfl
  · exact (KeepsFull.of_segAt (segAt_modStream ..)).trans (KeepsFull.fillSegment h _ _)

theorem KeepsFull.commitCause (h : Nat) (id : StreamId) (s : State) : KeepsFull h s (commitCause id s) := by
  rcases commitCause_cases id s with e | e | ⟨g, p, hdest, hstranded, e⟩
  · rw [e]; exact .of_segAt rfl
  · rw [e]; exact .of_segAt (segAt_modStream ..)
  · intro r hr hfull
    have hpage := (bufferDest_unstranded hdest hstranded).2
    rw [e, commitNow_of_dest hdest, segAt_claimProgram, segAt_stopTimer]
    generalize hu : modStream id (Stream.committed (committedPage id g p s)) s = u
    have hru : segAt h u = some r := by rw [← hu, segAt_modStream]; exact hr
    unfold advancePage
    split
    · exact KeepsFull.closeOpen h id u r hru hfull
    · rw [segAt_modSeg, hru]
      split
      · next hg =>
        subst hg
        rw [hr] at hpage
        refine ⟨_, rfl, hfull, rfl, fun _ hnone => ?_⟩
        rw [Option.bind_some, hnone] at hpage
        cases hpage
      · exact ⟨r, rfl, hfull, rfl, fun _ _ => rfl⟩

theorem KeepsFull.readOnlyEffects (h : Nat) (s : State) : KeepsFull h s (readOnlyEffects s) := by
  rw [readOnlyEffects_frame, relocationEnded]
  have hdrop : KeepsFull h s (dropHostWaiting s) := .of_segAt (by rw [dropHostWaiting_frame]; rfl)
  exact hdrop.trans ((KeepsFull.abandonEvacuation h _).trans (KeepsFull.commitCause h .relocate _))

/-- An abandoned victim is FULL again, no run goes on, and no copy waits (R107(a) to (c)). -/
theorem readOnlyEffects_abandons {s : State} {v : Victim} {r : SegRec} (hv : s.comp.victim = some v)
    (he : v.evacuating = true) (hr : segAt v.seg s = some r) :
    segState v.seg (readOnlyEffects s) = some .full ∧ (readOnlyEffects s).comp.running = false ∧
      (readOnlyEffects s).reloc.waiting = none := by
  have hdropped : (dropHostWaiting s).comp.victim = some v := by rw [dropHostWaiting_frame]; exact hv
  have hrecord : segAt v.seg (dropHostWaiting s) = some r := by rw [dropHostWaiting_frame]; exact hr
  have habandon := abandonEvacuation_of_evacuating hdropped he
  have hfilled : segAt v.seg (abandonEvacuation (dropHostWaiting s)) = some r.filled := by
    rw [habandon]
    refine (segAt_fillSegment v.seg v.seg (dropHostWaiting s)).trans ?_
    rw [if_pos rfl, hrecord]; rfl
  obtain ⟨r', hr', hfull, _⟩ := KeepsFull.commitCause v.seg .relocate _ _ hfilled rfl
  have hwaiting := commitCause_waiting .relocate (abandonEvacuation (dropHostWaiting s))
  rw [readOnlyEffects_frame]
  refine ⟨?_, ?_, ?_⟩
  · exact (congrArg (Option.map SegRec.state) hr').trans (congrArg some hfull)
  · have h := (CommitTouches.commitCause .relocate (abandonEvacuation (dropHostWaiting s))).frame
    rw [relocationEnded, h, habandon]
  · refine hwaiting.trans ?_
    rw [habandon]; rfl

/-- A RELOCATE buffer with entries is committed at the entry (R66, R51). -/
theorem readOnlyEffects_commits {s : State} {g p : Nat} (hstranded : s.reloc.stranded = false)
    (hbuffer : s.reloc.buffer ≠ []) (hflight : s.reloc.inFlight = none) (hdest : bufferDest .relocate s = some (g, p))
    (hvictim : ∀ v, s.comp.victim = some v → v.seg ≠ g) :
    (readOnlyEffects s).reloc.buffer = [] ∧ ∃ page tr,
      (readOnlyEffects s).reloc.inFlight = some ⟨g, p, page, tr⟩ ∧ ∀ x ∈ s.reloc.buffer, x ∈ page := by
  obtain ⟨hopen, hpage⟩ := bufferDest_unstranded (id := .relocate) hdest hstranded
  let t := abandonEvacuation (dropHostWaiting s)
  have ht : t.reloc = { s.reloc with waiting := t.reloc.waiting } := by
    have hdrop : (dropHostWaiting s).reloc = s.reloc := by rw [dropHostWaiting_frame]
    rw [← hdrop]
    exact congrArg State.reloc (abandonEvacuation_frame _)
  have hsegs : segAt g t = segAt g s := by
    have hdropped : ∀ v, (dropHostWaiting s).comp.victim = some v → v.seg ≠ g := by
      rw [dropHostWaiting_frame]; exact hvictim
    refine (segAt_abandonEvacuation_other hdropped).trans ?_
    rw [dropHostWaiting_frame]; rfl
  have hdest' : bufferDest .relocate t = some (g, p) :=
    bufferDest_of_open (by rw [streamOf, ht]; exact hopen) (by rw [streamOf, ht]; exact hstranded)
      (by rw [hsegs]; exact hpage)
  have hcommit := commitCause_commits (id := .relocate) (s := t) (by rw [streamOf, ht]; exact hstranded)
    (by rw [streamOf, ht]; exact hbuffer) (by rw [streamOf, ht]; exact hflight) hdest'
  rw [readOnlyEffects_frame]
  refine ⟨hcommit.1, _, _, hcommit.2, fun x hx => Stream.mem_padded ?_⟩
  rw [streamOf, ht]
  exact hx

/-! ## The claims at the entry (R77, R107(c), R123(3)) -/

/-- A commit makes no claim but its stream's (R51). -/
theorem commitCause_claims {id : StreamId} {s : State} {cls : ClaimClass} {x : Claim}
    (h : x ∈ (commitCause id s).arr.claimsOf cls) : x ∈ s.arr.claimsOf cls ∨ x.origin = streamOrigin id := by
  rcases commitCause_cases id s with e | e | ⟨g, p, hdest, _, e⟩
  · rw [e] at h; exact .inl h
  · rw [e] at h; cases id <;> exact .inl h
  · rw [e, commitNow_of_dest hdest] at h
    have harr (final : Bool) (u : State) : (stopTimer id (advancePage id g p final u)).arr = u.arr := by
      unfold advancePage closeOpen fillSegment
      cases id <;> (repeat' split) <;> rfl
    rcases ArrayCtl.mem_claimsOf_claim h with hx | rfl
    · rw [harr] at hx; cases id <;> exact .inl hx
    · exact .inr rfl

theorem readOnlyEffects_arr (s : State) : (readOnlyEffects s).arr =
    (commitCause .relocate (abandonEvacuation (dropHostWaiting s))).arr.withdraw .patrol
      (fun c => c.origin == .patrolUnit) := by
  rw [readOnlyEffects_frame]; rfl

theorem readOnlyEffects_engine_claims {s : State} {v : Victim} (hv : s.comp.victim = some v)
    (he : v.evacuating = true) {x : Claim} (hx : x ∈ (readOnlyEffects s).arr.claimsOf .relocate) :
    x.origin ≠ .compaction := by
  have hdropped : (dropHostWaiting s).comp.victim = some v := by rw [dropHostWaiting_frame]; exact hv
  rw [readOnlyEffects_arr] at hx
  rcases commitCause_claims (ArrayCtl.mem_claimsOf_withdraw hx).1 with hx | hx
  · rw [abandonEvacuation_of_evacuating hdropped he] at hx
    simpa using (ArrayCtl.mem_claimsOf_withdraw hx).2 rfl
  · rw [hx]; decide

theorem readOnlyEffects_patrol_claims {s : State} {x : Claim} (hx : x ∈ (readOnlyEffects s).arr.claimsOf .patrol) :
    x.origin ≠ .patrolUnit := by
  rw [readOnlyEffects_arr] at hx
  simpa using (ArrayCtl.mem_claimsOf_withdraw hx).2 rfl

/-! ## The slots at the entry -/

section
variable {s : State} {n : Nat}

theorem relocationEnded_slots (s : State) : (relocationEnded s).link.slots = (dropHostWaiting s).link.slots := by
  rw [relocationEnded, (CommitTouches.commitCause .relocate _).frame, abandonEvacuation_frame]

theorem slotAt_relocationEnded (n : Nat) (s : State) : slotAt n (relocationEnded s) = slotAt n (dropHostWaiting s) :=
  congrArg (Store.get n) (relocationEnded_slots s)

theorem heldSlot_relocationEnded (s : State) : heldSlot (relocationEnded s) = heldSlot (dropHostWaiting s) := by
  rw [heldSlot, slotsWhere, relocationEnded_slots]; rfl

/-- The slots at the entry: first the waiting entry's and the held request's answers, then the COMPACTs' (R66, R105,
R93). -/
theorem slotAt_readOnlyEffects (n : Nat) (s : State) : slotAt n (readOnlyEffects s) =
    let t := if heldSlot (dropHostWaiting s) = some n then
        (slotAt n (dropHostWaiting s)).map (Slot.answered .readOnlyMode .none)
      else slotAt n (dropHostWaiting s)
    if n ∈ s.comp.compacts.map CompactWait.slot then t.map (Slot.answered .readOnlyMode (.freeCount s.freeCount))
    else t := by
  have h : slotAt n (readOnlyEffects s) =
    slotAt n (answerCompacts .readOnlyMode (answerHeld .readOnlyMode (relocationEnded s))) := rfl
  have hcomp : (answerHeld .readOnlyMode (relocationEnded s)).comp.compacts = s.comp.compacts := by
    rw [answerHeld_frame, relocationEnded, (CommitTouches.commitCause .relocate _).frame, abandonEvacuation_frame,
      dropHostWaiting_frame]
  have hcount : (answerHeld .readOnlyMode (relocationEnded s)).freeCount = s.freeCount := by
    rw [answerHeld_frame, (relocationEnded_touches s).frame]
  rw [h, slotAt_answerCompacts, hcomp, hcount, slotAt_answerHeld, heldSlot_relocationEnded, slotAt_relocationEnded]

/-- Every COMPACT in the list is answered READ_ONLY_MODE with the free count, whatever its slot held (R93). -/
theorem slotAt_readOnlyEffects_compact (h : n ∈ s.comp.compacts.map CompactWait.slot) :
    slotAt n (readOnlyEffects s) = (slotAt n s).map (Slot.answered .readOnlyMode (.freeCount s.freeCount)) := by
  have hdrop : slotAt n (dropHostWaiting s) = slotAt n s ∨
      slotAt n (dropHostWaiting s) = (slotAt n s).map (Slot.answered .readOnlyMode .none) := by
    by_cases hw : ∃ k v, s.host.waiting = some (.host n k v)
    · obtain ⟨k, v, hw⟩ := hw
      exact .inr (slotAt_dropHostWaiting_same hw)
    · exact .inl (slotAt_dropHostWaiting_other fun k v hkv => hw ⟨k, v, hkv⟩)
  rw [slotAt_readOnlyEffects]
  dsimp only
  rw [if_pos h]
  rcases hdrop with e | e <;> rw [e] <;> split <;> simp [Function.comp_def, Slot.answered_answered]

/-- The request of a waiting HOST entry is answered READ_ONLY_MODE (R66). -/
theorem slotAt_readOnlyEffects_waiting {k : Key} {v : Option (List Byte)}
    (hn : n ∉ s.comp.compacts.map CompactWait.slot) (hw : s.host.waiting = some (.host n k v)) :
    slotAt n (readOnlyEffects s) = (slotAt n s).map (Slot.answered .readOnlyMode .none) := by
  rw [slotAt_readOnlyEffects]
  dsimp only
  rw [if_neg hn, slotAt_dropHostWaiting_same hw]
  split <;> simp [Function.comp_def, Slot.answered_answered]

/-- The held request is answered READ_ONLY_MODE (R105). -/
theorem slotAt_readOnlyEffects_held (hn : n ∉ s.comp.compacts.map CompactWait.slot) (hheld : heldSlot s = some n) :
    slotAt n (readOnlyEffects s) = (slotAt n s).map (Slot.answered .readOnlyMode .none) := by
  by_cases hw : ∃ k v, s.host.waiting = some (.host n k v)
  · obtain ⟨k, v, hw⟩ := hw
    exact slotAt_readOnlyEffects_waiting hn hw
  · have hother : ∀ k v, s.host.waiting ≠ some (.host n k v) := fun k v hkv => hw ⟨k, v, hkv⟩
    have hfirst : heldSlot (dropHostWaiting s) = some n := by
      unfold dropHostWaiting
      split
      · next m k v hm =>
        have hne : m ≠ n := fun e => hother k v (e ▸ hm)
        exact heldSlot_answer hne _ _ hheld
      · exact hheld
    rw [slotAt_readOnlyEffects]
    dsimp only
    rw [if_neg hn, if_pos hfirst, slotAt_dropHostWaiting_other hother]

/-- No other request is answered at the entry. -/
theorem slotAt_readOnlyEffects_other {sl : Slot} (hs : Store.Canonical s.link.slots) (hsl : slotAt n s = some sl)
    (hn : n ∉ s.comp.compacts.map CompactWait.slot) (hw : ∀ k v, s.host.waiting ≠ some (.host n k v))
    (hheld : sl.state ≠ .held) : slotAt n (readOnlyEffects s) = some sl := by
  have hdropped : slotAt n (dropHostWaiting s) = some sl := (slotAt_dropHostWaiting_other hw).trans hsl
  have hfirst : heldSlot (dropHostWaiting s) ≠ some n := fun h => by
    obtain ⟨x, hx, hxheld⟩ := slotAt_heldSlot (slotsCanonical_stable.keeps_dropHostWaiting hs) h
    rw [hdropped] at hx
    cases hx
    exact hheld hxheld
  rw [slotAt_readOnlyEffects]
  dsimp only
  rw [if_neg hn, if_neg hfirst, hdropped]

end

/-! ## A cause that is reported (R156) -/

theorem reportCause_cases (c : Cause) (s : State) :
    (s.startup.mode = .ready ∧ reportCause c s = enterReadOnly c s) ∨
    (s.startup.mode ≠ .ready ∧ (reportCause c s = s ∨
      reportCause c s = { s with startup := { s.startup with pendingCause := some c } })) := by
  unfold reportCause
  split
  · next h => exact .inl ⟨h, rfl⟩
  · next h => exact .inr ⟨by rw [h]; decide, by split <;> simp⟩
  · next h => exact .inr ⟨by rw [h]; decide, by split <;> simp⟩
  · next h _ _ => exact .inr ⟨h, .inl rfl⟩

theorem enterReadOnly_uninvolved {h : Nat} {s : State} (c : Cause) (hs : Uninvolved h s) :
    segAt h (enterReadOnly c s) = segAt h s ∧ Uninvolved h (enterReadOnly c s) :=
  readOnlyEffects_uninvolved (s := changeMode .readOnly (some c) s) ⟨hs.openSeg, hs.victim⟩

theorem reportCause_uninvolved {h : Nat} {s : State} (c : Cause) (hs : Uninvolved h s) :
    segAt h (reportCause c s) = segAt h s ∧ Uninvolved h (reportCause c s) := by
  rcases reportCause_cases c s with ⟨_, e⟩ | ⟨_, e | e⟩
  · rw [e]; exact enterReadOnly_uninvolved c hs
  · rw [e]; exact ⟨rfl, hs⟩
  · rw [e]; exact ⟨rfl, hs.openSeg, hs.victim⟩

end Sys2Proof.Machine


/-! # The end of the Compaction Engine's erase, and the segment that becomes FREE (R30, R40, R42, R74, R93, R104) -/

namespace Sys2Proof.Machine

/-! ## The end of a program and of an erase (R73, R74, R80) -/

theorem exec_programCompletion {s : State} {o : Originator} {g p : Nat} {data : PageData} (hheld : isHeld s = false)
    (hop : s.arr.op = some (.program o g p data)) (ok : Bool) : exec (.programCompletion ok) s =
      .next (settleAfterOp (programOriginator o ok (setPage g p data (programQuality ok) (startOp none s)))) := by
  simp [exec, execProgramCompletion, whileRunning, hheld, programCompletionStep, hop, programEnds]

theorem exec_eraseCompletion {s : State} {e : EraseRun} (hheld : isHeld s = false) (hop : s.arr.op = some (.erase e))
    (ok : Bool) : exec (.eraseCompletion ok) s =
      .next (settleAfterOp (eraseOriginator e.origin ok (eraseLeaves ok e.seg (startOp none s)))) := by
  simp [exec, execEraseCompletion, whileRunning, hheld, eraseCompletionStep, hop, eraseEnds]

section
variable (ok : Bool) (g : Nat) (s : State)

@[simp] theorem eraseLeaves_segs : (eraseLeaves ok g s).segs = s.segs := by
  cases ok <;> simp [eraseLeaves, spoilSegment]
@[simp] theorem eraseLeaves_comp : (eraseLeaves ok g s).comp = s.comp := by
  cases ok <;> simp [eraseLeaves, spoilSegment]
@[simp] theorem eraseLeaves_reloc : (eraseLeaves ok g s).reloc = s.reloc := by
  cases ok <;> simp [eraseLeaves, spoilSegment]

end

/-- What an erase that failed leaves of a page (R74(2)). -/
theorem spoiled_eraseFailed (page : Option StoredPage) : spoiled Quality.eraseFailed page = match page with
    | none => ⟨none, .halfErased⟩
    | some x => ⟨x.data, if x.quality = .sound ∨ x.quality = .unknown then .unknown else .halfErased⟩ := by
  cases page with
  | none => rfl
  | some x => obtain ⟨d, q⟩ := x; cases q <;> rfl

/-! ## The erase OK (R40(1), R104(1)) -/

/-- The victim's erase count rises, its phase is HEADER and the header is claimed (R40(1), R104(1)). -/
theorem engineErased_ok {s : State} {v : Victim} {r : SegRec} (hv : s.comp.victim = some v)
    (hr : segAt v.seg s = some r) : engineErased true s =
      makeClaim .relocate .compaction
        (.program v.seg 0 (segHeader (erasedCount r.eraseCount) r.strikes s.cat.formatStamp))
        (victimIs { v with phase := .header }
          (modSeg v.seg (fun r => { r with eraseCount := erasedCount r.eraseCount }) s)) := by
  have hraised : segAt v.seg (modSeg v.seg (fun r => { r with eraseCount := erasedCount r.eraseCount }) s) =
      some { r with eraseCount := erasedCount r.eraseCount } := by
    rw [segAt_modSeg, if_pos rfl, hr]; rfl
  have hvictim : (modSeg v.seg (fun r => { r with eraseCount := erasedCount r.eraseCount }) s).comp.victim = some v := hv
  simp only [engineErased, hv, if_true, engineErasedOk, hraised, modVictim_eq hvictim]

/-! ## The decision whether a run goes on, seen from a segment that is not FULL (R92) -/

theorem leastBy_mem {before : SegRec → SegRec → Bool} {l : List (Nat × SegRec)} {p : Nat × SegRec}
    (h : leastBy before l = some p) : p ∈ l := by
  induction l generalizing p with
  | nil => cases h
  | cons q rest ih =>
    unfold leastBy at h
    split at h
    · cases h; exact List.mem_cons_self
    · next best hbest =>
      split at h
      · cases h; exact List.mem_cons_self
      · cases h; exact List.mem_cons_of_mem _ (ih hbest)

theorem mem_fullSegs {s : State} (hs : Store.Canonical s.segs) {p : Nat × SegRec} :
    p ∈ fullSegs s ↔ segAt p.1 s = some p.2 ∧ p.2.state = .full := by
  simp only [fullSegs, List.mem_filter, beq_iff_eq]
  exact ⟨fun ⟨hmem, hfull⟩ => ⟨Store.get_of_mem hs hmem, hfull⟩, fun ⟨hget, hfull⟩ => ⟨Store.mem_of_get hget, hfull⟩⟩

theorem segState_firstMember {s : State} {g : Nat} (h : firstMember s = some g) : segState g s = some .full := by
  have he : eligible s g = true := List.find?_some h
  simp only [eligible, Bool.and_eq_true, beq_iff_eq] at he
  exact he.1

theorem segState_gainVictim {s : State} (hs : Store.Canonical s.segs) {g : Nat} (h : gainVictim s = some g) :
    segState g s = some .full := by
  unfold gainVictim at h
  split at h
  · cases h
  · next k r hleast =>
    split at h
    · cases h
      obtain ⟨hrec, hfull⟩ := (mem_fullSegs hs).mp (List.mem_of_mem_filter (leastBy_mem hleast))
      rw [segState, hrec]
      exact congrArg some hfull
    · cases h

/-- A run ends, goes on with a FULL segment, or ends with no gain (R92). -/
theorem runDecision_cases {s : State} (hs : Store.Canonical s.segs) : runDecision s = endRun s ∨
    (∃ h, segState h s = some .full ∧ runDecision s = beginEvacuation h s) ∨ runDecision s = endNoGain s := by
  unfold runDecision
  split
  · exact .inl rfl
  · split
    · next h hmember => exact .inr (.inl ⟨h, segState_firstMember hmember, rfl⟩)
    · split
      · exact .inl rfl
      · split
        · next h hgain => exact .inr (.inl ⟨h, segState_gainVictim hs hgain, rfl⟩)
        · exact .inr (.inr rfl)

theorem reportCondemned_cases (g : Nat) (s : State) : reportCondemned g s = s ∨
    reportCondemned g s = addWaiter (.segment g) s ∨ reportCondemned g s = reportCause .retiredListFull s := by
  unfold reportCondemned
  split
  · exact .inl rfl
  · split
    · split
      · exact .inl rfl
      · exact .inr (.inl rfl)
    · exact .inr (.inr rfl)

theorem heldMediaFull_frame (s : State) : heldMediaFull s =
    { s with link := { s.link with slots := (heldMediaFull s).link.slots }, engine := (heldMediaFull s).engine } := by
  unfold heldMediaFull
  split
  · rfl
  · exact answerHeld_frame ..

theorem endNoGain_frame (s : State) : endNoGain s = { s with
    link := { s.link with slots := (endNoGain s).link.slots }
    engine := (endNoGain s).engine
    comp := { s.comp with running := false, victim := none, noGain := true, compacts := [] } } := by
  unfold endNoGain
  rw [answerCompacts_frame, heldMediaFull_frame]
  rfl

/-- A segment that the engine's run is not about: its record stands, and neither the victim nor the RELOCATE stream has
it. -/
structure SetAside (g : Nat) (x : SegRec) (s : State) : Prop where
  record : segAt g s = some x
  uninvolved : Uninvolved g s

theorem reportCause_setAside {g : Nat} {x : SegRec} {s : State} (c : Cause) (h : SetAside g x s) :
    SetAside g x (reportCause c s) := by
  obtain ⟨hrec, hun⟩ := reportCause_uninvolved c h.uninvolved
  exact ⟨hrec.trans h.record, hun⟩

theorem endRun_setAside {g : Nat} {x : SegRec} {s : State} (h : SetAside g x s) : SetAside g x (endRun s) :=
  ⟨h.record, h.uninvolved.openSeg, fun _ hv => by cases hv⟩

theorem reportCondemned_setAside {g : Nat} {x : SegRec} {s : State} (h : SetAside g x s) :
    SetAside g x (reportCondemned g s) := by
  rcases reportCondemned_cases g s with e | e | e
  · rw [e]; exact h
  · rw [e]; exact ⟨h.record, h.uninvolved.openSeg, h.uninvolved.victim⟩
  · rw [e]; exact reportCause_setAside _ h

/-- A segment that is not FULL is not what the run goes on with (R92, R94). -/
theorem runDecision_setAside {g : Nat} {x : SegRec} {s : State} (hs : Store.Canonical s.segs) (hx : x.state ≠ .full)
    (h : SetAside g x s) : SetAside g x (runDecision s) := by
  rcases runDecision_cases hs with e | ⟨k, hfull, e⟩ | e
  · rw [e]; exact endRun_setAside h
  · have hne : g ≠ k := fun hg => by
      rw [← hg, segState, h.record] at hfull
      exact hx (Option.some.inj hfull)
    rw [e]
    unfold beginEvacuation
    split
    · refine ⟨?_, h.uninvolved.openSeg, fun v hv => ?_⟩
      · refine Eq.trans ?_ h.record
        exact Store.get_modify_other hne ..
      · cases hv; exact Ne.symm hne
    · exact reportCause_setAside _ (endRun_setAside h)
  · rw [e, endNoGain_frame]
    exact ⟨h.record, h.uninvolved.openSeg, fun _ hv => by cases hv⟩

/-! ## The erase FAIL (R40(3), R104(3)) -/

/-- The record of a CONDEMNED segment (R39(2), R40(3)). -/
def SegRec.condemnedFor (c : CondemnCause) (r : SegRec) : SegRec :=
  { r with state := .condemned, live := 0, cause := some c }

/-- The victim's segment is CONDEMNED with ERASE_FAULT, and it is the victim no more (R40(3)). -/
theorem engineErased_fails {s : State} {v : Victim} {r : SegRec} (hs : Store.Canonical s.segs)
    (hv : s.comp.victim = some v) (hr : segAt v.seg s = some r) (hopen : s.reloc.openSeg ≠ some v.seg) :
    SetAside v.seg (SegRec.condemnedFor .eraseFault r) (engineErased false s) := by
  let t := modSeg v.seg (SegRec.condemnedFor .eraseFault) (modComp (fun c => { c with victim := none }) s)
  have ht : engineErased false s = runDecision (reportCondemned v.seg t) := by
    simp only [engineErased, hv, Bool.false_eq_true, if_false]; rfl
  have haside : SetAside v.seg (SegRec.condemnedFor .eraseFault r) t := by
    refine ⟨?_, hopen, fun _ h => by cases h⟩
    refine (segAt_modSeg ..).trans ?_
    rw [if_pos rfl]
    exact congrArg (Option.map _) hr
  have hsegs : Store.Canonical (reportCondemned v.seg t).segs :=
    segsCanonical_stable.keeps_reportCondemned _ (segsCanonical_stable.keeps_modSeg _ _ hs)
  have hcondemned : (SegRec.condemnedFor .eraseFault r).state ≠ .full := fun h => by cases h
  rw [ht]
  exact runDecision_setAside hsegs hcondemned (reportCondemned_setAside haside)

theorem engineErased_fails_flash {s : State} {v : Victim} (hv : s.comp.victim = some v) :
    (engineErased false s).flash = s.flash := by
  have h := flash_stable s.flash
  simp only [engineErased, hv, Bool.false_eq_true, if_false, engineEraseFault, fateEnded, condemn]
  exact h.keeps_runDecision (h.keeps_reportCondemned _ (h.keeps_modSeg _ _ (h.keeps_modComp _ rfl)))

/-! ## The free count rises (R30, R93) -/

theorem answerReached_frame (s : State) : answerReached s = { s with
    link := { s.link with slots := (answerReached s).link.slots }
    engine := (answerReached s).engine
    comp := { s.comp with compacts := s.comp.compacts.filter (fun c => decide (s.freeCount < c.target)) } } := by
  unfold answerReached
  dsimp only
  rw [answerAll_frame]
  rfl

/-- The slot of every COMPACT whose target is reached is answered OK with the free count (R93). -/
theorem slotAt_answerReached {s : State} {c : CompactWait} (hc : c ∈ s.comp.compacts) (hreached : c.target ≤ s.freeCount) :
    slotAt c.slot (answerReached s) = (slotAt c.slot s).map (Slot.answered .ok (.freeCount s.freeCount)) := by
  have hmem : c.slot ∈ (s.comp.compacts.filter (fun c => decide (c.target ≤ s.freeCount))).map CompactWait.slot :=
    List.mem_map.mpr ⟨c, List.mem_filter.mpr ⟨hc, decide_eq_true hreached⟩, rfl⟩
  exact (slotAt_answerAll ..).trans (if_pos hmem)

/-- A segment made FREE with the free count and the COMPACTs it reaches, before the wear-spread check (R40(2), R30, R93,
R106(3)). -/
def segmentMadeFree (g : Nat) (s : State) : State :=
  modComp (fun c => { c with noGain := false }) (freeCountRises (modSeg g SegRec.freed s))

theorem segmentFreed_eq (g : Nat) (s : State) : segmentFreed g s = wearSpreadCheck (segmentMadeFree g s) := rfl

theorem segmentMadeFree_frame (g : Nat) (s : State) : segmentMadeFree g s = { s with
    segs := Store.modify g SegRec.freed s.segs
    freeCount := s.freeCount + 1
    lowFree := s.lowFree && decide (s.freeCount + 1 ≤ 4)
    link := { s.link with slots := (segmentMadeFree g s).link.slots }
    engine := (segmentMadeFree g s).engine
    comp := { s.comp with
      noGain := false, compacts := s.comp.compacts.filter (fun c => decide (s.freeCount + 1 < c.target)) } } := by
  unfold segmentMadeFree freeCountRises
  rw [answerReached_frame]
  rfl

theorem segAt_segmentMadeFree (h g : Nat) (s : State) :
    segAt h (segmentMadeFree g s) = if h = g then (segAt h s).map SegRec.freed else segAt h s := by
  rw [segmentMadeFree_frame]
  exact segAt_modSeg h g SegRec.freed s

/-! ## The wear-spread check (R42) -/

/-- A FULL segment queued with WEAR (R42, R87). -/
def wearQueued (h : Nat) (s : State) : State :=
  { s with segs := Store.modify h (fun r => { r with reason := some .wear }) s.segs, ordinary := s.ordinary ++ [h] }

/-- A FULL segment without a reason joins its part of the queue (R87). -/
theorem refreshArrival_joins {g : Nat} {s : State} {r : SegRec} (hr : segAt g s = some r) (hfull : r.state = .full)
    (hnone : r.reason = none) (q : RefreshReason) : refreshArrival g q s = joinQueue g q (setReason g q s) := by
  simp [refreshArrival, hr, hfull, hnone]

theorem lt_highestOf_iff {n : Nat} {l : List Nat} : n < (highestOf l).getD 0 ↔ ∃ m ∈ l, n < m := by
  induction l with
  | nil => simp [highestOf]
  | cons a rest ih =>
    cases h : highestOf rest with
    | none =>
      have hnone : ¬ ∃ m ∈ rest, n < m := by rw [← ih, h]; exact Nat.not_lt_zero n
      simp [highestOf, h, hnone]
    | some b =>
      rw [h] at ih
      simp only [highestOf, h, Option.getD_some, lt_max_iff, List.mem_cons, exists_eq_or_imp] at ih ⊢
      rw [ih]

/-- The wear spread between a record and the most worn FREE or FULL one exceeds the limit (R42). -/
theorem wearSpread_iff {s : State} (hs : Store.Canonical s.segs) (n : Nat) : Config.wearLimit < highestWear s - n ↔
    ∃ i y, segAt i s = some y ∧ (y.state = .free ∨ y.state = .full) ∧ 2000 + n < y.eraseCount := by
  have hlt : Config.wearLimit < highestWear s - n ↔ 2000 + n < highestWear s := by
    rw [Config.wearLimit]; omega
  rw [hlt, highestWear, lt_highestOf_iff]
  simp only [List.mem_map, List.mem_filter, Bool.or_eq_true, beq_iff_eq]
  constructor
  · rintro ⟨_, ⟨⟨i, y⟩, ⟨hmem, hstate⟩, rfl⟩, hworn⟩
    exact ⟨i, y, Store.get_of_mem hs hmem, hstate, hworn⟩
  · rintro ⟨i, y, hget, hstate, hworn⟩
    exact ⟨_, ⟨(i, y), ⟨Store.mem_of_get hget, hstate⟩, rfl⟩, hworn⟩

theorem leastBy_eq_none_iff {before : SegRec → SegRec → Bool} {l : List (Nat × SegRec)} :
    leastBy before l = none ↔ l = [] := by
  cases l with
  | nil => simp [leastBy]
  | cons p rest =>
    simp only [leastBy, reduceCtorEq, iff_false]
    split
    · simp
    · split <;> simp

/-- The first of the least worn records of a table in order (R42). -/
theorem leastBy_lessWorn {l : List (Nat × SegRec)} (hl : Store.Canonical l) {g : Nat} {r : SegRec}
    (h : leastBy SegRec.lessWorn l = some (g, r)) {k : Nat} {x : SegRec} (hx : (k, x) ∈ l) :
    r.eraseCount < x.eraseCount ∨ (r.eraseCount = x.eraseCount ∧ g ≤ k) := by
  induction l generalizing g r with
  | nil => cases hx
  | cons p rest ih =>
    obtain ⟨a, y⟩ := p
    simp only [Store.Canonical, List.map_cons, List.pairwise_cons] at hl
    obtain ⟨hfirst, hrest⟩ := hl
    have hafter : ∀ q ∈ rest, a < q.1 := fun q hq => hfirst q.1 (List.mem_map.mpr ⟨q, hq, rfl⟩)
    cases hbest : leastBy SegRec.lessWorn rest with
    | none =>
      rw [leastBy_eq_none_iff.mp hbest] at h hx
      cases h
      cases List.mem_singleton.mp hx
      exact .inr ⟨rfl, Nat.le_refl _⟩
    | some best =>
      obtain ⟨b, z⟩ := best
      have hb : a < b := hafter _ (leastBy_mem hbest)
      simp only [leastBy, hbest, SegRec.lessWorn, decide_eq_true_eq] at h
      split at h
      · next hle =>
        cases h
        rcases List.mem_cons.mp hx with hx | hx
        · cases hx; exact .inr ⟨rfl, Nat.le_refl _⟩
        · have hk := hafter _ hx
          rcases ih hrest hbest hx with hlt | ⟨heq, _⟩ <;> omega
      · next hlt =>
        cases h
        rcases List.mem_cons.mp hx with hx | hx
        · cases hx; exact .inl (Nat.lt_of_not_le hlt)
        · exact ih hrest hbest hx

theorem wearSpreadCheck_formatting {s : State} (h : s.startup.mode = .formatting) : wearSpreadCheck s = s := by
  simp [wearSpreadCheck, h]

theorem wearSpreadCheck_no_full {s : State} (hs : Store.Canonical s.segs)
    (h : ∀ g x, segAt g s = some x → x.state ≠ .full) : wearSpreadCheck s = s := by
  have hempty : fullSegs s = [] := List.eq_nil_iff_forall_not_mem.mpr fun p hp => by
    obtain ⟨hget, hfull⟩ := (mem_fullSegs hs).mp hp
    exact h p.1 p.2 hget hfull
  simp [wearSpreadCheck, hempty, leastBy]

/-- The check by the least worn FULL segment `g` (R42). -/
theorem wearSpreadCheck_least {s : State} (hs : Store.Canonical s.segs) (hmode : s.startup.mode ≠ .formatting)
    {g : Nat} {x : SegRec} (hx : segAt g s = some x) (hfull : x.state = .full)
    (hleast : ∀ i y, segAt i s = some y → y.state = .full →
      x.eraseCount < y.eraseCount ∨ (x.eraseCount = y.eraseCount ∧ g ≤ i)) :
    (Config.wearLimit < highestWear s - x.eraseCount → x.reason = none → wearSpreadCheck s = wearQueued g s) ∧
    (¬ Config.wearLimit < highestWear s - x.eraseCount ∨ x.reason ≠ none → wearSpreadCheck s = s) := by
  have hmem : (g, x) ∈ fullSegs s := (mem_fullSegs hs).mpr ⟨hx, hfull⟩
  have hfound : leastBy SegRec.lessWorn (fullSegs s) = some (g, x) := by
    cases hl : leastBy SegRec.lessWorn (fullSegs s) with
    | none => rw [leastBy_eq_none_iff.mp hl] at hmem; cases hmem
    | some p =>
      obtain ⟨k, y⟩ := p
      obtain ⟨hy, hyfull⟩ := (mem_fullSegs hs).mp (leastBy_mem hl)
      have hbelow := leastBy_lessWorn (Store.canonical_filter hs) hl hmem
      have habove := hleast k y hy hyfull
      have hkg : k = g := by omega
      subst hkg
      exact congrArg (fun z => some (k, z)) (Option.some.inj (hy.symm.trans hx))
  have hcheck : wearSpreadCheck s = if Config.wearLimit < highestWear s - x.eraseCount ∧ x.reason = none then
      refreshArrival g .wear s else s := by
    simp only [wearSpreadCheck, if_neg hmode, hfound]
  refine ⟨fun hwide hnone => ?_, fun hnot => ?_⟩
  · rw [hcheck, if_pos ⟨hwide, hnone⟩, refreshArrival_joins hx hfull hnone]; rfl
  · rw [hcheck, if_neg]
    rintro ⟨hwide, hnone⟩
    exact hnot.elim (fun h => h hwide) (fun h => h hnone)

/-- The check queues a FULL segment without a reason, or nothing (R42). -/
theorem wearSpreadCheck_cases {s : State} (hs : Store.Canonical s.segs) : wearSpreadCheck s = s ∨
    ∃ h x, segAt h s = some x ∧ x.state = .full ∧ wearSpreadCheck s = wearQueued h s := by
  by_cases hmode : s.startup.mode = .formatting
  · exact .inl (wearSpreadCheck_formatting hmode)
  · cases hl : leastBy SegRec.lessWorn (fullSegs s) with
    | none => exact .inl (by simp only [wearSpreadCheck, if_neg hmode, hl])
    | some p =>
      obtain ⟨g, x⟩ := p
      obtain ⟨hx, hfull⟩ := (mem_fullSegs hs).mp (leastBy_mem hl)
      have hleast : ∀ i y, segAt i s = some y → y.state = .full →
          x.eraseCount < y.eraseCount ∨ (x.eraseCount = y.eraseCount ∧ g ≤ i) := fun i y hy hyfull =>
        leastBy_lessWorn (Store.canonical_filter hs) hl ((mem_fullSegs hs).mpr ⟨hy, hyfull⟩)
      obtain ⟨hqueues, hleaves⟩ := wearSpreadCheck_least hs hmode hx hfull hleast
      by_cases hwide : Config.wearLimit < highestWear s - x.eraseCount ∧ x.reason = none
      · exact .inr ⟨g, x, hx, hfull, hqueues hwide.1 hwide.2⟩
      · exact .inl (hleaves (not_and_or.mp hwide))

theorem segAt_wearQueued (i h : Nat) (s : State) : segAt i (wearQueued h s) =
    if i = h then (segAt i s).map (fun r => { r with reason := some .wear }) else segAt i s :=
  segAt_modSeg ..

/-! ## The segment that becomes FREE -/

section
variable {s : State} {g : Nat} {r : SegRec}

/-- Whatever the check finds: the freed record, the counts, the COMPACTs and the urgent part of the queue. -/
theorem segmentFreed_frees (hs : Store.Canonical s.segs) (hr : segAt g s = some r) :
    segAt g (segmentFreed g s) = some r.freed ∧ ∃ segs ordinary,
      segmentFreed g s = { segmentMadeFree g s with segs := segs, ordinary := ordinary } := by
  have hfree : segAt g (segmentMadeFree g s) = some r.freed := by
    rw [segAt_segmentMadeFree, if_pos rfl, hr]; rfl
  have hcanonical : Store.Canonical (segmentMadeFree g s).segs := by
    rw [segmentMadeFree_frame]; exact Store.canonical_modify hs
  rw [segmentFreed_eq]
  rcases wearSpreadCheck_cases hcanonical with e | ⟨h, x, hx, hfull, e⟩
  · rw [e]; exact ⟨hfree, _, _, rfl⟩
  · have hne : g ≠ h := fun hg => by
      rw [← hg, hfree] at hx
      cases hx
      cases hfull
    rw [e, segAt_wearQueued, if_neg hne]
    exact ⟨hfree, _, _, rfl⟩

theorem segmentFreed_compact_slot (hs : Store.Canonical s.segs) (hr : segAt g s = some r) {c : CompactWait}
    (hc : c ∈ s.comp.compacts) (hreached : c.target ≤ s.freeCount + 1) {sl : Slot} (hsl : slotAt c.slot s = some sl) :
    slotAt c.slot (segmentFreed g s) = some (Slot.answered .ok (.freeCount (s.freeCount + 1)) sl) := by
  obtain ⟨-, segs, ordinary, e⟩ := segmentFreed_frees hs hr
  let t : State := { modSeg g SegRec.freed s with
    freeCount := s.freeCount + 1, lowFree := s.lowFree && decide (s.freeCount + 1 ≤ Config.hostReserve) }
  have hslot : slotAt c.slot (answerReached t) = some (Slot.answered .ok (.freeCount (s.freeCount + 1)) sl) := by
    rw [slotAt_answerReached (s := t) hc hreached, show slotAt c.slot t = some sl from hsl]; rfl
  rw [e]
  exact hslot

/-- The check after a segment is freed, by the least worn FULL segment `h` of the others (R42). -/
theorem segmentFreed_least (hs : Store.Canonical s.segs) (hr : segAt g s = some r)
    (hmode : s.startup.mode ≠ .formatting) {h : Nat} {x : SegRec} (hne : h ≠ g) (hx : segAt h s = some x)
    (hfull : x.state = .full)
    (hleast : ∀ i y, i ≠ g → segAt i s = some y → y.state = .full →
      x.eraseCount < y.eraseCount ∨ (x.eraseCount = y.eraseCount ∧ h ≤ i)) :
    let wide := 2000 + x.eraseCount < r.eraseCount ∨
      ∃ i y, i ≠ g ∧ segAt i s = some y ∧ (y.state = .free ∨ y.state = .full) ∧ 2000 + x.eraseCount < y.eraseCount
    (wide → x.reason = none → segmentFreed g s = wearQueued h (segmentMadeFree g s)) ∧
    (¬ wide ∨ x.reason ≠ none → segmentFreed g s = segmentMadeFree g s) := by
  intro wide
  have hcanonical : Store.Canonical (segmentMadeFree g s).segs := by
    rw [segmentMadeFree_frame]; exact Store.canonical_modify hs
  have hself : segAt g (segmentMadeFree g s) = some r.freed := by
    rw [segAt_segmentMadeFree, if_pos rfl, hr]; rfl
  have hother (i : Nat) (hi : i ≠ g) : segAt i (segmentMadeFree g s) = segAt i s := by
    rw [segAt_segmentMadeFree, if_neg hi]
  have hmode' : (segmentMadeFree g s).startup.mode ≠ .formatting := by rw [segmentMadeFree_frame]; exact hmode
  have hleast' : ∀ i y, segAt i (segmentMadeFree g s) = some y → y.state = .full →
      x.eraseCount < y.eraseCount ∨ (x.eraseCount = y.eraseCount ∧ h ≤ i) := fun i y hy hyfull => by
    by_cases hi : i = g
    · rw [hi, hself] at hy
      cases hy
      cases hyfull
    · exact hleast i y hi ((hother i hi).symm.trans hy) hyfull
  have hwide : Config.wearLimit < highestWear (segmentMadeFree g s) - x.eraseCount ↔ wide := by
    rw [wearSpread_iff hcanonical]
    constructor
    · rintro ⟨i, y, hy, hstate, hworn⟩
      by_cases hi : i = g
      · rw [hi, hself] at hy
        cases hy
        exact .inl hworn
      · exact .inr ⟨i, y, hi, (hother i hi).symm.trans hy, hstate, hworn⟩
    · rintro (hworn | ⟨i, y, hi, hy, hstate, hworn⟩)
      · exact ⟨g, r.freed, hself, .inl rfl, hworn⟩
      · exact ⟨i, y, (hother i hi).trans hy, hstate, hworn⟩
  have hcheck := wearSpreadCheck_least hcanonical hmode' ((hother h hne).trans hx) hfull hleast'
  rwa [hwide] at hcheck

/-- Nothing is queued in FORMATTING and where no other segment is FULL (R42, R43). -/
theorem segmentFreed_unqueued (hs : Store.Canonical s.segs) (hr : segAt g s = some r)
    (h : s.startup.mode = .formatting ∨ ∀ i y, i ≠ g → segAt i s = some y → y.state ≠ .full) :
    segmentFreed g s = segmentMadeFree g s := by
  rw [segmentFreed_eq]
  rcases h with hmode | hnone
  · exact wearSpreadCheck_formatting (by rw [segmentMadeFree_frame]; exact hmode)
  · refine wearSpreadCheck_no_full (by rw [segmentMadeFree_frame]; exact Store.canonical_modify hs) fun i y hy => ?_
    rw [segAt_segmentMadeFree] at hy
    split at hy
    · next hi =>
      rw [hi, hr] at hy
      cases hy
      exact fun h => by cases h
    · next hi => exact hnone i y hi hy

end

/-! ## The obligation -/

/-- The erase OK of the victim. -/
theorem eraseCompletion_ok {s : State} {v : Victim} {e : EraseRun} {r : SegRec} (hheld : isHeld s = false)
    (hop : s.arr.op = some (.erase e)) (ho : e.origin = .compaction) (hv : s.comp.victim = some v)
    (hseg : e.seg = v.seg) (hr : segAt v.seg s = some r) :
    ∃ u, exec (.eraseCompletion true) s = .next (settleAfterOp u) ∧
      (∀ p, p < 48 → pageAt v.seg p u = none) ∧
      (∀ h p, p < 48 → h ≠ v.seg → pageAt h p u = pageAt h p s) ∧
      segAt v.seg u = some { r with eraseCount := min (r.eraseCount + 1) 1000000 } ∧
      (∀ h, h ≠ v.seg → segAt h u = segAt h s) ∧ u.comp.victim = some { v with phase := .header } ∧
      (⟨.relocate, .compaction, .program v.seg 0
        (segHeader (min (r.eraseCount + 1) 1000000) r.strikes s.cat.formatStamp)⟩ : Claim) ∈
        u.arr.relPlace.toList ++ u.arr.outside := by
  let erased := eraseLeaves true v.seg (startOp none s)
  have hexec := exec_eraseCompletion hheld hop true
  rw [ho, hseg] at hexec
  refine ⟨engineErased true erased, hexec, ?_⟩
  rw [engineErased_ok (s := erased) hv hr]
  have hpages (h p : Nat) (hp : p < 48) : pageAt h p erased = if h = v.seg then none else pageAt h p s := by
    rw [pageAt_eraseLeaves hp]; rfl
  refine ⟨fun p hp => (hpages v.seg p hp).trans (if_pos rfl), fun h p hp hne => (hpages h p hp).trans (if_neg hne), ?_,
    fun h hne => Store.get_modify_other hne .., rfl, ArrayCtl.mem_claim ..⟩
  refine (segAt_modSeg ..).trans ?_
  rw [if_pos rfl, show segAt v.seg erased = some r from hr]
  rfl

/-- The erase FAIL of the victim. -/
theorem eraseCompletion_fails {s : State} {v : Victim} {e : EraseRun} {r : SegRec} (hheld : isHeld s = false)
    (hs : Store.Canonical s.segs) (hop : s.arr.op = some (.erase e)) (ho : e.origin = .compaction)
    (hv : s.comp.victim = some v) (hseg : e.seg = v.seg) (hr : segAt v.seg s = some r)
    (hopen : s.reloc.openSeg ≠ some v.seg) :
    ∃ u, exec (.eraseCompletion false) s = .next (settleAfterOp u) ∧
      segState v.seg u = some .condemned ∧
      (segAt v.seg u).bind SegRec.cause = some .eraseFault ∧ u.comp.victim ≠ some v ∧
      (∀ h p, p < 48 → h ≠ v.seg → pageAt h p u = pageAt h p s) ∧
      ∀ p, p < 48 → pageAt v.seg p u = some (match pageAt v.seg p s with
        | none => ⟨none, .halfErased⟩
        | some x => ⟨x.data, if x.quality = .sound ∨ x.quality = .unknown then .unknown else .halfErased⟩) := by
  have hexec := exec_eraseCompletion hheld hop false
  rw [ho, hseg] at hexec
  generalize herased : eraseLeaves false v.seg (startOp none s) = erased at hexec
  have hsegs : erased.segs = s.segs := by rw [← herased, eraseLeaves_segs, startOp_segs]
  have hcomp : erased.comp = s.comp := by rw [← herased, eraseLeaves_comp, startOp_comp]
  have hreloc : erased.reloc = s.reloc := by rw [← herased, eraseLeaves_reloc, startOp_reloc]
  have hv' : erased.comp.victim = some v := by rw [hcomp, hv]
  obtain ⟨hrecord, -, hvictim⟩ := engineErased_fails (by rw [hsegs]; exact hs) hv'
    (by rw [segAt, hsegs]; exact hr) (by rw [hreloc]; exact hopen)
  have hpages (h p : Nat) (hp : p < 48) : pageAt h p (engineErased false erased) =
      if h = v.seg then some (spoiled Quality.eraseFailed (pageAt h p s)) else pageAt h p s := by
    have hkept : pageAt h p (engineErased false erased) = pageAt h p erased :=
      congrArg (Store.get (pageAddr h p)) (engineErased_fails_flash hv')
    have hspoiled := pageAt_eraseLeaves (g := v.seg) (g' := h) hp false (startOp none s)
    rw [if_neg Bool.false_ne_true, herased] at hspoiled
    exact hkept.trans hspoiled
  refine ⟨engineErased false erased, hexec, ?_, ?_, fun h => hvictim v h rfl,
    fun h p hp hne => (hpages h p hp).trans (if_neg hne), fun p hp => ?_⟩
  · rw [segState, hrecord]; rfl
  · rw [hrecord]; rfl
  · rw [hpages v.seg p hp, if_pos rfl, spoiled_eraseFailed]

/-- Settles O42: the two ends of the erase, the header's program, and the freed segment with the wear-spread check. -/
theorem engineEraseEnds : Obligations.EngineEraseEnds := by
  refine ⟨fun s v e r hheld hs hop ho hv hseg hr => ⟨eraseCompletion_ok hheld hop ho hv hseg hr,
      eraseCompletion_fails hheld hs hop ho hv hseg hr⟩,
    fun s v p data hheld hop hv => ?_, fun s g r hs hr => ?_⟩
  · rw [exec_programCompletion hheld hop]
    have hheader : programOriginator .compaction true (setPage v.seg p data (programQuality true) (startOp none s)) =
        engineHeader true (setPage v.seg p data .sound (startOp none s)) := rfl
    have hvictim : (setPage v.seg p data .sound (startOp none s)).comp.victim = some v := hv
    rw [hheader, engineHeader, hvictim]
    rfl
  · obtain ⟨hself, segs, ordinary, e⟩ := segmentFreed_frees hs hr
    have hother (i : Nat) (hi : i ≠ g) : segAt i (segmentMadeFree g s) = segAt i s := by
      rw [segAt_segmentMadeFree, if_neg hi]
    have hframe := segmentMadeFree_frame g s
    have hordinary : (segmentMadeFree g s).ordinary = s.ordinary := by rw [hframe]
    refine ⟨hself, ?_, ?_, ?_, fun c hc hreached sl => segmentFreed_compact_slot hs hr hc hreached, ?_, fun h => ?_,
      fun h x hmode hne hx hfull hleast => ?_⟩
    · rw [e, hframe]
    · rw [e, hframe]; simp
    · rw [e, hframe]
    · rw [e, hframe]
    · have hfullFree : s.startup.mode = .formatting ∨ ∀ i y, i ≠ g → segAt i s = some y → y.state ≠ .full := h
      rw [segmentFreed_unqueued hs hr hfullFree]
      exact ⟨hordinary, hother⟩
    · obtain ⟨hqueues, hleaves⟩ := segmentFreed_least hs hr hmode hne hx hfull hleast
      refine ⟨fun hwide hnone => ?_, fun hnot => ?_⟩
      · rw [hqueues hwide hnone]
        refine ⟨?_, congrArg (· ++ [h]) hordinary, fun i hi hih => ?_⟩
        · rw [segAt_wearQueued, if_pos rfl, hother h hne, hx]; rfl
        · rw [segAt_wearQueued, if_neg hih, hother i hi]
      · rw [hleaves hnot]
        exact ⟨hordinary, hother⟩

end Sys2Proof.Machine


/-! # The pages of a failed program are retargeted (R10(2), R27, R60(a) to (g)) -/

namespace Sys2Proof.Machine

/-! ## Entries and slots that follow a page -/

/-- The index entry after the page `old` has become the page `new`: a pending entry located there follows at its cell
(R10(2), R60(c)). -/
def IndexEntry.follow (old : Option (Nat × Nat)) (new : Nat × Nat) (e : IndexEntry) : IndexEntry :=
  match e.loc? with
  | some l => if old = some (l.seg, l.page) ∧ e.programmed = false then e.movedTo ⟨new.1, new.2, l.cell⟩ else e
  | none => e

/-- What a durable request waits for after the page `old` has become the page `new` (R60(g)). -/
def PageWait.follow (old : Option (Nat × Nat)) (new : Nat × Nat) (w : PageWait) : PageWait :=
  if old = some (w.seg, w.page) then { w with seg := new.1, page := new.2 } else w

/-- The slot with what it waits for. -/
def Slot.follow (old : Option (Nat × Nat)) (new : Nat × Nat) (sl : Slot) : Slot :=
  { sl with wait := sl.wait.map (PageWait.follow old new) }

theorem IndexEntry.follow_none (new : Nat × Nat) (e : IndexEntry) : e.follow none new = e := by
  cases e <;> simp [follow, loc?]

theorem Slot.follow_none (new : Nat × Nat) (sl : Slot) : sl.follow none new = sl := by
  have h : PageWait.follow none new = id := funext fun w => by simp [PageWait.follow]
  rw [follow, h, Option.map_id]; rfl

/-- The entry with its page replaced, at the same cell. -/
def IndexEntry.onPage (new : Nat × Nat) (e : IndexEntry) : IndexEntry :=
  match e.loc? with
  | some l => e.movedTo ⟨new.1, new.2, l.cell⟩
  | none => e

theorem IndexEntry.follow_eq (seg page : Nat) (new : Nat × Nat) (e : IndexEntry) :
    e.follow (some (seg, page)) new = if e.inPage seg page && !e.programmed then e.onPage new else e := by
  cases h : e.loc? with
  | none => simp [follow, inPage, h]
  | some l =>
    have hcond : (some (seg, page) = some (l.seg, l.page) ∧ e.programmed = false) ↔
        (e.inPage seg page && !e.programmed) = true := by
      simp [inPage, h, eq_comm (a := seg), eq_comm (a := page)]
    simp only [follow, onPage, h, hcond]

/-! ## Tables -/

theorem Store.get_filter_vals {α : Type} {m : List (Nat × α)} (hm : Store.Canonical m) (p : Nat × α → Bool) (k : Nat) :
    Store.get k (m.filter p) = (Store.get k m).filter (fun v => p (k, v)) := by
  refine Option.ext fun v => ?_
  rw [Option.filter_eq_some_iff]
  constructor
  · intro h
    obtain ⟨hmem, hp⟩ := List.mem_filter.mp (Store.mem_of_get h)
    exact ⟨Store.get_of_mem hm hmem, hp⟩
  · rintro ⟨hget, hp⟩
    exact Store.get_of_mem (Store.canonical_filter hm) (List.mem_filter.mpr ⟨Store.mem_of_get hget, hp⟩)

/-- A value put under a listed number leaves the numbers as they are. -/
theorem Store.keys_put_listed {α : Type} {m : List (Nat × α)} (hm : Store.Canonical m) {k : Nat}
    (hk : k ∈ m.map Prod.fst) (v : α) : (Store.put k v m).map Prod.fst = m.map Prod.fst := by
  induction m with
  | nil => cases hk
  | cons p rest ih =>
    obtain ⟨j, w⟩ := p
    simp only [Store.Canonical, List.map_cons, List.pairwise_cons] at hm
    obtain ⟨hfirst, hrest⟩ := hm
    rcases List.mem_cons.mp hk with hj | hj
    · subst hj; simp [Store.put]
    · have hlt : j < k := hfirst k hj
      have hnot : ¬ k < j := Nat.not_lt.mpr hlt.le
      simp [Store.put, hnot, hlt.ne, ih hrest hj]

theorem Key.code_ofCode (n : Nat) : Key.code (Key.ofCode n) = n := by
  simp only [Key.code, Key.ofCode]; omega

/-! ## The index entries of a page move (R10(2), R4) -/

/-- One index entry moves to another page. -/
def moveEntry (new : Nat × Nat) (t : State) (p : Nat × IndexEntry) : State :=
  match p.2.loc? with
  | some l => changeEntry (Key.ofCode p.1) (some (p.2.movedTo ⟨new.1, new.2, l.cell⟩)) t
  | none => t

theorem retargetEntries_eq (seg page toSeg toPage : Nat) (s : State) : retargetEntries seg page toSeg toPage s =
    (s.index.filter (fun p => p.2.inPage seg page && !p.2.programmed)).foldl (moveEntry (toSeg, toPage)) s := rfl

section
variable {new : Nat × Nat} {t : State} {p : Nat × IndexEntry} {l : Loc}

theorem moveEntry_of_loc (hl : p.2.loc? = some l) :
    moveEntry new t p = changeEntry (Key.ofCode p.1) (some (p.2.onPage new)) t := by
  simp [moveEntry, IndexEntry.onPage, hl]

theorem moveEntry_index (hl : p.2.loc? = some l) :
    (moveEntry new t p).index = Store.put p.1 (p.2.onPage new) t.index := by
  rw [moveEntry_of_loc hl, changeEntry_index, setEntry, Key.code_ofCode]

end

/-- A record of the Segment Table but for its live cells. -/
def SameButLive (r r' : SegRec) : Prop := r' = { r with live := r'.live }

/-- The Segment Table is the same but for live cells. -/
def SegsButLive (s t : State) : Prop := ∀ h, ∃ f : SegRec → SegRec, (∀ r, SameButLive r (f r)) ∧
  segAt h t = (segAt h s).map f

theorem SegsButLive.refl (s : State) : SegsButLive s s := fun h => ⟨id, fun _ => rfl, by simp⟩

theorem SegsButLive.trans {s t u : State} (h1 : SegsButLive s t) (h2 : SegsButLive t u) : SegsButLive s u := by
  intro h
  obtain ⟨f, hf, ht⟩ := h1 h
  obtain ⟨f', hf', hu⟩ := h2 h
  refine ⟨f' ∘ f, fun r => ?_, by rw [hu, ht, Option.map_map]⟩
  have e := hf r
  have e' := hf' (f r)
  unfold SameButLive at e e' ⊢
  rw [Function.comp_apply, e', e]

theorem SegsButLive.moveEntry (new : Nat × Nat) (t : State) (p : Nat × IndexEntry) :
    SegsButLive t (moveEntry new t p) := by
  intro h
  unfold Machine.moveEntry
  split
  · exact ⟨fun r => { r with live := r.live - _ + _ }, fun _ => rfl, segAt_changeEntry ..⟩
  · exact ⟨id, fun _ => rfl, by simp⟩

section
variable (new : Nat × Nat)

theorem moveEntries_segs (l : List (Nat × IndexEntry)) (t : State) :
    SegsButLive t (l.foldl (moveEntry new) t) := by
  induction l generalizing t with
  | nil => exact .refl t
  | cons p rest ih => exact (SegsButLive.moveEntry new t p).trans (ih _)

theorem moveEntries_frame (l : List (Nat × IndexEntry)) (t : State) : l.foldl (moveEntry new) t = { t with
    index := (l.foldl (moveEntry new) t).index
    segs := (l.foldl (moveEntry new) t).segs
    spaces := (l.foldl (moveEntry new) t).spaces
    comp := (l.foldl (moveEntry new) t).comp } := by
  induction l generalizing t with
  | nil => rfl
  | cons p rest ih =>
    have hone : moveEntry new t p = { t with
        index := (moveEntry new t p).index, segs := (moveEntry new t p).segs
        spaces := (moveEntry new t p).spaces, comp := (moveEntry new t p).comp } := by
      unfold moveEntry
      split
      · rw [changeEntry_frame]
      · rfl
    rw [List.foldl_cons, ih, hone]

variable {new}

/-- The entries of a table in order, each located, are moved one by one; every other entry stays. -/
theorem get_moveEntries {l : List (Nat × IndexEntry)} (hl : Store.Canonical l) (hloc : ∀ p ∈ l, ∃ x, p.2.loc? = some x)
    (c : Nat) (t : State) : Store.get c (l.foldl (moveEntry new) t).index =
      ((Store.get c l).map (IndexEntry.onPage new)).or (Store.get c t.index) := by
  induction l generalizing t with
  | nil => rfl
  | cons p rest ih =>
    obtain ⟨j, e⟩ := p
    simp only [Store.Canonical, List.map_cons, List.pairwise_cons] at hl
    obtain ⟨hfirst, hrest⟩ := hl
    obtain ⟨x, hx⟩ := hloc (j, e) List.mem_cons_self
    rw [List.foldl_cons, ih hrest (fun p hp => hloc p (List.mem_cons_of_mem _ hp)), moveEntry_index hx]
    by_cases hc : j = c
    · subst hc
      have hnone : Store.get j rest = none := by
        rw [Option.eq_none_iff_forall_ne_some]
        exact fun v hv => Nat.lt_irrefl j (hfirst j (List.mem_map.mpr ⟨(j, v), Store.mem_of_get hv, rfl⟩))
      rw [hnone, Store.get_put_same]
      simp [Store.get]
    · rw [Store.get_put_other (Ne.symm hc)]
      simp [Store.get, hc]

theorem keys_moveEntries {l : List (Nat × IndexEntry)} {t : State} (ht : Store.Canonical t.index)
    (hl : ∀ p ∈ l, p.1 ∈ t.index.map Prod.fst) :
    (l.foldl (moveEntry new) t).index.map Prod.fst = t.index.map Prod.fst := by
  induction l generalizing t with
  | nil => rfl
  | cons p rest ih =>
    have hkeys : (moveEntry new t p).index.map Prod.fst = t.index.map Prod.fst := by
      cases hx : p.2.loc? with
      | none => simp [moveEntry, hx]
      | some x => rw [moveEntry_index hx, Store.keys_put_listed ht (hl p List.mem_cons_self)]
    rw [List.foldl_cons, ih (canonical_of_keys hkeys ht) (fun q hq => hkeys ▸ hl q (List.mem_cons_of_mem _ hq)), hkeys]

end

/-! ## A page becomes another page (R60(c), (g)) -/

/-- `t` is `s` with the page `old`, if any, become the page `new`: the pending index entries and the waiting slots of the
page follow, and the live cells with them. -/
structure Follows (old : Option (Nat × Nat)) (new : Nat × Nat) (s t : State) : Prop where
  frame : t = { s with
    index := t.index, segs := t.segs, spaces := t.spaces, comp := t.comp
    link := { s.link with slots := t.link.slots } }
  keys : t.index.map Prod.fst = s.index.map Prod.fst
  index : ∀ c, Store.get c t.index = (Store.get c s.index).map (IndexEntry.follow old new)
  slots : ∀ n, slotAt n t = (slotAt n s).map (Slot.follow old new)
  segs : SegsButLive s t

theorem slotAt_retargetSlots (n seg page toSeg toPage : Nat) (s : State) :
    slotAt n (retargetSlots seg page toSeg toPage s) =
      (slotAt n s).map (Slot.follow (some (seg, page)) (toSeg, toPage)) := by
  simp only [slotAt, retargetSlots, Store.get_mapVals]
  refine congrArg (Option.map · _) (funext fun sl => ?_)
  obtain ⟨tag, request, arrival, state, wait, reply⟩ := sl
  cases wait with
  | none => rfl
  | some w =>
    by_cases h : w.seg = seg ∧ w.page = page
    · obtain ⟨rfl, rfl⟩ := h
      simp [Slot.follow, PageWait.follow]
    · have h' : ¬ (seg = w.seg ∧ page = w.page) := fun e => h ⟨e.1.symm, e.2.symm⟩
      simp [Slot.follow, PageWait.follow, h, h']

theorem retargetPage_index (seg page toSeg toPage : Nat) (s : State) : (retargetPage seg page toSeg toPage s).index =
    ((s.index.filter (fun p => p.2.inPage seg page && !p.2.programmed)).foldl (moveEntry (toSeg, toPage)) s).index :=
  rfl

theorem retargetPage_follows (seg page toSeg toPage : Nat) {s : State} (hs : Store.Canonical s.index) :
    Follows (some (seg, page)) (toSeg, toPage) s (retargetPage seg page toSeg toPage s) where
  frame := by
    rw [retargetPage, retargetSlots, retargetEntries_eq, moveEntries_frame]
  keys := by
    rw [retargetPage_index]
    exact keys_moveEntries hs fun p hp => List.mem_map.mpr ⟨p, (List.mem_filter.mp hp).1, rfl⟩
  index c := by
    have hloc : ∀ p ∈ s.index.filter (fun p => p.2.inPage seg page && !p.2.programmed), ∃ x, p.2.loc? = some x := by
      intro p hp
      have hin := (List.mem_filter.mp hp).2
      cases hx : p.2.loc? with
      | none => simp [IndexEntry.inPage, hx] at hin
      | some x => exact ⟨x, rfl⟩
    rw [retargetPage_index, get_moveEntries (Store.canonical_filter hs) hloc, Store.get_filter_vals hs]
    cases Store.get c s.index with
    | none => rfl
    | some e =>
      rw [Option.map_some, IndexEntry.follow_eq]
      split
      · next h => simp [Option.filter, h]
      · next h => simp [Option.filter, h]
  slots n := by
    rw [retargetPage, slotAt_retargetSlots, retargetEntries_eq, moveEntries_frame]; rfl
  segs := (moveEntries_segs (toSeg, toPage) _ s).trans fun h => ⟨id, fun _ => rfl, by simp; rfl⟩

theorem retargetBuffer_follows (dest : Option (Nat × Nat)) (g : Nat) {s : State} (hs : Store.Canonical s.index) :
    Follows dest (g, 2) s (retargetBuffer dest g s) := by
  cases dest with
  | none =>
    have hentry : IndexEntry.follow none (g, 2) = id := funext (IndexEntry.follow_none _)
    have hslot : Slot.follow none (g, 2) = id := funext (Slot.follow_none _)
    exact ⟨rfl, rfl, fun c => by rw [hentry, Option.map_id]; rfl, fun n => by rw [hslot, Option.map_id]; rfl, .refl s⟩
  | some d => exact retargetPage_follows d.1 d.2 g 2 hs

/-! ## The retarget segment (R60) -/

theorem takeSeqs_frame (g : Nat) (seqs : List Nat) (s : State) :
    takeSeqs g seqs s = { s with segs := (takeSeqs g seqs s).segs } := by
  induction seqs generalizing s with
  | nil => rfl
  | cons q rest ih => rw [takeSeqs, List.foldl_cons, ← takeSeqs, ih]; rfl

/-- The segment's lowest sequence alone takes in the sequences (R27). -/
theorem segAt_takeSeqs (h g : Nat) (seqs : List Nat) (s : State) :
    ∃ f : SegRec → SegRec, (∀ r, f r = { r with lowestSeq := (f r).lowestSeq }) ∧ (h ≠ g → f = id) ∧
      segAt h (takeSeqs g seqs s) = (segAt h s).map f := by
  induction seqs generalizing s with
  | nil => exact ⟨id, fun _ => rfl, fun _ => rfl, by simp [takeSeqs]⟩
  | cons q rest ih =>
    obtain ⟨f, hf, hid, ht⟩ := ih (modSeg g (SegRec.takeSeq q) s)
    rw [takeSeqs, List.foldl_cons, ← takeSeqs, ht, segAt_modSeg]
    split
    · next hg =>
      refine ⟨f ∘ SegRec.takeSeq q, fun r => ?_, fun hne => absurd hg hne, Option.map_map ..⟩
      rw [Function.comp_apply, hf (SegRec.takeSeq q r)]
      rfl
    · exact ⟨f, hf, hid, rfl⟩

/-- The page in flight and the buffer of stream `id` retargeted to segment `g` (R60(a) to (g)). -/
structure Retargeted (id : StreamId) (f : InFlight) (dest : Option (Nat × Nat)) (g : Nat) (s t : State) : Prop where
  frame : t = { s with
    index := t.index, segs := t.segs, spaces := t.spaces, comp := t.comp
    host := t.host, reloc := t.reloc, arr := t.arr, link := { s.link with slots := t.link.slots } }
  stream : streamOf id t = { streamOf id s with
    inFlight := some ⟨g, 1, f.placed, buildTrailer id (stampOf g t) 1 f.placed⟩, finalPage := false }
  claim : (⟨streamClass id, streamOrigin id, .program g 1
    (.entries f.placed (buildTrailer id (stampOf g t) 1 f.placed))⟩ : Claim) ∈
      (t.arr.place (streamClass id)).toList ++ t.arr.outside
  keys : t.index.map Prod.fst = s.index.map Prod.fst
  index : ∀ c, Store.get c t.index = (Store.get c s.index).map
    (fun e => (e.follow dest (g, 2)).follow (some (f.seg, f.page)) (g, 1))
  slots : ∀ n, slotAt n t = (slotAt n s).map
    (fun sl => (sl.follow dest (g, 2)).follow (some (f.seg, f.page)) (g, 1))
  other : ∀ h, h ≠ g → ∃ k : SegRec → SegRec, (∀ r, SameButLive r (k r)) ∧ segAt h t = (segAt h s).map k
  opened : ∃ k : SegRec → SegRec, (∀ r, (k r).state = r.state ∧ (k r).nextPage = some 2) ∧
    segAt g t = (segAt g s).map k

theorem retarget_retargeted (id : StreamId) (f : InFlight) (dest : Option (Nat × Nat)) (g : Nat) {s : State}
    (hs : Store.Canonical s.index) : Retargeted id f dest g s (retarget id f dest g s) := by
  have hbuffer := retargetBuffer_follows dest g hs
  have hflight := retargetPage_follows f.seg f.page g 1 (canonical_of_keys hbuffer.keys hs)
  unfold retarget
  dsimp only
  generalize retargetBuffer dest g s = b at hbuffer hflight
  generalize retargetPage f.seg f.page g 1 b = t at hflight
  have hframe := takeSeqs_frame g (seqsOf (streamOf id t).pendingEntries) t
  have hrecord (h : Nat) := segAt_takeSeqs h g (seqsOf (streamOf id t).pendingEntries) t
  generalize takeSeqs g (seqsOf (streamOf id t).pendingEntries) t = u at hframe hrecord
  have hsegs : SegsButLive s t := hbuffer.segs.trans hflight.segs
  have hstream : streamOf id u = streamOf id s := by rw [hframe, hflight.frame, hbuffer.frame]; cases id <;> rfl
  have hlast (h : Nat) (w : State) (fl : InFlight) (k : Stream → Stream) :
      segAt h (claimProgram id fl (modStream id k w)) = segAt h w := by
    rw [segAt_claimProgram, segAt_modStream]
  have hstamp (fl : InFlight) (k : Stream → Stream) : stampOf g (claimProgram id fl (modStream id k
      (modSeg g (fun r => { r with nextPage := some 2 }) u))) = stampOf g u := by
    rw [stampOf, hlast, segAt_modSeg, if_pos rfl, Option.bind_map]
    rfl
  constructor
  case frame => rw [hframe, hflight.frame, hbuffer.frame]; cases id <;> rfl
  case stream =>
    rw [hstamp, streamOf_claimProgram, streamOf_modStream_same, ← hstream]
    cases id <;> rfl
  case claim => rw [hstamp]; cases id <;> exact ArrayCtl.mem_claim ..
  case keys =>
    refine Eq.trans ?_ (hflight.keys.trans hbuffer.keys)
    rw [hframe]; cases id <;> rfl
  case index =>
    intro c
    have e := hflight.index c
    rw [hbuffer.index, Option.map_map] at e
    refine Eq.trans ?_ e
    rw [hframe]; cases id <;> rfl
  case slots =>
    intro n
    have e := hflight.slots n
    rw [hbuffer.slots, Option.map_map] at e
    refine Eq.trans ?_ e
    rw [hframe]; cases id <;> rfl
  case other =>
    intro h hne
    obtain ⟨k, hk, ht⟩ := hsegs h
    obtain ⟨k', _, hid, hu⟩ := hrecord h
    refine ⟨k, hk, ?_⟩
    rw [hlast, segAt_modSeg, if_neg hne, hu, hid hne, Option.map_id]
    exact ht
  case opened =>
    obtain ⟨k, hk, ht⟩ := hsegs g
    obtain ⟨k', hk', -, hu⟩ := hrecord g
    refine ⟨_, fun r => ⟨?_, rfl⟩, by rw [hlast, segAt_modSeg, if_pos rfl, hu, ht, Option.map_map, Option.map_map]⟩
    have e := hk r
    have e' := hk' (k r)
    unfold SameButLive at e
    rw [Function.comp_apply, Function.comp_apply, e', e]

end Sys2Proof.Machine


/-! # The segment of a failed program (R37, R55, R60, R87, R88) -/

namespace Sys2Proof.Machine

/-! ## What an arriving refresh reason touches (R36, R87, R88) -/

/-- A refresh reason that arrives for segment `g` brings `s` to `t`: it touches the Refresh Queue, the record of `g`, and
the stream that has `g` open, with what a commit touches. -/
structure ArrivalTouches (g : Nat) (s t : State) : Prop where
  frame : t = { s with
    segs := t.segs, urgent := t.urgent, ordinary := t.ordinary, commitTimer := t.commitTimer, arr := t.arr
    comp := { s.comp with noGain := t.comp.noGain }, host := t.host, reloc := t.reloc }
  stream : ∀ id, (streamOf id s).openSeg ≠ some g → streamOf id t = streamOf id s
  other : ∀ h, h ≠ g → segAt h t = segAt h s
  state : segState g t = segState g s ∨ segState g t = some .full

namespace ArrivalTouches

variable {g : Nat} {s t u : State}

theorem refl (g : Nat) (s : State) : ArrivalTouches g s s := ⟨rfl, fun _ _ => rfl, fun _ _ => rfl, .inl rfl⟩

theorem trans (h1 : ArrivalTouches g s t) (h2 : ArrivalTouches g t u) : ArrivalTouches g s u where
  frame := by
    refine h2.frame.trans ?_
    rw [h1.frame]
  stream id hne := by
    have ht := h1.stream id hne
    exact (h2.stream id (by rw [ht]; exact hne)).trans ht
  other h hne := (h2.other h hne).trans (h1.other h hne)
  state := h2.state.elim (fun e => h1.state.elim (fun e' => .inl (e.trans e')) (fun e' => .inr (e.trans e'))) .inr

theorem setReason (g : Nat) (r : RefreshReason) (s : State) : ArrivalTouches g s (setReason g r s) where
  frame := rfl
  stream id _ := by cases id <;> rfl
  other h hne := (segAt_modSeg ..).trans (if_neg hne)
  state := .inl (by
    rw [segState, Machine.setReason, segAt_modSeg, if_pos rfl, Option.map_map]
    rfl)

/-- A change of the queue alone. -/
theorem queue (g : Nat) (l m : List Nat) (s : State) : ArrivalTouches g s { s with urgent := l, ordinary := m } where
  frame := rfl
  stream id _ := by cases id <;> rfl
  other _ _ := rfl
  state := .inl rfl

theorem joinQueue (g : Nat) (r : RefreshReason) (s : State) : ArrivalTouches g s (joinQueue g r s) := by
  unfold Machine.joinQueue
  split
  · exact queue g (s.urgent ++ [g]) s.ordinary s
  · exact queue g s.urgent (s.ordinary ++ [g]) s

theorem upgradeReason (g : Nat) (old new : RefreshReason) (s : State) :
    ArrivalTouches g s (upgradeReason g old new s) := by
  unfold Machine.upgradeReason
  split
  · exact refl g s
  · split
    · exact (queue g (s.urgent ++ [g]) (s.ordinary.filter (· != g)) s).trans (setReason g new _)
    · exact setReason g new s

end ArrivalTouches

theorem segState_fillSegment (h g : Nat) (s : State) :
    segState h (fillSegment g s) = segState h s ∨ segState h (fillSegment g s) = some .full := by
  rw [segState, segAt_fillSegment]
  split
  · cases hr : segAt h s with
    | none => simp [segState, hr]
    | some r => exact .inr rfl
  · exact .inl rfl

theorem segState_closeOpen (h : Nat) (id : StreamId) (s : State) :
    segState h (closeOpen id s) = segState h s ∨ segState h (closeOpen id s) = some .full := by
  unfold closeOpen
  split
  · exact .inl rfl
  · next g _ =>
    have e : segState h (modStream id (fun st => { st with openSeg := none }) s) = segState h s := by
      rw [segState, segAt_modStream]; rfl
    rw [← e]
    exact segState_fillSegment ..

theorem segState_commitCause (h : Nat) (id : StreamId) (s : State) :
    segState h (commitCause id s) = segState h s ∨ segState h (commitCause id s) = some .full := by
  have hstream (f : Stream → Stream) : segState h (modStream id f s) = segState h s := by
    rw [segState, segAt_modStream]; rfl
  rcases commitCause_cases id s with e | e | ⟨g, p, hdest, _, e⟩
  · rw [e]; exact .inl rfl
  · rw [e]; exact .inl (hstream _)
  · rw [e, commitNow_of_dest hdest, segState, segAt_claimProgram, segAt_stopTimer, ← segState,
      ← hstream (Stream.committed (committedPage id g p s))]
    unfold advancePage
    split
    · exact segState_closeOpen ..
    · left
      rw [segState, segAt_modSeg, segState]
      split
      · rw [Option.map_map]; rfl
      · rfl

theorem CommitTouches.stream_other {id id' : StreamId} {s t : State} (h : CommitTouches id s t) (hne : id' ≠ id) :
    streamOf id' t = streamOf id' s := by
  rw [h.frame]
  cases id <;> cases id' <;> simp_all [streamOf]

/-- What a commit of the stream that has `g` open touches is a part of what an arrival for `g` touches. -/
theorem CommitTouches.arrival {id : StreamId} {g : Nat} {s t : State} (h : CommitTouches id s t)
    (hopen : (streamOf id s).openSeg = some g) (hother : ∀ k, k ≠ g → segAt k t = segAt k s)
    (hstate : segState g t = segState g s ∨ segState g t = some .full) : ArrivalTouches g s t where
  frame := by
    have e := h.frame
    rw [e]
  stream id' hne := h.stream_other fun e => hne (e ▸ hopen)
  other := hother
  state := hstate

theorem streamHolding_some {g : Nat} {s : State} {id : StreamId} (h : streamHolding g s = some id) :
    (streamOf id s).openSeg = some g := by
  unfold streamHolding at h
  split at h
  · next hh => cases h; exact hh
  · split at h
    · next hr => cases h; exact hr
    · cases h

theorem closeForRefresh_touches (g : Nat) (s : State) : ArrivalTouches g s (closeForRefresh g s) := by
  unfold closeForRefresh
  split
  · exact .refl g s
  · next id hid =>
    have hopen := streamHolding_some hid
    have hnot {k : Nat} (hk : k ≠ g) : (streamOf id s).openSeg ≠ some k := fun e =>
      hk (Option.some.inj (e.symm.trans hopen))
    split
    · exact (CommitTouches.closeOpen id s).arrival hopen (fun k hk => segAt_closeOpen_other (hnot hk))
        (segState_closeOpen g id s)
    · let m := modStream id (fun st => { st with finalPage := true }) s
      have hm : (streamOf id m).openSeg = (streamOf id s).openSeg := by rw [streamOf_modStream_same]
      have hsegs (k : Nat) : segAt k m = segAt k s := segAt_modStream ..
      refine ((CommitTouches.modStream id _ s).trans (CommitTouches.commitCause id m)).arrival hopen
        (fun k hk => ?_) ?_
      · exact (segAt_commitCause_other (by rw [hm]; exact hnot hk)).trans (hsegs k)
      · have e : segState g m = segState g s := congrArg (Option.map SegRec.state) (hsegs g)
        rw [← e]
        exact segState_commitCause g id m

theorem refreshArrival_touches (g : Nat) (q : RefreshReason) (s : State) :
    ArrivalTouches g s (refreshArrival g q s) := by
  have hjoins := (ArrivalTouches.setReason g q s).trans (ArrivalTouches.joinQueue g q _)
  unfold refreshArrival
  split
  · exact .refl g s
  · split
    · split
      · exact ArrivalTouches.upgradeReason ..
      · exact .refl g s
    · split
      · exact hjoins.trans (closeForRefresh_touches g _)
      · split
        · exact hjoins
        · exact .refl g s

/-! ## The failed segment (R37, R60) -/

/-- The program of a page of stream `id` in segment `g` has failed and brings `s` to `t`: the stream lets go of the
segment, and of the other records none changes. -/
structure SegmentFails (id : StreamId) (g : Nat) (s t : State) : Prop where
  frame : t = { s with
    segs := t.segs, urgent := t.urgent, ordinary := t.ordinary, commitTimer := t.commitTimer, arr := t.arr
    comp := { s.comp with noGain := t.comp.noGain }, host := t.host, reloc := t.reloc }
  stream : streamOf id t = { streamOf id s with
    openSeg := if (streamOf id s).openSeg = some g then none else (streamOf id s).openSeg }
  other : ∀ h, h ≠ g → segAt h t = segAt h s
  state : segState g t = segState g s ∨ segState g t = some .full

/-- The state in which the failed segment's refresh reason arrives (R37). -/
def letGo (id : StreamId) (g : Nat) (s : State) : State :=
  if (streamOf id s).openSeg = some g then closeOpen id s else s

theorem failSegment_eq (id : StreamId) (g : Nat) (s : State) :
    failSegment id g s = refreshArrival g .programFault (letGo id g s) := rfl

theorem streamOf_letGo (id : StreamId) (g : Nat) (s : State) : streamOf id (letGo id g s) = { streamOf id s with
    openSeg := if (streamOf id s).openSeg = some g then none else (streamOf id s).openSeg } := by
  unfold letGo
  split
  · rw [streamOf_closeOpen]
  · rfl

theorem letGo_touches (id : StreamId) (g : Nat) (s : State) : CommitTouches id s (letGo id g s) := by
  unfold letGo
  split
  · exact .closeOpen id s
  · exact .refl id s

theorem failSegment_fails (id : StreamId) (g : Nat) (s : State) : SegmentFails id g s (failSegment id g s) := by
  have harrival := refreshArrival_touches g .programFault (letGo id g s)
  have hstream : (streamOf id (letGo id g s)).openSeg ≠ some g := by
    rw [streamOf_letGo]
    dsimp only
    split
    · exact fun h => by cases h
    · next h => exact h
  rw [failSegment_eq]
  refine ⟨?_, (harrival.stream id hstream).trans (streamOf_letGo id g s), fun h hne => (harrival.other h hne).trans ?_, ?_⟩
  · refine harrival.frame.trans ?_
    rw [(letGo_touches id g s).frame]
  · unfold letGo
    split
    · next hopen => exact segAt_closeOpen_other fun e => hne (Option.some.inj (e.symm.trans hopen))
    · rfl
  · have hclosed : segState g (letGo id g s) = segState g s ∨ segState g (letGo id g s) = some .full := by
      unfold letGo
      split
      · exact segState_closeOpen ..
      · exact .inl rfl
    exact harrival.state.elim (fun e => hclosed.elim (fun e' => .inl (e.trans e')) (fun e' => .inr (e.trans e'))) .inr

/-- A stream never keeps the failed segment open (R37). -/
theorem SegmentFails.openSeg_ne {id : StreamId} {g : Nat} {s t : State} (h : SegmentFails id g s t) :
    (streamOf id t).openSeg ≠ some g := by
  rw [h.stream]
  dsimp only
  split
  · exact fun e => by cases e
  · next e => exact e

theorem SegmentFails.openSeg_other {id : StreamId} {g k : Nat} {s t : State} (h : SegmentFails id g s t)
    (hopen : (streamOf id s).openSeg = some k) (hne : k ≠ g) : (streamOf id t).openSeg = some k := by
  have hnot : (streamOf id s).openSeg ≠ some g := fun e => hne (Option.some.inj (hopen.symm.trans e))
  rw [h.stream]
  exact (if_neg hnot).trans hopen

theorem SegmentFails.openSeg_none {id : StreamId} {g : Nat} {s t : State} (h : SegmentFails id g s t)
    (hopen : (streamOf id s).openSeg = none ∨ (streamOf id s).openSeg = some g) : (streamOf id t).openSeg = none := by
  rw [h.stream]
  rcases hopen with e | e <;> simp [e]

/-! ## The record of the failed segment -/

/-- The record `r` of the failed segment has become `r'`: FULL, with its open stamp, its lowest sequence and its counts
(R37, R60). -/
structure FailedRecord (r r' : SegRec) : Prop where
  full : r'.state = .full
  openStamp : r'.openStamp = r.openStamp
  lowestSeq : r'.lowestSeq = r.lowestSeq
  eraseCount : r'.eraseCount = r.eraseCount
  strikes : r'.strikes = r.strikes
  closed : r.state = .opened → r'.stream = none ∧ r'.nextPage = none

/-- The reason `q` and the queue after PROGRAM_FAULT has arrived for segment `g` with record `r` (R87, R88). -/
def FailedQueue (g : Nat) (r : SegRec) (s : State) (q : Option RefreshReason) (urgent ordinary : List Nat) : Prop :=
  (r.reason = none ∨ r.reason = some .wear ∨ r.reason = some .threshold → q = some .programFault ∧
    urgent = s.urgent ++ [g] ∧ ordinary = if r.reason = none then s.ordinary else s.ordinary.filter (· != g)) ∧
  (r.reason = some .uncorrectable ∨ r.reason = some .programFault → q = r.reason ∧ urgent = s.urgent ∧
    ordinary = s.ordinary)

/-- PROGRAM_FAULT arrives for a FULL segment: it joins the end of the urgent part, or keeps its urgent reason and its place
(R87, R88). -/
theorem refreshArrival_programFault {g : Nat} {s : State} {r : SegRec} (hr : segAt g s = some r)
    (hfull : r.state = .full) : ∃ q, segAt g (refreshArrival g .programFault s) = some { r with reason := q } ∧
      FailedQueue g r s q (refreshArrival g .programFault s).urgent (refreshArrival g .programFault s).ordinary := by
  have hset (t : State) (ht : segAt g t = some r) :
      segAt g (setReason g .programFault t) = some { r with reason := some .programFault } := by
    rw [setReason, segAt_modSeg, if_pos rfl, ht]; rfl
  cases hq : r.reason with
  | none =>
    rw [refreshArrival_joins hr hfull hq]
    exact ⟨some .programFault, hset s hr, fun _ => ⟨rfl, rfl, by rw [if_pos hq]; rfl⟩, by simp [hq]⟩
  | some old =>
    have hupgrade : refreshArrival g .programFault s = upgradeReason g old .programFault s := by
      simp [refreshArrival, hr, hq, hfull]
    rw [hupgrade]
    cases hold : decide (old = .wear ∨ old = .threshold) with
    | true =>
      have hlower : ¬ RefreshReason.programFault.rank ≤ old.rank := by
        rcases of_decide_eq_true hold with e | e <;> rw [e] <;> decide
      have hmoves : upgradeReason g old .programFault s = setReason g .programFault
          { s with ordinary := s.ordinary.filter (· != g), urgent := s.urgent ++ [g] } := by
        rw [upgradeReason, if_neg hlower, if_pos (by decide)]
      rw [hmoves]
      refine ⟨some .programFault, hset _ hr, fun _ => ⟨rfl, rfl, by rw [if_neg (by simp [hq])]; rfl⟩, fun h => ?_⟩
      rw [hq] at h
      rcases of_decide_eq_true hold with e | e <;> simp [e] at h
    | false =>
      have hnot : ¬ (old = .wear ∨ old = .threshold) := of_decide_eq_false hold
      have hurgent : RefreshReason.programFault.rank ≤ old.rank := by
        cases old <;> simp_all [RefreshReason.rank]
      rw [upgradeReason, if_pos hurgent]
      refine ⟨r.reason, hr, fun h => ?_, fun _ => ⟨rfl, rfl, rfl⟩⟩
      rw [hq] at h
      simp [hnot] at h

theorem failSegment_record {id : StreamId} {g : Nat} {s : State} {r : SegRec} (hr : segAt g s = some r)
    (hstate : r.state = .full ∨ (r.state = .opened ∧ (streamOf id s).openSeg = some g)) :
    ∃ r', segAt g (failSegment id g s) = some r' ∧ FailedRecord r r' ∧
      FailedQueue g r s r'.reason (failSegment id g s).urgent (failSegment id g s).ordinary := by
  have hclosed : ∃ r1, segAt g (letGo id g s) = some r1 ∧ FailedRecord r r1 ∧ r1.reason = r.reason := by
    unfold letGo
    split
    · next hopen =>
      rw [closeOpen_of_open hopen, segAt_fillSegment, if_pos rfl, segAt_modStream, hr]
      exact ⟨r.filled, rfl, ⟨rfl, rfl, rfl, rfl, rfl, fun _ => ⟨rfl, rfl⟩⟩, rfl⟩
    · next hopen =>
      have hfull : r.state = .full := hstate.elim (fun h => h) (fun h => absurd h.2 hopen)
      exact ⟨r, hr, ⟨hfull, rfl, rfl, rfl, rfl, fun h => by rw [hfull] at h; cases h⟩, rfl⟩
  obtain ⟨r1, hr1, hrec, hreason⟩ := hclosed
  obtain ⟨q, hq, hqueue⟩ := refreshArrival_programFault hr1 hrec.full
  have hsame : (letGo id g s).urgent = s.urgent ∧ (letGo id g s).ordinary = s.ordinary := by
    rw [(letGo_touches id g s).frame]; exact ⟨rfl, rfl⟩
  rw [failSegment_eq]
  refine ⟨_, hq, ⟨hrec.full, hrec.openStamp, hrec.lowestSeq, hrec.eraseCount, hrec.strikes, hrec.closed⟩, ?_⟩
  unfold FailedQueue at hqueue ⊢
  rwa [hreason, hsame.1, hsame.2] at hqueue

theorem FailedRecord.of_sameButLive {r r1 r2 : SegRec} (h : FailedRecord r r1) (e : SameButLive r1 r2) :
    FailedRecord r r2 ∧ r2.reason = r1.reason := by
  unfold SameButLive at e
  rw [e]
  exact ⟨⟨h.full, h.openStamp, h.lowestSeq, h.eraseCount, h.strikes, h.closed⟩, rfl⟩

/-- Work that keeps a FULL segment keeps the failed one as it is (R60, R66). -/
theorem FailedRecord.of_keepsFull {r r1 : SegRec} {g : Nat} {s t : State} (h : FailedRecord r r1)
    (hr1 : segAt g s = some r1) (hkeeps : KeepsFull g s t) :
    ∃ r2, segAt g t = some r2 ∧ FailedRecord r r2 ∧ r2.reason = r1.reason := by
  obtain ⟨r2, hr2, hfull, heq, hsame⟩ := hkeeps r1 hr1 h.full
  refine ⟨r2, hr2, ⟨hfull, ?_, ?_, ?_, ?_, fun hopened => ?_⟩, ?_⟩
  · rw [heq]; exact h.openStamp
  · rw [heq]; exact h.lowestSeq
  · rw [heq]; exact h.eraseCount
  · rw [heq]; exact h.strikes
  · obtain ⟨hstream, hpage⟩ := h.closed hopened
    rw [hsame hstream hpage]
    exact ⟨hstream, hpage⟩
  · rw [heq]

end Sys2Proof.Machine


/-! # A stream is stranded (R61, R69, R156) -/

namespace Sys2Proof.Machine

/-! ## A cause is reported that may end a FORMAT (R156) -/

theorem readOnlyEffects_host (s : State) : (readOnlyEffects s).host = (dropHostWaiting s).host := by
  have habandon (t : State) : (abandonEvacuation t).host = t.host := by rw [abandonEvacuation_frame]
  have hcommit (t : State) : (commitCause .relocate t).host = t.host :=
    (CommitTouches.commitCause .relocate t).stream_other (id' := .host) (fun e => by cases e)
  rw [readOnlyEffects_frame]
  exact (hcommit _).trans (habandon _)

theorem enterReadOnly_startup (c : Cause) (s : State) :
    (enterReadOnly c s).startup = { s.startup with mode := .readOnly, cause := some c } := by
  rw [enterReadOnly, (readOnlyEffects_touches _).frame]; rfl

theorem answerOpt_frame (n : Option Nat) (st : Status) (d : ReplyData) (s : State) : answerOpt n st d s =
    { s with link := { s.link with slots := (answerOpt n st d s).link.slots }
             engine := (answerOpt n st d s).engine } := by
  cases n <;> rfl

theorem slotAt_answerOpt_other {o : Option Nat} {n : Nat} (h : o ≠ some n) (st : Status) (d : ReplyData) (s : State) :
    slotAt n (answerOpt o st d s) = slotAt n s := by
  cases o with
  | none => rfl
  | some m =>
    have hne : n ≠ m := fun e => h (congrArg some e.symm)
    exact (slotAt_answer ..).trans (if_neg hne)

/-- The report of a cause brings `s` to `t`: it touches what an entry into READ_ONLY does, the mode and the notices. -/
structure ReportTouches (s t : State) : Prop where
  frame : t = { s with
    startup := t.startup, link := { s.link with slots := t.link.slots, notices := t.link.notices }
    engine := t.engine, segs := t.segs, arr := t.arr, comp := t.comp
    host := { s.host with waiting := t.host.waiting }, reloc := t.reloc }
  stranded : s.reloc.stranded = true → t.reloc = { s.reloc with waiting := t.reloc.waiting }
  full : ∀ h, KeepsFull h s t
  waiting : s.host.waiting = none → t.host.waiting = none

theorem enterReadOnly_touches (c : Cause) (s : State) : ReportTouches s (enterReadOnly c s) where
  frame := by rw [enterReadOnly, (readOnlyEffects_touches _).frame]; rfl
  stranded h := (readOnlyEffects_touches (changeMode .readOnly (some c) s)).stranded h
  full h := KeepsFull.readOnlyEffects h (changeMode .readOnly (some c) s)
  waiting h := by
    have hnone (n : Nat) (k : Key) (v : Option (List Byte)) :
        (changeMode .readOnly (some c) s).host.waiting ≠ some (.host n k v) := fun e => by cases h.symm.trans e
    rw [enterReadOnly, readOnlyEffects_host, dropHostWaiting_of_other hnone]
    exact h

theorem reportCause_touches (c : Cause) (s : State) : ReportTouches s (reportCause c s) := by
  rcases reportCause_cases c s with ⟨_, e⟩ | ⟨_, e | e⟩
  · rw [e]; exact enterReadOnly_touches c s
  · rw [e]; exact ⟨rfl, fun _ => rfl, fun _ => .of_segAt rfl, fun h => h⟩
  · rw [e]; exact ⟨rfl, fun _ => rfl, fun _ => .of_segAt rfl, fun h => h⟩

/-- The state in which a FORMAT that fails leaves FORMATTING: its request answered MEDIA_FAULT (R170, R156). -/
def formatDropped (x : Format) (s : State) : State :=
  { answerOpt x.slot .mediaFault .none s with startup := { s.startup with format := none, pendingCause := none } }

theorem reportEnding_of_format {s : State} {x : Format} (h : s.startup.format = some x) (c : Cause) :
    reportEnding c s = enterReadOnly c (formatDropped x s) := by
  have hstartup : (answerOpt x.slot .mediaFault .none s).startup = s.startup := by rw [answerOpt_frame]
  simp only [reportEnding, h, Option.isSome_some, if_true, endFormatFailed, hstartup]
  rfl

theorem reportEnding_of_no_format {s : State} (h : s.startup.format = none) (c : Cause) :
    reportEnding c s = reportCause c s := by
  simp [reportEnding, h]

theorem reportEnding_touches (c : Cause) (s : State) : ReportTouches s (reportEnding c s) := by
  cases hx : s.startup.format with
  | none => rw [reportEnding_of_no_format hx]; exact reportCause_touches c s
  | some x =>
    have hdropped : formatDropped x s = { s with
        startup := (formatDropped x s).startup
        link := { s.link with slots := (formatDropped x s).link.slots }, engine := (formatDropped x s).engine } := by
      unfold formatDropped; rw [answerOpt_frame]
    have h := enterReadOnly_touches c (formatDropped x s)
    rw [reportEnding_of_format hx]
    refine ⟨?_, fun hs => ?_, fun k => KeepsFull.trans (.of_segAt ?_) (h.full k), fun hw => h.waiting ?_⟩
    · refine h.frame.trans ?_
      rw [hdropped]
    · have e := h.stranded (by rw [hdropped]; exact hs)
      rw [e, hdropped]
    · rw [hdropped]; rfl
    · rw [hdropped]; exact hw

theorem reportEnding_ready {s : State} (hmode : s.startup.mode = .ready) (hformat : s.startup.format = none)
    (c : Cause) : (reportEnding c s).startup.mode = .readOnly ∧ (reportEnding c s).startup.cause = some c := by
  have e : reportEnding c s = enterReadOnly c s := by
    rw [reportEnding_of_no_format hformat, reportCause, hmode]
  rw [e, enterReadOnly_startup]
  exact ⟨rfl, rfl⟩

/-- A slot that no report is about: neither HELD nor of a COMPACT, a waiting HOST entry or a FORMAT. -/
structure ApartFromReports (n : Nat) (sl : Slot) (s : State) : Prop where
  slot : slotAt n s = some sl
  notHeld : sl.state ≠ .held
  notCompact : n ∉ s.comp.compacts.map CompactWait.slot
  notWaiting : ∀ k v, s.host.waiting ≠ some (.host n k v)
  notFormat : ∀ x, s.startup.format = some x → x.slot ≠ some n

theorem slotAt_reportEnding {n : Nat} {sl : Slot} {s : State} (hs : Store.Canonical s.link.slots)
    (h : ApartFromReports n sl s) (c : Cause) : slotAt n (reportEnding c s) = some sl := by
  have henters (t : State) (ht : Store.Canonical t.link.slots) (hslot : slotAt n t = some sl)
      (hcomp : t.comp = s.comp) (hhost : t.host = s.host) : slotAt n (enterReadOnly c t) = some sl := by
    have hcompacts : n ∉ t.comp.compacts.map CompactWait.slot := by rw [hcomp]; exact h.notCompact
    have hwaiting : ∀ k v, t.host.waiting ≠ some (.host n k v) := by rw [hhost]; exact h.notWaiting
    exact slotAt_readOnlyEffects_other (s := changeMode .readOnly (some c) t) ht hslot hcompacts hwaiting h.notHeld
  cases hx : s.startup.format with
  | none =>
    rw [reportEnding_of_no_format hx]
    rcases reportCause_cases c s with ⟨_, e⟩ | ⟨_, e | e⟩
    · rw [e]; exact henters s hs h.slot rfl rfl
    · rw [e]; exact h.slot
    · rw [e]; exact h.slot
  | some x =>
    rw [reportEnding_of_format hx]
    refine henters (formatDropped x s) (slotsCanonical_stable.keeps_answerOpt x.slot .mediaFault .none hs) ?_ ?_ ?_
    · exact (slotAt_answerOpt_other (h.notFormat x hx) ..).trans h.slot
    · rw [formatDropped, answerOpt_frame]
    · rw [formatDropped, answerOpt_frame]

/-! ## What stranding answers (R61(1)) -/

theorem faultPage_frame (page : Option (Nat × Nat)) (s : State) : faultPage page s =
    { s with link := { s.link with slots := (faultPage page s).link.slots }, engine := (faultPage page s).engine } := by
  unfold faultPage
  split
  · rfl
  · exact answerAll_frame ..

theorem faultSyncs_frame (s : State) : faultSyncs s = { s with
    syncMarks := (faultSyncs s).syncMarks
    link := { s.link with slots := (faultSyncs s).link.slots }, engine := (faultSyncs s).engine } := by
  unfold faultSyncs
  split
  · rfl
  · dsimp only; rw [answerAll_frame]

/-- A slot as it stands while stranding answers: as it was, or answered MEDIA_FAULT. -/
def FaultedOr (answered : Prop) (n : Nat) (sl : Slot) (s : State) : Prop :=
  slotAt n s = some (Slot.answered .mediaFault .none sl) ∨ (¬ answered ∧ slotAt n s = some sl)

theorem FaultedOr.answerAll {a : Prop} {n : Nat} {sl : Slot} {s : State} {ns : List Nat} (h : FaultedOr a n sl s) :
    FaultedOr (a ∨ n ∈ ns) n sl (answerAll ns .mediaFault .none s) := by
  unfold FaultedOr
  rw [slotAt_answerAll]
  by_cases hn : n ∈ ns
  · left
    rw [if_pos hn]
    rcases h with e | ⟨_, e⟩ <;> rw [e] <;> rfl
  · rw [if_neg hn]
    rcases h with e | ⟨ha, e⟩
    · exact .inl e
    · exact .inr ⟨not_or.mpr ⟨ha, hn⟩, e⟩

theorem FaultedOr.weaken {a b : Prop} {n : Nat} {sl : Slot} {s : State} (h : FaultedOr a n sl s) (hb : b → a) :
    FaultedOr b n sl s :=
  h.imp_right fun ⟨ha, e⟩ => ⟨fun x => ha (hb x), e⟩

/-- The slot of a request that waits for a page. -/
def WaitsFor (sl : Slot) (page : Nat × Nat) : Prop :=
  sl.state = .awaitingCommit ∧ ∃ w, sl.wait = some w ∧ (w.seg, w.page) = page

theorem mem_slotsWaitingFor {s : State} (hs : Store.Canonical s.link.slots) {n g p : Nat} :
    n ∈ slotsWaitingFor g p s ↔ ∃ sl, slotAt n s = some sl ∧ WaitsFor sl (g, p) := by
  rw [slotsWaitingFor, mem_slotsWhere hs]
  refine exists_congr fun sl => and_congr_right fun _ => ?_
  cases hw : sl.wait <;> simp [WaitsFor, hw]

theorem FaultedOr.faultPage {a : Prop} {n : Nat} {sl : Slot} {s : State} (hs : Store.Canonical s.link.slots)
    (h : FaultedOr a n sl s) (page : Option (Nat × Nat)) :
    FaultedOr (a ∨ ∃ d, page = some d ∧ WaitsFor sl d) n sl (faultPage page s) := by
  cases page with
  | none => exact h.weaken fun x => x.elim (fun ha => ha) (fun ⟨_, hd, _⟩ => by cases hd)
  | some d =>
    rcases h with e | ⟨ha, e⟩
    · have hfaulted : FaultedOr True n sl s := .inl e
      exact (hfaulted.answerAll (ns := slotsWaitingFor d.1 d.2 s)).weaken fun _ => .inl trivial
    · have hasked : FaultedOr a n sl s := .inr ⟨ha, e⟩
      refine (hasked.answerAll (ns := slotsWaitingFor d.1 d.2 s)).weaken fun x => x.imp_right ?_
      rintro ⟨d', hd, hwaits⟩
      cases hd
      exact (mem_slotsWaitingFor hs).mpr ⟨sl, e, hwaits⟩

theorem lowestOf_le {l : List Nat} {q : Nat} (h : q ∈ l) : ∃ low, lowestOf l = some low ∧ low ≤ q := by
  induction l with
  | nil => cases h
  | cons a rest ih =>
    cases hrest : lowestOf rest with
    | none =>
      rcases List.mem_cons.mp h with rfl | hq
      · exact ⟨q, by simp [lowestOf, hrest], Nat.le_refl q⟩
      · obtain ⟨low, hlow, _⟩ := ih hq
        rw [hrest] at hlow
        cases hlow
    | some b =>
      refine ⟨min a b, by simp [lowestOf, hrest], ?_⟩
      rcases List.mem_cons.mp h with rfl | hq
      · exact Nat.min_le_left ..
      · obtain ⟨low, hlow, hle⟩ := ih hq
        rw [hrest] at hlow
        cases hlow
        exact (Nat.min_le_right ..).trans hle

/-- The slot's SYNC covers an entry of the HOST stream that is not programmed (R61(1)). -/
def CoversStranded (n : Nat) (s : State) : Prop :=
  ∃ m ∈ s.syncMarks, m.slot = n ∧ ∃ q ∈ seqsOf s.host.pendingEntries, q ≤ m.mark

theorem coversStranded_faultPage (n : Nat) (page : Option (Nat × Nat)) (s : State) :
    CoversStranded n (faultPage page s) ↔ CoversStranded n s := by
  rw [CoversStranded, faultPage_frame]
  rfl

theorem FaultedOr.faultSyncs {a : Prop} {n : Nat} {sl : Slot} {s : State} (h : FaultedOr a n sl s) :
    FaultedOr (a ∨ CoversStranded n s) n sl (faultSyncs s) := by
  unfold Machine.faultSyncs
  split
  · next hnone =>
    refine h.weaken fun x => x.elim (fun ha => ha) ?_
    rintro ⟨m, _, _, q, hq, _⟩
    obtain ⟨low, hlow, _⟩ := lowestOf_le hq
    rw [hnone] at hlow
    cases hlow
  · next low hlow =>
    have hmarked : FaultedOr a n sl { s with syncMarks := s.syncMarks.filter (fun m => decide (m.mark < low)) } := h
    refine hmarked.answerAll.weaken fun x => x.imp_right ?_
    rintro ⟨m, hm, rfl, q, hq, hle⟩
    obtain ⟨low', hlow', hlq⟩ := lowestOf_le hq
    cases hlow.symm.trans hlow'
    exact List.mem_map.mpr ⟨m, List.mem_filter.mpr ⟨hm, decide_eq_true (hlq.trans hle)⟩, rfl⟩

/-- The HOST stream's answers before its waiting entry is dropped (R61(1)). -/
def hostFaulted (f : InFlight) (dest : Option (Nat × Nat)) (s : State) : State :=
  faultSyncs (faultPage dest (faultPage (some (f.seg, f.page)) { s with commitTimer := none }))

theorem hostFaulted_frame (f : InFlight) (dest : Option (Nat × Nat)) (s : State) : hostFaulted f dest s = { s with
    commitTimer := none, syncMarks := (hostFaulted f dest s).syncMarks
    link := { s.link with slots := (hostFaulted f dest s).link.slots }, engine := (hostFaulted f dest s).engine } := by
  unfold hostFaulted
  rw [faultSyncs_frame, faultPage_frame dest, faultPage_frame (some (f.seg, f.page))]

theorem hostFaulted_slot {n : Nat} {sl : Slot} {f : InFlight} {dest : Option (Nat × Nat)} {s : State}
    (hs : Store.Canonical s.link.slots) (hsl : slotAt n s = some sl)
    (h : WaitsFor sl (f.seg, f.page) ∨ (∃ d, dest = some d ∧ WaitsFor sl d) ∨ CoversStranded n s) :
    slotAt n (hostFaulted f dest s) = some (Slot.answered .mediaFault .none sl) := by
  let s0 : State := { s with commitTimer := none }
  let s1 := faultPage (some (f.seg, f.page)) s0
  have h0 : FaultedOr False n sl s0 := .inr ⟨fun x => x, hsl⟩
  have h1 := h0.faultPage (s := s0) hs (some (f.seg, f.page))
  have hs1 : Store.Canonical s1.link.slots := slotsCanonical_stable.keeps_faultPage _ (s := s0) hs
  have h2 := (h1.faultPage hs1 dest).faultSyncs
  refine h2.resolve_right fun hnot => hnot.1 ?_
  rcases h with hflight | hbuffer | hcovers
  · exact .inl (.inl (.inr ⟨_, rfl, hflight⟩))
  · exact .inl (.inr hbuffer)
  · right
    exact (coversStranded_faultPage ..).mpr ((coversStranded_faultPage ..).mpr hcovers)

theorem strandAnswers_frame (id : StreamId) (f : InFlight) (dest : Option (Nat × Nat)) (s : State) :
    strandAnswers id f dest s = { s with
      commitTimer := if id = .host then none else s.commitTimer
      syncMarks := (strandAnswers id f dest s).syncMarks
      link := { s.link with slots := (strandAnswers id f dest s).link.slots }
      engine := (strandAnswers id f dest s).engine
      host := { s.host with waiting := (strandAnswers id f dest s).host.waiting } } := by
  cases id with
  | relocate => rfl
  | host =>
    have h : strandAnswers .host f dest s = dropHostWaiting (hostFaulted f dest s) := rfl
    rw [h, dropHostWaiting_frame, hostFaulted_frame]
    rfl

/-! ## The stranded stream (R61) -/

/-- The marks of a stranded stream (R61). -/
def Stream.strandedAt (dest : Option (Nat × Nat)) (st : Stream) : Stream :=
  { st with stranded := true, strandedDest := dest }

/-- Stream `id` is stranded, with its pages kept, which brings `s` to `t` (R61, R62). -/
structure Stranded (id : StreamId) (dest : Option (Nat × Nat)) (s t : State) : Prop where
  frame : t = { s with
    startup := t.startup, link := { s.link with slots := t.link.slots, notices := t.link.notices }
    engine := t.engine, segs := t.segs, arr := t.arr, comp := t.comp, host := t.host, reloc := t.reloc
    commitTimer := t.commitTimer, syncMarks := t.syncMarks }
  stream : streamOf id t = { (streamOf id s).strandedAt dest with waiting := (streamOf id t).waiting }
  full : ∀ h, KeepsFull h s t
  mode : s.startup.mode = .ready → s.startup.format = none →
    t.startup.mode = .readOnly ∧ t.startup.cause = some .noSpaceForRetry
  timer : id = .host → t.commitTimer = none
  waiting : id = .host → (∀ e l, s.host.waiting ≠ some (.copy e l)) → t.host.waiting = none

theorem strand_stranded (id : StreamId) (f : InFlight) (dest : Option (Nat × Nat)) (s : State) :
    Stranded id dest s (strand id f dest s) := by
  let m := modStream id (Stream.strandedAt dest) s
  let w := strandAnswers id f dest m
  have ht : strand id f dest s = reportEnding .noSpaceForRetry w := rfl
  have hm : m = { s with host := m.host, reloc := m.reloc } := by cases id <;> rfl
  have hw : w = _ := strandAnswers_frame id f dest m
  have hr := reportEnding_touches .noSpaceForRetry w
  have hstartup : w.startup = s.startup := by rw [hw, hm]
  have hsegs (h : Nat) : segAt h w = segAt h s := by rw [hw]; exact segAt_modStream ..
  rw [ht]
  constructor
  case frame =>
    have e := hr.frame
    generalize reportEnding .noSpaceForRetry w = t at e ⊢
    clear_value w m
    rw [e, hw, hm]
  case stream =>
    cases id with
    | host =>
      refine (congrArg State.host hr.frame).trans ?_
      rw [hw]; rfl
    | relocate =>
      refine (hr.stranded ?_).trans ?_
      · rw [hw]; rfl
      · rw [hw]; rfl
  case full => exact fun h => KeepsFull.trans (.of_segAt (hsegs h)) (hr.full h)
  case mode => exact fun hmode hformat => reportEnding_ready (hstartup ▸ hmode) (hstartup ▸ hformat) _
  case timer =>
    rintro rfl
    rw [hr.frame, hw]; rfl
  case waiting =>
    rintro rfl hcopy
    refine hr.waiting (dropHostWaiting_waiting (s := hostFaulted f dest m) fun e l => ?_)
    rw [hostFaulted_frame]
    exact hcopy e l

/-- The waiting slots of either page and the SYNC marks that cover a stranded entry are answered MEDIA_FAULT (R61(1)). -/
theorem strand_slot {n : Nat} {sl : Slot} {f : InFlight} {dest : Option (Nat × Nat)} {s : State}
    (hs : Store.Canonical s.link.slots) (hapart : ApartFromReports n sl s)
    (h : WaitsFor sl (f.seg, f.page) ∨ (∃ d, dest = some d ∧ WaitsFor sl d) ∨ CoversStranded n s) :
    slotAt n (strand .host f dest s) = some (Slot.answered .mediaFault .none sl) := by
  let m := modStream .host (Stream.strandedAt dest) s
  let b := hostFaulted f dest m
  have ht : strand .host f dest s = reportEnding .noSpaceForRetry (dropHostWaiting b) := rfl
  have hb : b = _ := hostFaulted_frame f dest m
  have hslot : slotAt n b = some (Slot.answered .mediaFault .none sl) := hostFaulted_slot (s := m) hs hapart.slot h
  have hwaiting : b.host.waiting = s.host.waiting := by rw [hb]; rfl
  have hwaits : ∀ k v, b.host.waiting ≠ some (.host n k v) := by rw [hwaiting]; exact hapart.notWaiting
  have hcanonical : Store.Canonical (dropHostWaiting b).link.slots := by
    refine slotsCanonical_stable.keeps_dropHostWaiting ?_
    exact slotsCanonical_placing.keeps_faultSyncs (slotsCanonical_stable.keeps_faultPage _
      (slotsCanonical_stable.keeps_faultPage _ hs))
  have hnone : ∀ k v, (dropHostWaiting b).host.waiting ≠ some (.host n k v) := by
    intro k v e
    unfold dropHostWaiting at e
    split at e
    · cases e
    · exact hwaits k v e
  rw [ht]
  refine slotAt_reportEnding hcanonical ⟨?_, by simp [Slot.answered], ?_, hnone, ?_⟩ _
  · exact (slotAt_dropHostWaiting_other hwaits).trans hslot
  · rw [dropHostWaiting_frame, hb]; exact hapart.notCompact
  · rw [dropHostWaiting_frame, hb]; exact hapart.notFormat

end Sys2Proof.Machine


/-! # The program of a stream's page fails (R37, R60, R61, R66, R73) -/

namespace Sys2Proof.Machine

/-! ## Where the failed page goes (R60(1), (2), R61) -/

/-- `u` is `s` after its segment has failed and segment `g` has been found for the retry of page `f` (R60). -/
structure RetryFound (id : StreamId) (f : InFlight) (g : Nat) (s u : State) : Prop where
  frame : u = { s with
    segs := u.segs, urgent := u.urgent, ordinary := u.ordinary, commitTimer := u.commitTimer, arr := u.arr
    comp := { s.comp with noGain := u.comp.noGain }, host := u.host, reloc := u.reloc, nextStamp := u.nextStamp
    freeCount := u.freeCount, lowFree := u.lowFree, link := { s.link with notices := u.link.notices } }
  stream : streamOf id u = { streamOf id s with openSeg := some g }
  urgent : u.urgent = (failSegment id f.seg s).urgent
  ordinary : u.ordinary = (failSegment id f.seg s).ordinary
  failed : g ≠ f.seg → segAt f.seg u = segAt f.seg (failSegment id f.seg s)
  known : g ≠ f.seg → ∀ r, segAt g s = some r → ∃ r', segAt g u = some r'
  beside : Store.Canonical s.segs → segState f.seg s ≠ some .free → g ≠ f.seg

section
variable {id : StreamId} {f : InFlight} {g : Nat} {s u : State}

/-- The segment that the stream has open beside the failed one serves for the retry (R60(1)). -/
theorem retryFound_open (h : (streamOf id (failSegment id f.seg s)).openSeg = some g) :
    RetryFound id f g s (failSegment id f.seg s) := by
  have hfails := failSegment_fails id f.seg s
  have hopen := h
  rw [hfails.stream] at hopen
  refine ⟨hfails.frame.trans ?_, ?_, rfl, rfl, fun _ => rfl, fun hne r hr => ⟨r, (hfails.other g hne).trans hr⟩,
    fun _ _ e => hfails.openSeg_ne (e ▸ h)⟩
  · rw [hfails.frame]
  · rw [hfails.stream, ← hopen]

/-- The failed segment is FREE after the failure only if it was before. -/
theorem SegmentFails.state_free {t : State} (h : SegmentFails id f.seg s t) {n : Nat}
    (hfree : segState n t = some .free) : segState n s = some .free := by
  by_cases hn : n = f.seg
  · subst hn
    rcases h.state with e | e
    · exact e.symm.trans hfree
    · rw [hfree] at e; cases e
  · rw [segState, ← h.other n hn]; exact hfree

theorem SegmentFails.waiting {t : State} (h : SegmentFails id f.seg s t) :
    (streamOf id t).waiting = (streamOf id s).waiting := by
  rw [h.stream]

/-- The stream keeps its pages when its segment fails (R62). -/
theorem SegmentFails.pendingEntries {t : State} (h : SegmentFails id f.seg s t) :
    (streamOf id t).pendingEntries = (streamOf id s).pendingEntries := by
  rw [h.stream]; rfl

/-- A segment opened for the retry serves for it: one that was FREE (R60(2), R32). -/
theorem retryFound_opened (h : openSegment id true (failSegment id f.seg s) = some u) :
    ∃ g, RetryFound id f g s u ∧
      (Store.Canonical s.segs → segState g s = some .free ∧ segState g u = some .opened) := by
  obtain ⟨stamp, g, r, -, hleast, -, rfl⟩ := openSegment_eq_some_iff.mp h
  have hfails := failSegment_fails id f.seg s
  have hchosen (hs : Store.Canonical s.segs) :
      segAt g (failSegment id f.seg s) = some r ∧ segState g s = some .free := by
    obtain ⟨hmem, hfree⟩ := leastWornFree_free hleast
    have hr : segAt g (failSegment id f.seg s) = some r :=
      Store.get_of_mem (segsCanonical_stable.keeps_failSegment id f.seg hs) hmem
    exact ⟨hr, hfails.state_free (by rw [segState, hr, Option.map_some, hfree])⟩
  refine ⟨g, ⟨?_, ?_, ?_, ?_, fun hne => ?_, fun hne r hr => ?_, fun hs hfailed hg => ?_⟩,
    fun hs => ⟨(hchosen hs).2, ?_⟩⟩
  · rw [grantSegment_frame, hfails.frame]; cases id <;> rfl
  · rw [streamOf_grantSegment, hfails.stream]
  · rw [grantSegment_frame]; cases id <;> rfl
  · rw [grantSegment_frame]; cases id <;> rfl
  · rw [segAt_grantSegment, if_neg (Ne.symm hne)]
  · rw [segAt_grantSegment, if_pos rfl, hfails.other g hne, hr]
    exact ⟨_, rfl⟩
  · exact hfailed (hg ▸ (hchosen hs).2)
  · rw [segState, segAt_grantSegment, if_pos rfl, (hchosen hs).1]; rfl

theorem pageFailed_retargets (hf : (streamOf id s).inFlight = some f)
    (h : (streamOf id (failSegment id f.seg s)).openSeg = some g) :
    pageFailed id s = retarget id f (bufferDest id s) g (failSegment id f.seg s) := by
  simp only [pageFailed, hf, h]

theorem pageFailed_retargets_opened (hf : (streamOf id s).inFlight = some f)
    (hnone : (streamOf id (failSegment id f.seg s)).openSeg = none)
    (h : openSegment id true (failSegment id f.seg s) = some u) (hg : (streamOf id u).openSeg = some g) :
    pageFailed id s = retarget id f (bufferDest id s) g u := by
  simp only [pageFailed, hf, hnone, h, hg]

theorem pageFailed_strands (hf : (streamOf id s).inFlight = some f)
    (hnone : (streamOf id (failSegment id f.seg s)).openSeg = none)
    (h : openSegment id true (failSegment id f.seg s) = none) :
    pageFailed id s = strand id f (bufferDest id s) (failSegment id f.seg s) := by
  simp only [pageFailed, hf, hnone, h]

/-- A failed program is retargeted or strands its stream (R60, R61). -/
theorem pageFailed_cases (hf : (streamOf id s).inFlight = some f) :
    (∃ g u, RetryFound id f g s u ∧ pageFailed id s = retarget id f (bufferDest id s) g u) ∨
    ((streamOf id (failSegment id f.seg s)).openSeg = none ∧
      pageFailed id s = strand id f (bufferDest id s) (failSegment id f.seg s)) := by
  cases hopen : (streamOf id (failSegment id f.seg s)).openSeg with
  | some g => exact .inl ⟨g, _, retryFound_open hopen, pageFailed_retargets hf hopen⟩
  | none =>
    cases hask : openSegment id true (failSegment id f.seg s) with
    | none => exact .inr ⟨rfl, pageFailed_strands hf hopen hask⟩
    | some u =>
      obtain ⟨g, hfound, _⟩ := retryFound_opened hask
      exact .inl ⟨g, u, hfound, pageFailed_retargets_opened hf hopen hask (by rw [hfound.stream])⟩

/-! ## What every failed program keeps (R27, R61, R62) -/

/-- No entry of the stream is lost, no sequence is taken, no page changes, and the index lists the same keys. -/
structure EntriesKept (id : StreamId) (s t : State) : Prop where
  entries : (streamOf id t).pendingEntries = (streamOf id s).pendingEntries
  nextSeq : t.nextSeq = s.nextSeq
  flash : t.flash = s.flash
  keys : t.index.map Prod.fst = s.index.map Prod.fst

theorem pendingEntries_of_inFlight {st : Stream} (h : st.inFlight = some f) :
    st.pendingEntries = f.placed ++ st.buffer := by
  rw [Stream.pendingEntries, h]; rfl

theorem pageFailed_keeps (id : StreamId) {s : State} (hs : Store.Canonical s.index) :
    EntriesKept id s (pageFailed id s) := by
  cases hf : (streamOf id s).inFlight with
  | none =>
    have e : pageFailed id s = s := by simp only [pageFailed, hf]
    rw [e]
    exact ⟨rfl, rfl, rfl, rfl⟩
  | some f =>
    rcases pageFailed_cases hf with ⟨g, u, hfound, e⟩ | ⟨_, e⟩
    · have hu : u.nextSeq = s.nextSeq ∧ u.flash = s.flash ∧ u.index = s.index := by
        rw [hfound.frame]; exact ⟨rfl, rfl, rfl⟩
      obtain ⟨hseq, hflash, hindex⟩ := hu
      have ht := retarget_retargeted id f (bufferDest id s) g (s := u) (by rw [hindex]; exact hs)
      rw [e]
      refine ⟨?_, ?_, ?_, ht.keys.trans (by rw [hindex])⟩
      · rw [ht.stream, hfound.stream, pendingEntries_of_inFlight hf]; rfl
      · rw [ht.frame]; exact hseq
      · rw [ht.frame]; exact hflash
    · have hfails := failSegment_fails id f.seg s
      have ht := strand_stranded id f (bufferDest id s) (failSegment id f.seg s)
      rw [e]
      refine ⟨?_, ?_, ?_, ?_⟩
      · rw [ht.stream, hfails.stream]; rfl
      · rw [ht.frame, hfails.frame]
      · rw [ht.frame, hfails.frame]
      · rw [ht.frame, hfails.frame]

/-- PROGRAM_COMPLETION FAIL of a stream's page leaves the page of unknown content (R73). -/
theorem exec_streamProgramFailed {p : Nat} {data : PageData} (hheld : isHeld s = false)
    (hop : s.arr.op = some (.program (streamOrigin id) g p data)) :
    exec (.programCompletion false) s = .next (settleAfterOp (pageFailed id { s with
      arr := { s.arr with op := none }, flash := Store.put (pageAddr g p) ⟨some data, .unknown⟩ s.flash })) := by
  rw [exec_programCompletion hheld hop]
  cases id <;> rfl

/-! ## The failed segment after the retry or the stranding (R37, R60) -/

theorem pageFailed_record {r : SegRec} (hs : Store.Canonical s.index) (hsegs : Store.Canonical s.segs)
    (hf : (streamOf id s).inFlight = some f) (hr : segAt f.seg s = some r)
    (hstate : r.state = .full ∨ (r.state = .opened ∧ (streamOf id s).openSeg = some f.seg)) :
    ∃ r', segAt f.seg (pageFailed id s) = some r' ∧ FailedRecord r r' ∧
      FailedQueue f.seg r s r'.reason (pageFailed id s).urgent (pageFailed id s).ordinary := by
  obtain ⟨r1, hr1, hrec, hqueue⟩ := failSegment_record hr hstate
  rcases pageFailed_cases hf with ⟨g, u, hfound, e⟩ | ⟨_, e⟩
  · have hnotFree : segState f.seg s ≠ some .free := by
      rcases hstate with h | ⟨h, _⟩ <;> rw [segState, hr, Option.map_some, h] <;> decide
    have hne := hfound.beside hsegs hnotFree
    have hindex : u.index = s.index := by rw [hfound.frame]
    have ht := retarget_retargeted id f (bufferDest id s) g (s := u) (by rw [hindex]; exact hs)
    obtain ⟨k, hk, hseg⟩ := ht.other f.seg (Ne.symm hne)
    obtain ⟨hrec', hreason⟩ := hrec.of_sameButLive (hk r1)
    rw [e]
    refine ⟨k r1, by rw [hseg, hfound.failed hne, hr1]; rfl, hrec', ?_⟩
    rw [hreason, ht.frame, hfound.urgent, hfound.ordinary]
    exact hqueue
  · have ht := strand_stranded id f (bufferDest id s) (failSegment id f.seg s)
    obtain ⟨r2, hr2, hrec', hreason⟩ := hrec.of_keepsFull hr1 (ht.full f.seg)
    rw [e]
    refine ⟨r2, hr2, hrec', ?_⟩
    rw [hreason, ht.frame]
    exact hqueue

/-! ## The retry (R60) -/

/-- A stream that has another segment open beside the failed one keeps it (R60(1)). -/
theorem pageFailed_openSeg (hs : Store.Canonical s.index) (hf : (streamOf id s).inFlight = some f)
    (hopen : (streamOf id s).openSeg = some g) (hne : g ≠ f.seg) :
    (streamOf id (pageFailed id s)).openSeg = some g := by
  have hfails := failSegment_fails id f.seg s
  have hkept := hfails.openSeg_other hopen hne
  have ht := retarget_retargeted id f (bufferDest id s) g (s := failSegment id f.seg s) (by rw [hfails.frame]; exact hs)
  rw [pageFailed_retargets hf hkept, ht.stream]
  exact hkept

/-- The ask for the retry fails only when no segment is FREE or no open stamp is left (R32, R34). -/
theorem failSegment_ask_none (hsegs : Store.Canonical s.segs) (h : openSegment id true (failSegment id f.seg s) = none) :
    s.nextStamp = none ∨ ∀ n x, segAt n s = some x → n ≠ f.seg → x.state ≠ .free := by
  have hfails := failSegment_fails id f.seg s
  rcases (openSegment_eq_none_iff (segsCanonical_stable.keeps_failSegment id f.seg hsegs)).mp h with e | e | ⟨_, e, _⟩
  · left; rw [← e, hfails.frame]
  · exact .inr fun n x hx hne => e n x ((hfails.other n hne).trans hx)
  · cases e

/-- With a FREE segment and an open stamp, a stream that has no segment left opens one (R60(2)). -/
theorem pageFailed_opens (hs : Store.Canonical s.index) (hsegs : Store.Canonical s.segs)
    (hf : (streamOf id s).inFlight = some f)
    (hopen : (streamOf id s).openSeg = none ∨ (streamOf id s).openSeg = some f.seg) (hstamp : s.nextStamp ≠ none)
    (hfailed : segState f.seg s ≠ some .free) (hfree : ∃ h x, segAt h s = some x ∧ x.state = .free) :
    ∃ g, (streamOf id (pageFailed id s)).openSeg = some g ∧ g ≠ f.seg ∧ segState g s = some .free ∧
      segState g (pageFailed id s) = some .opened := by
  have hnone := (failSegment_fails id f.seg s).openSeg_none hopen
  obtain ⟨n, x, hx, hxfree⟩ := hfree
  cases hask : openSegment id true (failSegment id f.seg s) with
  | none =>
    rcases failSegment_ask_none hsegs hask with e | e
    · exact absurd e hstamp
    · refine absurd hxfree (e n x hx fun hn => hfailed ?_)
      rw [← hn, segState, hx, Option.map_some, hxfree]
  | some u =>
    obtain ⟨g, hfound, hchosen⟩ := retryFound_opened hask
    have hstream : (streamOf id u).openSeg = some g := by rw [hfound.stream]
    have ht := retarget_retargeted id f (bufferDest id s) g (s := u) (by rw [hfound.frame]; exact hs)
    obtain ⟨k, hk, hseg⟩ := ht.opened
    obtain ⟨hwas, hopened⟩ := hchosen hsegs
    rw [pageFailed_retargets_opened hf hnone hask hstream]
    refine ⟨g, ?_, hfound.beside hsegs hfailed, hwas, ?_⟩
    · rw [ht.stream]; exact hstream
    · have hstate : SegRec.state ∘ k = SegRec.state := funext fun r => (hk r).1
      rw [segState, hseg, Option.map_map, hstate]
      exact hopened

/-- The page that a page becomes: the one in flight page 1 of segment `g`, the buffer's page 2 (R60). -/
def retriedPage (f : InFlight) (dest : Option (Nat × Nat)) (g seg page : Nat) : Nat × Nat :=
  if (seg, page) = (f.seg, f.page) then (g, 1) else if dest = some (seg, page) then (g, 2) else (seg, page)

theorem PageWait.follow_twice {dest : Option (Nat × Nat)} (hg : g ≠ f.seg) (hdest : dest ≠ some (f.seg, f.page))
    (w : PageWait) : (w.follow dest (g, 2)).follow (some (f.seg, f.page)) (g, 1) =
      { w with seg := (retriedPage f dest g w.seg w.page).1, page := (retriedPage f dest g w.seg w.page).2 } := by
  by_cases hflight : (w.seg, w.page) = (f.seg, f.page)
  · have hnot : dest ≠ some (w.seg, w.page) := hflight ▸ hdest
    have hsame : w.follow dest (g, 2) = w := if_neg hnot
    rw [hsame, PageWait.follow, retriedPage, if_pos hflight, if_pos (congrArg some hflight.symm)]
  · by_cases hbuffer : dest = some (w.seg, w.page)
    · simp [PageWait.follow, retriedPage, hflight, hbuffer, Ne.symm hg]
    · simp [PageWait.follow, retriedPage, hflight, hbuffer, Ne.symm hflight]

/-- The index entry after the retry at segment `g` (R60(c)). -/
def IndexEntry.retried (f : InFlight) (dest : Option (Nat × Nat)) (g : Nat) (e : IndexEntry) : IndexEntry :=
  match e.loc? with
  | some l => if e.programmed = false then
      if (l.seg, l.page) = (f.seg, f.page) ∨ dest = some (l.seg, l.page) then
        e.movedTo ⟨(retriedPage f dest g l.seg l.page).1, (retriedPage f dest g l.seg l.page).2, l.cell⟩ else e
    else e
  | none => e

theorem IndexEntry.follow_of_page {e : IndexEntry} {l : Loc} (hl : e.loc? = some l) (hp : e.programmed = false)
    (new : Nat × Nat) : e.follow (some (l.seg, l.page)) new = e.movedTo ⟨new.1, new.2, l.cell⟩ := by
  simp [follow, hl, hp]

theorem IndexEntry.follow_of_other {e : IndexEntry} {old : Option (Nat × Nat)}
    (h : ∀ l, e.loc? = some l → e.programmed = false → old ≠ some (l.seg, l.page)) (new : Nat × Nat) :
    e.follow old new = e := by
  unfold follow
  split
  · next l hl => exact if_neg fun hc => h l hl hc.2 hc.1
  · rfl

theorem IndexEntry.loc_movedTo {e : IndexEntry} {l : Loc} (hl : e.loc? = some l) (d : Loc) :
    (e.movedTo d).loc? = some d := by
  cases e with
  | lost => cases hl
  | _ => rfl

theorem IndexEntry.follow_twice {dest : Option (Nat × Nat)} (hg : g ≠ f.seg) (hdest : dest ≠ some (f.seg, f.page))
    (e : IndexEntry) : (e.follow dest (g, 2)).follow (some (f.seg, f.page)) (g, 1) = e.retried f dest g := by
  cases hl : e.loc? with
  | none =>
    have hnone : ∀ l, e.loc? = some l → e.programmed = false → ∀ old, old ≠ some (l.seg, l.page) :=
      fun l h => by rw [hl] at h; cases h
    rw [follow_of_other fun l h hp => hnone l h hp _, follow_of_other fun l h hp => hnone l h hp _, retried, hl]
  | some l =>
    by_cases hp : e.programmed = false
    · by_cases hflight : (l.seg, l.page) = (f.seg, f.page)
      · have hnot : dest ≠ some (l.seg, l.page) := hflight ▸ hdest
        have hsame : e.follow dest (g, 2) = e := follow_of_other (fun x hx _ => by
          cases hl.symm.trans hx; exact hnot) _
        rw [hsame, ← hflight, follow_of_page hl hp]
        simp [retried, retriedPage, hl, hp, hflight]
      · by_cases hbuffer : dest = some (l.seg, l.page)
        · have hstays : (e.movedTo ⟨g, 2, l.cell⟩).follow (some (f.seg, f.page)) (g, 1) = e.movedTo ⟨g, 2, l.cell⟩ :=
            follow_of_other (fun x hx _ => by
              cases (loc_movedTo hl ⟨g, 2, l.cell⟩).symm.trans hx
              exact fun h => hg (congrArg Prod.fst (Option.some.inj h)).symm) _
          rw [hbuffer, follow_of_page hl hp, hstays]
          simp [retried, retriedPage, hl, hp, hflight]
        · have hsame : e.follow dest (g, 2) = e := follow_of_other (fun x hx _ => by
            cases hl.symm.trans hx; exact hbuffer) _
          rw [hsame, follow_of_other fun x hx _ => by
            cases hl.symm.trans hx; exact fun h => hflight (Option.some.inj h).symm]
          simp [retried, hl, hp, hflight, hbuffer]
    · rw [follow_of_other fun _ _ h => absurd h hp, follow_of_other fun _ _ h => absurd h hp]
      simp [retried, hl, hp]

/-- What the retry at segment `g` has made of `s` in `t` (R60(a) to (g)). -/
structure Retried (id : StreamId) (f : InFlight) (dest : Option (Nat × Nat)) (g : Nat) (s t : State) : Prop where
  inFlight : (streamOf id t).inFlight = some ⟨g, 1, f.placed, buildTrailer id (stampOf g t) 1 f.placed⟩
  claim : (⟨streamClass id, streamOrigin id, .program g 1
    (.entries f.placed (buildTrailer id (stampOf g t) 1 f.placed))⟩ : Claim) ∈
      (t.arr.place (streamClass id)).toList ++ t.arr.outside
  nextPage : ∀ r, segAt g s = some r → (segAt g t).bind SegRec.nextPage = some 2
  index : ∀ c, Store.get c t.index = (Store.get c s.index).map (IndexEntry.retried f dest g)
  slots : ∀ n, slotAt n t = (slotAt n s).map (fun sl => { sl with wait := sl.wait.map (fun w =>
    { w with seg := (retriedPage f dest g w.seg w.page).1, page := (retriedPage f dest g w.seg w.page).2 }) })

/-- A stream that has a segment open after its program failed has had its pages retargeted there. -/
theorem pageFailed_retried (hs : Store.Canonical s.index) (hf : (streamOf id s).inFlight = some f)
    (hdest : bufferDest id s ≠ some (f.seg, f.page)) (hopen : (streamOf id (pageFailed id s)).openSeg = some g)
    (hne : g ≠ f.seg) : Retried id f (bufferDest id s) g s (pageFailed id s) := by
  rcases pageFailed_cases hf with ⟨g', u, hfound, e⟩ | ⟨hnone, e⟩
  · have ht := retarget_retargeted id f (bufferDest id s) g' (s := u) (by rw [hfound.frame]; exact hs)
    have hg : g' = g := by
      rw [e, ht.stream, hfound.stream] at hopen
      exact Option.some.inj hopen
    subst hg
    rw [e]
    refine ⟨by rw [ht.stream], ht.claim, fun r hr => ?_, fun c => ?_, fun n => ?_⟩
    · obtain ⟨r', hr'⟩ := hfound.known hne r hr
      obtain ⟨k, hk, hseg⟩ := ht.opened
      rw [hseg, hr']
      exact (hk r').2
    · rw [ht.index, hfound.frame, funext (IndexEntry.follow_twice hne hdest)]
    · have hslots : slotAt n u = slotAt n s := by rw [hfound.frame]; rfl
      rw [ht.slots, hslots]
      refine congrArg (Option.map · _) (funext fun sl => ?_)
      simp only [Slot.follow, Option.map_map]
      exact congrArg (fun k => { sl with wait := sl.wait.map k }) (funext (PageWait.follow_twice hne hdest))
  · have ht := strand_stranded id f (bufferDest id s) (failSegment id f.seg s)
    rw [e, ht.stream] at hopen
    cases hnone.symm.trans hopen

/-! ## The stranding (R61) -/

/-- With no FREE segment or no open stamp, a stream that has no segment left is stranded (R60(2), R61, R33). -/
theorem pageFailed_no_segment (hsegs : Store.Canonical s.segs) (hf : (streamOf id s).inFlight = some f)
    (hopen : (streamOf id s).openSeg = none ∨ (streamOf id s).openSeg = some f.seg)
    (hno : (∀ h x, segAt h s = some x → x.state ≠ .free) ∨ s.nextStamp = none) :
    pageFailed id s = strand id f (bufferDest id s) (failSegment id f.seg s) := by
  have hfails := failSegment_fails id f.seg s
  refine pageFailed_strands hf (hfails.openSeg_none hopen) ?_
  rw [openSegment_eq_none_iff (segsCanonical_stable.keeps_failSegment id f.seg hsegs)]
  rcases hno with hfull | hstamp
  · refine .inr (.inl fun h x hx hfree => ?_)
    have hwas := hfails.state_free (n := h) (by rw [segState, hx, Option.map_some, hfree])
    obtain ⟨y, hy, hyfree⟩ := Option.map_eq_some_iff.mp hwas
    exact hfull h y hy hyfree
  · left; rw [hfails.frame]; exact hstamp

/-- What the stranding of stream `id` has made of `s` in `t` (R61). -/
structure StrandedAfter (id : StreamId) (dest : Option (Nat × Nat)) (s t : State) : Prop where
  stranded : (streamOf id t).stranded = true
  strandedDest : (streamOf id t).strandedDest = dest
  index : t.index = s.index
  mode : s.startup.mode = .ready → s.startup.format = none →
    t.startup.mode = .readOnly ∧ t.startup.cause = some .noSpaceForRetry
  timer : id = .host → t.commitTimer = none
  waiting : id = .host → (∀ e l, s.host.waiting ≠ some (.copy e l)) → t.host.waiting = none

theorem strand_after_failure (id : StreamId) (f : InFlight) (dest : Option (Nat × Nat)) (s : State) :
    StrandedAfter id dest s (strand id f dest (failSegment id f.seg s)) := by
  have hfails := failSegment_fails id f.seg s
  have ht := strand_stranded id f dest (failSegment id f.seg s)
  have hstartup : (failSegment id f.seg s).startup = s.startup := by rw [hfails.frame]
  refine ⟨by rw [ht.stream]; rfl, by rw [ht.stream]; rfl, by rw [ht.frame, hfails.frame], ?_, ht.timer, ?_⟩
  · exact hstartup ▸ ht.mode
  · rintro rfl hcopy
    refine ht.waiting rfl fun e l => ?_
    have hwaiting : (failSegment .host f.seg s).host.waiting = s.host.waiting := hfails.waiting
    rw [hwaiting]
    exact hcopy e l

theorem strand_slot_after_failure {n : Nat} {sl : Slot} {dest : Option (Nat × Nat)} (hs : Store.Canonical s.link.slots)
    (hapart : ApartFromReports n sl s)
    (h : WaitsFor sl (f.seg, f.page) ∨ (∃ d, dest = some d ∧ WaitsFor sl d) ∨ CoversStranded n s) :
    slotAt n (strand .host f dest (failSegment .host f.seg s)) = some (Slot.answered .mediaFault .none sl) := by
  have hfails := failSegment_fails .host f.seg s
  have hwaiting : (failSegment .host f.seg s).host.waiting = s.host.waiting := hfails.waiting
  have hpending : (failSegment .host f.seg s).host.pendingEntries = s.host.pendingEntries := hfails.pendingEntries
  have hsame : (failSegment .host f.seg s).link = s.link ∧ (failSegment .host f.seg s).startup = s.startup ∧
      (failSegment .host f.seg s).comp.compacts = s.comp.compacts ∧
      (failSegment .host f.seg s).syncMarks = s.syncMarks := by
    rw [hfails.frame]; exact ⟨rfl, rfl, rfl, rfl⟩
  obtain ⟨hlink, hstartup, hcompacts, hmarks⟩ := hsame
  refine strand_slot (by rw [hlink]; exact hs) ⟨?_, hapart.notHeld, ?_, ?_, ?_⟩ (h.imp_right (Or.imp_right fun hc => ?_))
  · rw [slotAt, hlink]; exact hapart.slot
  · rw [hcompacts]; exact hapart.notCompact
  · rw [hwaiting]; exact hapart.notWaiting
  · rw [hstartup]; exact hapart.notFormat
  · rw [CoversStranded, hmarks, hpending]; exact hc

end

/-! ## The obligation -/

/-- The entry into READ_ONLY keeps the HOST stream but for its waiting entry, and everything outside the work it ends. -/
theorem enterReadOnly_rest (c : Cause) (s : State) : (enterReadOnly c s).comp.compacts = [] ∧
    (enterReadOnly c s).host = { s.host with waiting := (enterReadOnly c s).host.waiting } ∧
    (enterReadOnly c s).index = s.index ∧ (enterReadOnly c s).spaces = s.spaces ∧ (enterReadOnly c s).flash = s.flash ∧
    (enterReadOnly c s).nextSeq = s.nextSeq ∧ (enterReadOnly c s).cat = s.cat ∧
    (enterReadOnly c s).freeCount = s.freeCount ∧ (enterReadOnly c s).params = s.params := by
  refine ⟨?_, ?_⟩
  · rw [enterReadOnly, readOnlyEffects_frame]
  · rw [(enterReadOnly_touches c s).frame]
    exact ⟨rfl, rfl, rfl, rfl, rfl, rfl, rfl, rfl⟩

theorem enterReadOnly_notices (c : Cause) (s : State) :
    (enterReadOnly c s).link.notices = pushNotice (.modeChanged .readOnly (some c)) s.link.notices := by
  rw [enterReadOnly, (readOnlyEffects_touches _).frame]
  rfl

/-- The waiting entry of a HOST request is dropped (R66). -/
theorem enterReadOnly_drops {c : Cause} {s : State} {n : Nat} {k : Key} {v : Option (List Byte)}
    (hw : s.host.waiting = some (.host n k v)) : (enterReadOnly c s).host.waiting = none := by
  rw [enterReadOnly, readOnlyEffects_host]
  refine dropHostWaiting_waiting (s := changeMode .readOnly (some c) s) fun e l hcopy => ?_
  cases hw.symm.trans hcopy

theorem not_mem_compactSlots {n : Nat} {s : State} (h : ∀ x ∈ s.comp.compacts, x.slot ≠ n) :
    n ∉ s.comp.compacts.map CompactWait.slot := fun hn => by
  obtain ⟨x, hx, hslot⟩ := List.mem_map.mp hn
  exact h x hx hslot

/-- Settles O41: each clause is a fact above about `pageFailed`, by `pageFailed_cases`, or about the entry into READ_ONLY. -/
theorem programFailureKeepsTheEntries : Obligations.ProgramFailureKeepsTheEntries := by
  unfold Obligations.ProgramFailureKeepsTheEntries
  refine ⟨fun id s hs => ?_, fun id s g p data => exec_streamProgramFailed,
    fun id s f hindex hslots hsegs hf hdest => ⟨fun r hr hstate => ?_, fun g => pageFailed_openSeg hindex hf,
      pageFailed_opens hindex hsegs hf, fun g hopen hne => ?_, fun hopen hno => ?_⟩,
    fun c s => ?_⟩
  · have h := pageFailed_keeps id hs
    exact ⟨by rw [h.entries], h.nextSeq, h.flash, h.keys⟩
  · obtain ⟨r', hr', hrec, hqueue⟩ := pageFailed_record hindex hsegs hf hr hstate
    exact ⟨r', hr', hrec.full, hrec.openStamp, hrec.lowestSeq, hrec.eraseCount, hrec.strikes, hrec.closed, hqueue⟩
  · have h := pageFailed_retried hindex hf hdest hopen hne
    exact ⟨⟨_, h.inFlight, rfl, h.claim⟩, h.nextPage, h.index, h.slots⟩
  · have e := pageFailed_no_segment hsegs hf hopen hno
    have h := strand_after_failure id f (bufferDest id s) s
    rw [← e] at h
    refine ⟨h.stranded, h.strandedDest, h.index, h.mode, fun hid => ⟨h.timer hid, h.waiting hid, ?_⟩⟩
    subst hid
    intro n sl hsl hwaits hcompacts hwaiting hformat hcovered
    rw [e]
    refine strand_slot_after_failure hslots
      ⟨hsl, by rw [hwaits]; decide, not_mem_compactSlots hcompacts, hwaiting, hformat⟩ ?_
    rcases hcovered with ⟨w, hw, hflight | hbuffer⟩ | hcovers
    · exact .inl ⟨hwaits, w, hw, hflight⟩
    · exact .inr (.inl ⟨_, hbuffer, hwaits, w, hw, rfl⟩)
    · exact .inr (.inr hcovers)
  · obtain ⟨hcompacts, hrest⟩ := enterReadOnly_rest c s
    refine ⟨enterReadOnly_startup c s, enterReadOnly_notices c s, hcompacts, fun k hk sl hsl => ?_,
      fun n k v sl hw hsl => ⟨enterReadOnly_drops hw, fun hn => ?_⟩, fun n sl hs hheld hsl hn => ?_, fun v hv => ?_,
      fun v r hv herasing hheader hr => ?_, fun g p => readOnlyEffects_commits (s := changeMode .readOnly (some c) s),
      fun x hx => readOnlyEffects_patrol_claims hx, hrest⟩
    · exact (slotAt_readOnlyEffects_compact (s := changeMode .readOnly (some c) s) (List.mem_map.mpr ⟨k, hk, rfl⟩)).trans
        (congrArg (Option.map _) hsl)
    · exact (slotAt_readOnlyEffects_waiting (s := changeMode .readOnly (some c) s) (not_mem_compactSlots hn) hw).trans
        (congrArg (Option.map _) hsl)
    · exact (slotAt_readOnlyEffects_held (s := changeMode .readOnly (some c) s) (not_mem_compactSlots hn) hheld).trans
        (congrArg (Option.map _) hsl)
    · obtain ⟨hwas, hnot⟩ := readOnlyEffects_victim hv
      refine ⟨hwas, ?_⟩
      have h := mt v.evacuating_iff.mpr (by rw [hnot]; decide)
      exact or_iff_not_and_not.mpr h
    · have he := v.evacuating_iff.mpr ⟨herasing, hheader⟩
      obtain ⟨hfull, hrunning, hwaiting⟩ := readOnlyEffects_abandons (s := changeMode .readOnly (some c) s) hv he hr
      exact ⟨hfull, hrunning, hwaiting,
        fun x hx => readOnlyEffects_engine_claims (s := changeMode .readOnly (some c) s) hv he hx⟩

end Sys2Proof.Machine


/-! # Commit causes and the commit window timer (R35, R51, R52) -/

namespace Sys2Proof.Machine

/-! ## The segment of a committed page (R35, R36) -/

/-- Before page 47 a segment without a final page advances to its next page (R35). -/
theorem advancePage_advances {page : Nat} {final : Bool} (hpage : page < 47) (hfinal : final = false) (id : StreamId)
    (g : Nat) (s : State) :
    advancePage id g page final s = modSeg g (fun r => { r with nextPage := some (page + 1) }) s := by
  have hlast : page ≠ Config.lastPage := Nat.ne_of_lt hpage
  simp [advancePage, hfinal, hlast]

/-- At page 47, or at a final page, the stream lets go of its segment (R35, R36). -/
theorem advancePage_closes {page : Nat} {final : Bool} (h : page = 47 ∨ final = true) (id : StreamId) (g : Nat)
    (s : State) : advancePage id g page final s = closeOpen id s :=
  if_pos h.symm

/-! ## The commit of a buffer (R51) -/

section
variable {id : StreamId} {s : State} {g p : Nat}

/-- The buffer leaves the stream whole; only whether the segment stays open depends on the page (R51(c), (d)). -/
theorem streamOf_commitNow (hdest : bufferDest id s = some (g, p)) : streamOf id (commitNow id s) =
    { Stream.committed (committedPage id g p s) (streamOf id s) with
      openSeg := (streamOf id (commitNow id s)).openSeg } := by
  rw [commitNow_of_dest hdest, streamOf_claimProgram, streamOf_stopTimer, advancePage_stream, streamOf_modStream_same]

theorem segAt_commitNow_advances (hdest : bufferDest id s = some (g, p)) (hp : p < 47)
    (hfinal : (streamOf id s).finalPage = false) :
    segAt g (commitNow id s) = (segAt g s).map (fun r => { r with nextPage := some (p + 1) }) := by
  rw [commitNow_of_dest hdest, segAt_claimProgram, segAt_stopTimer, advancePage_advances hp hfinal, segAt_modSeg,
    if_pos rfl, segAt_modStream]

/-- The last page of a segment that is committed makes it FULL, and the stream has no segment open (R35, R36). -/
theorem commitNow_closes (hdest : bufferDest id s = some (g, p)) (hstranded : (streamOf id s).stranded = false)
    (hlast : p = 47 ∨ (streamOf id s).finalPage = true) :
    (streamOf id (commitNow id s)).openSeg = none ∧ segState g (commitNow id s) = some .full := by
  obtain ⟨hopen, hpage⟩ := bufferDest_unstranded hdest hstranded
  obtain ⟨r, hr, -⟩ := Option.bind_eq_some_iff.mp hpage
  let m := modStream id (Stream.committed (committedPage id g p s)) s
  have hm : (streamOf id m).openSeg = some g := by rw [streamOf_modStream_same]; exact hopen
  rw [segState, commitNow_of_dest hdest, streamOf_claimProgram, streamOf_stopTimer, segAt_claimProgram,
    segAt_stopTimer, advancePage_closes hlast, streamOf_closeOpen, closeOpen_of_open hm, segAt_fillSegment, if_pos rfl,
    segAt_modStream, segAt_modStream, hr]
  exact ⟨rfl, rfl⟩

/-- The program of the committed page is claimed, in its place or outside it (R51, R76). -/
theorem commitNow_claims (hdest : bufferDest id s = some (g, p)) :
    (⟨streamClass id, streamOrigin id, .program g p
      (.entries (committedPage id g p s).placed (committedPage id g p s).trailer)⟩ : Claim) ∈
      ((commitNow id s).arr.place (streamClass id)).toList ++ (commitNow id s).arr.outside := by
  rw [commitNow_of_dest hdest]
  exact ArrayCtl.mem_claim ..

end

theorem commitNow_timer {s : State} {g p : Nat} (hdest : bufferDest .host s = some (g, p)) :
    (commitNow .host s).commitTimer = none := by
  rw [commitNow_of_dest hdest]; rfl

theorem commitCause_without_effect {id : StreamId} {s : State}
    (h : (streamOf id s).stranded = true ∨ (streamOf id s).buffer = []) : commitCause id s = s :=
  if_pos h

/-- COMMIT_WINDOW_EXPIRY on a running part (R52). -/
theorem exec_commitWindowExpiry {s : State} (hheld : isHeld s = false) :
    exec .commitWindowExpiry s = .next (commitWindowStep s) := by
  simp [exec, execCommitWindowExpiry, whileRunning, hheld]

/-- Settles O26: a commit cause is `commitNow`, a mark, or without effect. -/
theorem commitCausesActByTheStream : Obligations.CommitCausesActByTheStream := by
  refine ⟨fun id s => ⟨commitCause_without_effect, fun hstranded hbuffer hflight => ?_,
    fun hstranded hbuffer hflight g p hdest => ?_⟩, fun s hheld => ⟨fun w hw => ?_, fun hw => ?_⟩⟩
  · exact commitCause_inFlight hstranded hbuffer (Option.isSome_iff_ne_none.mp hflight)
  · have htouch := CommitTouches.commitNow id s
    have hstream := streamOf_commitNow hdest
    have hclose := commitNow_closes hdest hstranded
    simp only [commitCause_idle hstranded hbuffer hflight]
    refine ⟨(committedPage id g p s).trailer, ?_, rfl, rfl, rfl, rfl, rfl, rfl, rfl, ?_, ?_, ?_, ?_, ?_,
      segAt_commitNow_advances hdest, hclose, fun hid => ?_, ?_, ?_, commitNow_claims hdest⟩
    iterate 6 (rw [hstream]; rfl)
    · subst hid; exact commitNow_timer hdest
    · rw [htouch.frame]
    · rw [htouch.frame]
  · rw [exec_commitWindowExpiry hheld]
    simp [commitWindowStep, hw]
  · rw [exec_commitWindowExpiry hheld]
    simp [commitWindowStep, hw]

end Sys2Proof.Machine


/-! # PFW_ASSERTED (R51, R64, R108, R123) -/

namespace Sys2Proof.Machine

/-! ## What claims and withdrawals leave alone (R76, R77) -/

theorem filter_dropFirst_other {α : Type} {p q : α → Bool} (h : ∀ x, p x = true → q x = false) (l : List α) :
    (Store.dropFirst p l).filter q = l.filter q := by
  induction l with
  | nil => rfl
  | cons x xs ih =>
    unfold Store.dropFirst
    split
    · next hp => rw [List.filter_cons_of_neg (by simp [h x hp])]
    · rw [List.filter_cons, List.filter_cons, ih]

namespace ArrayCtl

/-- A change of claims of one class: the operation, the suspended erase and the claims of every other class stay as they
were. -/
structure ClaimsChange (cls : ClaimClass) (a b : ArrayCtl) : Prop where
  op : b.op = a.op
  suspended : b.suspended = a.suspended
  place : ∀ cls', cls' ≠ cls → b.place cls' = a.place cls'
  outside : ∀ cls', cls' ≠ cls → b.outside.filter (fun c => c.cls == cls') = a.outside.filter (fun c => c.cls == cls')

namespace ClaimsChange

variable {a b c : ArrayCtl} {cls : ClaimClass}

theorem refl (cls : ClaimClass) (a : ArrayCtl) : ClaimsChange cls a a := ⟨rfl, rfl, fun _ _ => rfl, fun _ _ => rfl⟩

theorem trans (h1 : ClaimsChange cls a b) (h2 : ClaimsChange cls b c) : ClaimsChange cls a c where
  op := h2.op.trans h1.op
  suspended := h2.suspended.trans h1.suspended
  place cls' hne := (h2.place cls' hne).trans (h1.place cls' hne)
  outside cls' hne := (h2.outside cls' hne).trans (h1.outside cls' hne)

theorem claimsOf (h : ClaimsChange cls a b) {cls' : ClaimClass} (hne : cls' ≠ cls) :
    b.claimsOf cls' = a.claimsOf cls' := by
  rw [ArrayCtl.claimsOf, ArrayCtl.claimsOf, h.place cls' hne, h.outside cls' hne]

theorem setPlace (cls : ClaimClass) (c : Option Claim) (a : ArrayCtl) : ClaimsChange cls a (a.setPlace cls c) where
  op := by cases cls <;> rfl
  suspended := by cases cls <;> rfl
  place _ hne := place_setPlace_other hne a c
  outside _ _ := by rw [setPlace_outside]

/-- The claims outside change by some of class `cls` alone. -/
theorem setOutside {l : List Claim}
    (h : ∀ cls', cls' ≠ cls → l.filter (fun c => c.cls == cls') = a.outside.filter (fun c => c.cls == cls')) :
    ClaimsChange cls a { a with outside := l } :=
  ⟨rfl, rfl, fun cls' _ => by cases cls' <;> rfl, h⟩

theorem claim (c : Claim) (a : ArrayCtl) : ClaimsChange c.cls a (a.claim c) := by
  unfold ArrayCtl.claim
  split
  · exact setPlace ..
  · refine setOutside fun cls' hne => ?_
    have hother : (c.cls == cls') = false := beq_false_of_ne hne.symm
    simp [hother]

theorem refill (cls : ClaimClass) (a : ArrayCtl) : ClaimsChange cls a (a.refill cls) := by
  unfold ArrayCtl.refill
  split
  · exact refl cls a
  · split
    · exact refl cls a
    · next c _ =>
      refine (setPlace cls (some c) a).trans (setOutside fun cls' hne => ?_)
      rw [setPlace_outside]
      refine filter_dropFirst_other (fun x hx => ?_) _
      rw [beq_iff_eq.mp hx]
      exact beq_false_of_ne hne.symm

theorem leaveIf (cls : ClaimClass) (p : Claim → Bool) (a : ArrayCtl) : ClaimsChange cls a (a.leaveIf cls p) := by
  unfold ArrayCtl.leaveIf
  split
  · exact refl cls a
  · split
    · exact (setPlace cls none a).trans (refill cls _)
    · exact refl cls a

theorem withdraw (cls : ClaimClass) (p : Claim → Bool) (a : ArrayCtl) : ClaimsChange cls a (a.withdraw cls p) := by
  have hleft : ClaimsChange cls a
      ({ a with outside := a.outside.filter (fun c => !(c.cls == cls && p c)) }.leaveIf cls p) := by
    refine (setOutside fun cls' hne => ?_).trans (leaveIf cls p _)
    rw [List.filter_filter]
    refine List.filter_congr fun c _ => ?_
    by_cases hc : c.cls = cls'
    · have hother : (c.cls == cls) = false := beq_false_of_ne (hc ▸ hne)
      simp [hother]
    · simp [hc]
  unfold ArrayCtl.withdraw
  dsimp only
  split
  · exact hleft.trans ⟨rfl, rfl, fun cls' _ => by cases cls' <;> rfl, fun _ _ => rfl⟩
  · exact hleft

end ClaimsChange

end ArrayCtl

/-! ## What a commit cause of the HOST stream does to claims and timer (R51) -/

theorem stopTimer_arr (id : StreamId) (s : State) : (stopTimer id s).arr = s.arr := by cases id <;> rfl

theorem advancePage_arr (id : StreamId) (g page : Nat) (final : Bool) (s : State) :
    (advancePage id g page final s).arr = s.arr := by
  unfold advancePage closeOpen fillSegment
  (repeat' split) <;> cases id <;> rfl

/-- A commit cause makes no claim outside its stream's class, and touches no operation (R51). -/
theorem commitCause_claimsChange (id : StreamId) (s : State) :
    ArrayCtl.ClaimsChange (streamClass id) s.arr (commitCause id s).arr := by
  rcases commitCause_cases id s with e | e | ⟨g, p, hdest, _, e⟩
  · rw [e]; exact .refl ..
  · rw [e]; cases id <;> exact .refl ..
  · rw [e, commitNow_of_dest hdest]
    have h := ArrayCtl.ClaimsChange.claim ⟨streamClass id, streamOrigin id, .program g p
      (.entries (committedPage id g p s).placed (committedPage id g p s).trailer)⟩ s.arr
    rw [claimProgram, makeClaim, stopTimer_arr, advancePage_arr]
    cases id <;> exact h

theorem commitCause_timer_stopped {s : State} (h : s.commitTimer = none) :
    (commitCause .host s).commitTimer = none := by
  rcases commitCause_cases .host s with e | e | ⟨g, p, hdest, _, e⟩
  · rw [e, h]
  · rw [e]; exact h
  · rw [e, commitNow_timer hdest]

/-! ## PFW is asserted (R64, R108, R123) -/

/-- The state at the assertion of PFW: the level and the pause mark set and the timer stopped, before the commit
cause. -/
def pfwRaised (s : State) : State := { setPfw true s with commitTimer := none }

/-- The claims once PFW has withdrawn those of the Compaction Engine and of the Patrol Unit (R108(1), R123(2)). -/
def ArrayCtl.pfwWithdraws (a : ArrayCtl) : ArrayCtl :=
  (a.withdraw .relocate Claim.isEngineReadOrErase).withdraw .patrol (fun c => c.origin == .patrolUnit)

theorem exec_pfwAsserted {s : State} (hheld : isHeld s = false) (hpfw : s.pfw = false) : exec .pfwAsserted s =
    .next (settle { commitCause .host (pfwRaised s) with
      arr := (commitCause .host (pfwRaised s)).arr.pfwWithdraws }) := by
  simp only [exec, execPfwAsserted, pfwAssertedStep, hheld, hpfw, Bool.false_eq_true, if_false]
  rfl

theorem ArrayCtl.pfwWithdraws_claims (a : ArrayCtl) :
    (∀ c ∈ a.pfwWithdraws.claimsOf .relocate, c.isEngineReadOrErase = false) ∧
      (∀ c ∈ a.pfwWithdraws.claimsOf .patrol, c.origin ≠ .patrolUnit) ∧
      a.pfwWithdraws.claimsOf .host = a.claimsOf .host ∧ a.pfwWithdraws.catPlace = a.catPlace ∧
      a.pfwWithdraws.op = a.op ∧ a.pfwWithdraws.suspended = a.suspended := by
  have h1 := ClaimsChange.withdraw .relocate Claim.isEngineReadOrErase a
  have h2 := ClaimsChange.withdraw .patrol (fun c => c.origin == .patrolUnit)
    (a.withdraw .relocate Claim.isEngineReadOrErase)
  refine ⟨fun c hc => ?_, fun c hc => ?_, ?_, ?_, h2.op.trans h1.op, h2.suspended.trans h1.suspended⟩
  · exact (mem_claimsOf_withdraw (mem_claimsOf_withdraw hc).1).2 rfl
  · simpa using (mem_claimsOf_withdraw hc).2 rfl
  · exact (h2.claimsOf (by decide)).trans (h1.claimsOf (by decide))
  · exact (h2.place .catalogue (by decide)).trans (h1.place .catalogue (by decide))

/-- The committed page of the HOST stream is in flight and its program claimed (R51). -/
theorem commitCause_host_commits {s : State} {g p : Nat} (hstranded : s.host.stranded = false)
    (hbuffer : s.host.buffer ≠ []) (hflight : s.host.inFlight = none) (hdest : bufferDest .host s = some (g, p)) :
    (commitCause .host s).host.buffer = [] ∧ ∃ tr,
      (commitCause .host s).host.inFlight = some ⟨g, p, s.host.padded, tr⟩ ∧
      (⟨.host, .hostStream, .program g p (.entries s.host.padded tr)⟩ : Claim) ∈
        (commitCause .host s).arr.claimsOf .host := by
  obtain ⟨hempty, -, -, -, tr, hpage, hclaim⟩ := commitNow_host hdest
  rw [commitCause_idle (id := .host) hstranded hbuffer hflight]
  refine ⟨hempty, tr, hpage, ?_⟩
  rcases List.mem_append.mp hclaim with h | h
  · exact List.mem_append_left _ h
  · exact List.mem_append_right _ (List.mem_filter.mpr ⟨h, rfl⟩)

/-- Settles O6: the HOST commit cause of `pfwRaised`, and what the two withdrawals leave of the claims. -/
theorem pfwAssertedPausesTheUnits : Obligations.PfwAssertedPausesTheUnits := by
  refine ⟨fun s hpfw => ?_, fun s hheld hpfw => ?_, fun s hheld hpfw => ?_⟩
  · simp [exec, execPfwAsserted, pfwAssertedStep, hpfw]
  · simp [exec, execPfwAsserted, pfwAssertedStep, hpfw, hheld, setPfw]
  · let t := pfwRaised s
    have hframe := (CommitTouches.commitCause .host t).frame
    have hclaims := commitCause_claimsChange .host t
    obtain ⟨hengine, hpatrol, hhost, hcat, hop, hsuspended⟩ := (commitCause .host t).arr.pfwWithdraws_claims
    refine ⟨_, exec_pfwAsserted hheld hpfw, rfl, by rw [hframe]; rfl, by rw [hframe]; rfl,
      commitCause_timer_stopped rfl, fun hnone => ?_, fun hstranded hbuffer hflight => ?_,
      fun hstranded hbuffer hflight g p hdest => ?_, hengine, hpatrol, hop.trans hclaims.op,
      hsuspended.trans hclaims.suspended, hcat.trans (hclaims.place .catalogue (by decide)), ?_⟩
    · have hcause : commitCause .host t = t := commitCause_without_effect (id := .host) hnone
      exact (congrArg State.host hcause :)
    · have hcause := commitCause_inFlight (id := .host) (s := t) hstranded hbuffer
        (Option.isSome_iff_ne_none.mp hflight)
      exact (congrArg State.host hcause :)
    · obtain ⟨hempty, tr, hpage, hclaim⟩ := commitCause_host_commits (s := t) hstranded hbuffer hflight hdest
      refine ⟨hempty, tr, hpage, ?_⟩
      rw [← hhost] at hclaim
      exact (List.mem_append.mp hclaim).elim (List.mem_append_left _)
        fun h => List.mem_append_right _ (List.mem_of_mem_filter h)
    · dsimp only
      rw [hframe]
      exact ⟨rfl, rfl, rfl, rfl, rfl, rfl, rfl, rfl, rfl, rfl⟩

end Sys2Proof.Machine


/-! # SYNC and COMPACT (R53, R58, R93, R191, Table 9-4) -/

namespace Sys2Proof.Machine

/-! ## The request is taken and its mode checked -/

theorem Takes.exec_sync {n : Nat} {s : State} (h : Takes n .sync s) :
    exec .sync s = .next (carrySync n (takenSlot n s)) := by
  obtain ⟨hheld, _, htaken⟩ := h
  simp [exec, execSync, whileRunning, hheld, syncStep, htaken]

theorem Takes.exec_compact {n : Nat} {target : Option Nat} {s : State} (h : Takes n (.compact target) s) :
    exec .compact s = .next (carryCompact n target (takenSlot n s)) := by
  obtain ⟨hheld, _, htaken⟩ := h
  simp [exec, execCompact, whileRunning, hheld, compactStep, htaken]

theorem modeCheck_unformatted {s : State} (h : s.startup.mode = .unformatted) (stores : Bool) :
    modeCheck stores s = some (.unformatted, .none) := by
  simp [modeCheck, modeRefusal, h]

/-- In READ_ONLY the refusal of a COMPACT carries the free count (R191). -/
theorem compactCheck_readOnly {s : State} (h : s.startup.mode = .readOnly) :
    compactCheck s = some (.readOnlyMode, .freeCount s.freeCount) := by
  simp [compactCheck, h]

theorem compactCheck_unformatted {s : State} (h : s.startup.mode = .unformatted) :
    compactCheck s = some (.unformatted, .none) := by
  simp [compactCheck, modeCheck_unformatted h, h]

theorem compactCheck_ready {s : State} (h : s.startup.mode = .ready) : compactCheck s = none := by
  simp [compactCheck, modeCheck, modeRefusal, h]

/-- A request whose only check refuses it is answered with that refusal (R131). -/
theorem afterChecks_takenSlot_refused {n : Nat} {s : State} {check : Option (Status × ReplyData)} {st : Status}
    {d : ReplyData} (hidle : s.engine.active = none) (hcheck : check = some (st, d)) (go : State → State) :
    afterChecks n [check] go (takenSlot n s) = settle (answeredIn n st d s) := by
  rw [afterChecks_refused (st := st) (d := d) (by rw [hcheck]; rfl), answer_takenSlot hidle]

theorem afterChecks_single_passed {check : Option (Status × ReplyData)} (hcheck : check = none) (n : Nat)
    (go : State → State) (s : State) : afterChecks n [check] go s = settle (go s) :=
  afterChecks_passed (by rw [hcheck]; rfl) n go s

/-- A taken request that goes on waiting elsewhere leaves the engine as free as before (R181(1)). -/
theorem release_takenSlot {n : Nat} {s : State} (hidle : s.engine.active = none) (st : SlotState) :
    release n (setSlotState n st (takenSlot n s)) = modSlot n (fun sl => { sl with state := st }) s := by
  have hengine : ({ s.engine with active := none } : Engine) = s.engine := by rw [← hidle]
  have hslots : Store.modify n (fun sl => { sl with state := st }) (takenSlot n s).link.slots =
      Store.modify n (fun sl => { sl with state := st }) s.link.slots := Store.modify_modify ..
  simp only [release, setSlotState, modSlot, hslots, takenSlot_engine, Engine.release_active, hengine]
  rfl

/-! ## SYNC (R58, R53) -/

theorem hostPending_iff (s : State) : hostPending s = true ↔ s.host.pendingEntries ≠ [] := by
  simp [hostPending]

theorem syncSlot_stranded {n : Nat} {s : State} (hidle : s.engine.active = none) (h : s.host.stranded = true) :
    syncSlot n (takenSlot n s) = answeredIn n .mediaFault .none s := by
  rw [syncSlot, takenSlot_host, if_pos h, answer_takenSlot hidle]

theorem syncSlot_nothing_pending {n : Nat} {s : State} (hidle : s.engine.active = none)
    (hstranded : s.host.stranded = false) (h : s.host.pendingEntries = []) :
    syncSlot n (takenSlot n s) = answeredIn n .ok .none s := by
  have hnone : ¬ hostPending (takenSlot n s) = true := fun e => (hostPending_iff _).mp e h
  rw [syncSlot, takenSlot_host, hstranded, if_neg Bool.false_ne_true, if_neg hnone, answer_takenSlot hidle]

/-- The mark of a SYNC over pending entries joins the list, and the HOST buffer gains a commit cause (R58, R53). -/
theorem syncSlot_pending {n : Nat} {s : State} (hidle : s.engine.active = none) (hstranded : s.host.stranded = false)
    (h : s.host.pendingEntries ≠ []) :
    syncSlot n (takenSlot n s) = commitCause .host { modSlot n (fun sl => { sl with state := .awaitingCommit }) s with
      syncMarks := s.syncMarks ++ [⟨n, (highestOf (seqsOf s.host.pendingEntries)).getD 0⟩] } := by
  have hpending : hostPending (takenSlot n s) = true := (hostPending_iff _).mpr h
  rw [syncSlot, takenSlot_host, hstranded, if_neg Bool.false_ne_true, if_pos hpending, ← release_takenSlot hidle]
  rfl

/-! ## COMPACT (R93) -/

theorem compactSlot_reached {n : Nat} {target : Option Nat} {s : State} (hidle : s.engine.active = none)
    (h : target.getD s.params.compactStop ≤ s.freeCount) :
    compactSlot n target (takenSlot n s) = answeredIn n .ok (.freeCount s.freeCount) s := by
  rw [compactSlot, takenSlot_params, takenSlot_freeCount, if_pos h, answer_takenSlot hidle]

theorem compactSlot_waits {n : Nat} {target : Option Nat} {s : State} (hidle : s.engine.active = none)
    (h : s.freeCount < target.getD s.params.compactStop) :
    compactSlot n target (takenSlot n s) = { modSlot n (fun sl => { sl with state := .awaitingCompaction }) s with
      comp := { s.comp with compacts := s.comp.compacts ++ [⟨n, target.getD s.params.compactStop⟩] } } := by
  rw [compactSlot, takenSlot_params, takenSlot_freeCount, if_neg (Nat.not_le.mpr h), ← release_takenSlot hidle]
  rfl

/-- Settles O29: the mode check, then the three ways of a SYNC and the two of a COMPACT. -/
theorem syncAndCompactAnswerOrWait : Obligations.SyncAndCompactAnswerOrWait := by
  refine ⟨fun s n h hmode => ?_, fun s n target h hmode => ?_, fun s n h hserves => ?_, fun s n target h => ?_⟩
  · rw [h.exec_sync, carrySync,
      afterChecks_takenSlot_refused h.engine_idle (modeCheck_unformatted (s := takenSlot n s) hmode false)]
  · rw [h.exec_compact, carryCompact,
      afterChecks_takenSlot_refused h.engine_idle (compactCheck_unformatted (s := takenSlot n s) hmode)]
  · have hidle := h.engine_idle
    rw [h.exec_sync, carrySync, afterChecks_single_passed (modeCheck_of_serves (takenSlot n s) hserves)]
    exact ⟨fun hstranded => by rw [syncSlot_stranded hidle hstranded],
      fun hstranded hnone => by rw [syncSlot_nothing_pending hidle hstranded hnone],
      fun hstranded hpending => by rw [syncSlot_pending hidle hstranded hpending]⟩
  · intro goal
    have hidle := h.engine_idle
    have hgoal : goal = target.getD s.params.compactStop := by cases target <;> rfl
    clear_value goal
    subst hgoal
    rw [h.exec_compact, carryCompact]
    refine ⟨fun hmode => ?_, fun hmode hreached => ?_, fun hmode hshort => ?_⟩
    · rw [afterChecks_takenSlot_refused hidle (compactCheck_readOnly (s := takenSlot n s) hmode)]; rfl
    · rw [afterChecks_single_passed (compactCheck_ready (s := takenSlot n s) hmode), compactSlot_reached hidle hreached]
    · rw [afterChecks_single_passed (compactCheck_ready (s := takenSlot n s) hmode), compactSlot_waits hidle hshort]

end Sys2Proof.Machine


/-! # The program of a stream's page completes OK (R10(1), R58, R59, R73) -/

namespace Sys2Proof.Machine

/-! ## The slots that wait for a page (R57, R59(3)) -/

/-- A slot that waited for a page, answered OK with its sequence (R59(3)). -/
def Slot.programmed (sl : Slot) : Slot :=
  match sl.wait with
  | some w => Slot.answered .ok (.sequence w.seq) sl
  | none => sl

theorem Slot.programmed_of_wait {sl : Slot} {w : PageWait} (h : sl.wait = some w) :
    sl.programmed = Slot.answered .ok (.sequence w.seq) sl := by
  simp only [programmed, h]

theorem Slot.programmed_programmed (sl : Slot) : sl.programmed.programmed = sl.programmed := by
  cases h : sl.wait with
  | none => simp only [programmed, h]
  | some w => rw [programmed_of_wait h]; rfl

/-- An answer replaces that of the page. -/
theorem Slot.answered_programmed (st : Status) (d : ReplyData) (sl : Slot) :
    Slot.answered st d sl.programmed = Slot.answered st d sl := by
  cases h : sl.wait with
  | none => simp only [programmed, h]
  | some w => rw [programmed_of_wait h]; rfl

theorem slotAt_answerDurable (m n : Nat) (s : State) :
    slotAt m (answerDurable n s) = if m = n then (slotAt m s).map Slot.programmed else slotAt m s := by
  by_cases hmn : m = n
  · subst hmn
    rw [if_pos rfl]
    cases hsl : slotAt m s with
    | none => simp [answerDurable, hsl]
    | some sl =>
      cases hw : sl.wait with
      | none => simp [answerDurable, hsl, hw, Slot.programmed]
      | some w => simp [answerDurable, hsl, hw, Slot.programmed, slotAt_answer]
  · rw [if_neg hmn]
    unfold answerDurable
    split
    · rw [slotAt_answer, if_neg hmn]
    · rfl

theorem answerDurable_frame (n : Nat) (s : State) : answerDurable n s = { s with
    link := { s.link with slots := (answerDurable n s).link.slots }, engine := (answerDurable n s).engine } := by
  unfold answerDurable; split <;> rfl

theorem slotAt_answerDurables (m : Nat) (ns : List Nat) (s : State) :
    slotAt m (ns.foldl (fun t n => answerDurable n t) s) =
      if m ∈ ns then (slotAt m s).map Slot.programmed else slotAt m s := by
  induction ns generalizing s with
  | nil => rfl
  | cons n ns ih =>
    rw [List.foldl_cons, ih, slotAt_answerDurable]
    by_cases hn : m = n <;> by_cases hns : m ∈ ns <;> simp [hn, hns, Function.comp_def, Slot.programmed_programmed]

theorem answerDurables_frame (ns : List Nat) (s : State) : ns.foldl (fun t n => answerDurable n t) s = { s with
    link := { s.link with slots := (ns.foldl (fun t n => answerDurable n t) s).link.slots }
    engine := (ns.foldl (fun t n => answerDurable n t) s).engine } := by
  induction ns generalizing s with
  | nil => rfl
  | cons n ns ih => rw [List.foldl_cons, ih, answerDurable_frame]

/-! ## The SYNC marks (R58) -/

theorem answerSyncs_frame (s : State) : answerSyncs s = { s with
    syncMarks := s.syncMarks.filter (fun m => !markSatisfied s m)
    link := { s.link with slots := (answerSyncs s).link.slots }, engine := (answerSyncs s).engine } := by
  rw [answerSyncs, answerAll_frame]

theorem slotAt_answerSyncs (n : Nat) (s : State) : slotAt n (answerSyncs s) =
    if n ∈ (s.syncMarks.filter (markSatisfied s)).map SyncMark.slot then (slotAt n s).map (Slot.answered .ok .none)
    else slotAt n s :=
  slotAt_answerAll ..

/-- With no page in flight a mark is satisfied below every sequence in the buffer (R58, R62). -/
theorem markSatisfied_iff {s : State} (h : s.host.inFlight = none) (m : SyncMark) :
    markSatisfied s m = true ↔ ∀ q ∈ seqsOf s.host.buffer, m.mark < q := by
  simp [markSatisfied, Stream.pendingEntries, h]

/-! ## The stream's page is released (R59) -/

section
variable (id : StreamId) (g p : Nat) (data : PageData) (s : State)

/-- The page programmed with its data: its index entries are programmed and the page in flight released, before any
request is answered (R73, R10(1), R59(1), (2)). -/
def pageReleased : State :=
  modStream id (fun st => { st with inFlight := none }) (programPage g p (setPage g p data .sound (startOp none s)))

/-- What the end of the program brings before the buffer's commit (R59(1) to (3)). -/
def pageAcknowledged : State := answerProgrammed id g p (pageReleased id g p data s)

theorem answerProgrammed_frame : answerProgrammed id g p s = { s with
    syncMarks := (answerProgrammed id g p s).syncMarks
    link := { s.link with slots := (answerProgrammed id g p s).link.slots }
    engine := (answerProgrammed id g p s).engine } := by
  cases id with
  | host => rw [answerProgrammed, answerSyncs_frame, answerDurables_frame]
  | relocate => rfl

theorem pageReleased_frame : pageReleased id g p data s = { s with
    arr := { s.arr with op := none }
    flash := Store.put (pageAddr g p) ⟨some data, .sound⟩ s.flash
    index := Store.mapVals (fun _ e => if e.inPage g p then e.setProgrammed else e) s.index
    host := (pageReleased id g p data s).host, reloc := (pageReleased id g p data s).reloc } := by
  cases id <;> rfl

theorem pageAcknowledged_frame : pageAcknowledged id g p data s = { pageReleased id g p data s with
    syncMarks := (pageAcknowledged id g p data s).syncMarks
    link := { s.link with slots := (pageAcknowledged id g p data s).link.slots }
    engine := (pageAcknowledged id g p data s).engine } := by
  rw [pageAcknowledged, answerProgrammed_frame, pageReleased_frame]

/-- Of the streams only the one whose page it is changes: it has no page in flight (R59(2)). -/
theorem streamOf_pageAcknowledged (other : StreamId) : streamOf other (pageAcknowledged id g p data s) =
    if other = id then { streamOf id s with inFlight := none } else streamOf other s := by
  rw [pageAcknowledged_frame]
  cases id <;> cases other <;> rfl

/-- The page is acknowledged, then a buffer that waits for its commit is committed (R59(a)). -/
theorem exec_streamProgrammed {f : InFlight} (hheld : isHeld s = false)
    (hop : s.arr.op = some (.program (streamOrigin id) g p data)) (hflight : (streamOf id s).inFlight = some f)
    (hseg : f.seg = g) (hpage : f.page = p) : exec (.programCompletion true) s = .next (settleAfterOp
      (if (streamOf id s).commitRequested = true ∨ (streamOf id s).ended = true
        then commitCause id (pageAcknowledged id g p data s) else pageAcknowledged id g p data s)) := by
  subst hseg hpage
  have horiginator (t : State) : programOriginator (streamOrigin id) true t = pageProgrammed id t := by cases id <;> rfl
  have hstream : streamOf id (setPage f.seg f.page data .sound (startOp none s)) = streamOf id s := by cases id <;> rfl
  have hprogrammed : pageProgrammed id (setPage f.seg f.page data .sound (startOp none s)) =
      if (streamOf id (pageAcknowledged id f.seg f.page data s)).commitRequested = true ∨
          (streamOf id (pageAcknowledged id f.seg f.page data s)).ended = true
        then commitCause id (pageAcknowledged id f.seg f.page data s) else pageAcknowledged id f.seg f.page data s := by
    simp only [pageProgrammed, hstream, hflight]
    rfl
  rw [exec_programCompletion hheld hop, horiginator, programQuality, if_pos rfl, hprogrammed,
    streamOf_pageAcknowledged, if_pos rfl]

end

/-! ## The HOST stream's requests at the end of its program (R58, R59(3)) -/

section
variable {g p : Nat} {data : PageData} {s : State}

theorem pageReleased_host_satisfied (m : SyncMark) : markSatisfied (pageReleased .host g p data s) m = true ↔
    ∀ q ∈ seqsOf s.host.buffer, m.mark < q :=
  markSatisfied_iff (s := pageReleased .host g p data s) rfl m

theorem mem_pageAcknowledged_marks (m : SyncMark) : m ∈ (pageAcknowledged .host g p data s).syncMarks ↔
    m ∈ s.syncMarks ∧ ¬ ∀ q ∈ seqsOf s.host.buffer, m.mark < q := by
  have hmarks : (pageAcknowledged .host g p data s).syncMarks =
      s.syncMarks.filter (fun m => !markSatisfied (pageReleased .host g p data s) m) := by
    rw [pageAcknowledged, answerProgrammed, answerSyncs_frame, answerDurables_frame]
    rfl
  rw [hmarks, List.mem_filter, Bool.not_eq_true', ← Bool.not_eq_true, pageReleased_host_satisfied]

/-- A slot is answered for its satisfied SYNC mark, or else for the page it waits for, or stays as it was. -/
theorem slotAt_pageAcknowledged (n : Nat) : slotAt n (pageAcknowledged .host g p data s) =
    if ∃ m ∈ s.syncMarks, (∀ q ∈ seqsOf s.host.buffer, m.mark < q) ∧ m.slot = n then
      (slotAt n s).map (Slot.answered .ok .none)
    else if n ∈ slotsWaitingFor g p s then (slotAt n s).map Slot.programmed else slotAt n s := by
  let r := pageReleased .host g p data s
  let t := (slotsWaitingFor g p r).foldl (fun t n => answerDurable n t) r
  have ht : t = _ := answerDurables_frame (slotsWaitingFor g p r) r
  have hmarks : t.syncMarks = s.syncMarks := by rw [ht]; rfl
  have hsatisfied : markSatisfied t = markSatisfied r := by rw [ht]; rfl
  have hdone : n ∈ (t.syncMarks.filter (markSatisfied t)).map SyncMark.slot ↔
      ∃ m ∈ s.syncMarks, (∀ q ∈ seqsOf s.host.buffer, m.mark < q) ∧ m.slot = n := by
    rw [hmarks, hsatisfied]
    simp only [List.mem_map, List.mem_filter, pageReleased_host_satisfied, and_assoc, r]
  have hslot : slotAt n t = if n ∈ slotsWaitingFor g p s then (slotAt n s).map Slot.programmed else slotAt n s :=
    slotAt_answerDurables n (slotsWaitingFor g p r) r
  rw [show pageAcknowledged .host g p data s = answerSyncs t from rfl, slotAt_answerSyncs, hslot]
  simp only [hdone]
  split
  · split
    · rw [Option.map_map]
      exact congrArg (Option.map · _) (funext fun sl => Slot.answered_programmed ..)
    · rfl
  · rfl

end

/-- Settles O40: the state is `pageAcknowledged`, whose frame, streams and slots are read off one after the other. -/
theorem programOkMakesEntriesProgrammed : Obligations.ProgramOkMakesEntriesProgrammed := by
  intro id s f g p data hheld hop hflight hseg hpage
  let u := pageAcknowledged id g p data s
  have hreleased : u = _ := pageAcknowledged_frame id g p data s
  have hframe : u = { s with
      arr := { s.arr with op := none }, flash := u.flash, index := u.index, host := u.host, reloc := u.reloc
      syncMarks := u.syncMarks, engine := u.engine, link := { s.link with slots := u.link.slots } } := by
    rw [hreleased, pageReleased_frame]
  have hflash : u.flash = Store.put (pageAddr g p) ⟨some data, .sound⟩ s.flash := by
    rw [hreleased, pageReleased_frame]
  have hindex : u.index = Store.mapVals (fun _ e => if e.inPage g p then e.setProgrammed else e) s.index := by
    rw [hreleased, pageReleased_frame]
  refine ⟨u, exec_streamProgrammed id g p data s hheld hop hflight hseg hpage, ?_, fun h q hne => ?_, fun c => ?_,
    streamOf_pageAcknowledged id g p data s, hframe, fun hid => ?_, fun hid hslots => ?_⟩
  · rw [pageAt, hflash]; exact Store.get_put_same ..
  · rw [pageAt, hflash]; exact Store.get_put_other hne ..
  · rw [hindex]; exact Store.get_mapVals ..
  · subst hid; exact ⟨rfl, rfl, rfl⟩
  · subst hid
    refine ⟨mem_pageAcknowledged_marks, fun m hm hsat sl hsl => ?_, fun n sl w hsl hstate hw hg hp hmarks => ?_,
      fun n hwaits hmarks => ?_⟩
    · rw [slotAt_pageAcknowledged, if_pos ⟨m, hm, hsat, rfl⟩, hsl]; rfl
    · have hunmarked : ¬ ∃ m ∈ s.syncMarks, (∀ q ∈ seqsOf s.host.buffer, m.mark < q) ∧ m.slot = n :=
        fun ⟨m, hm, _, hn⟩ => hmarks m hm hn
      have hwaiting : n ∈ slotsWaitingFor g p s :=
        (mem_slotsWaitingFor hslots).mpr ⟨sl, hsl, hstate, w, hw, by rw [hg, hp]⟩
      rw [slotAt_pageAcknowledged, if_neg hunmarked, if_pos hwaiting, hsl, Option.map_some,
        Slot.programmed_of_wait hw]
    · have hunmarked : ¬ ∃ m ∈ s.syncMarks, (∀ q ∈ seqsOf s.host.buffer, m.mark < q) ∧ m.slot = n :=
        fun ⟨m, hm, _, hn⟩ => hmarks m hm hn
      have hidle : n ∉ slotsWaitingFor g p s := by
        rw [mem_slotsWaitingFor hslots]
        rintro ⟨sl, hsl, hstate, w, hw, hpage⟩
        exact hwaits sl w hsl hstate hw (Prod.mk.inj hpage)
      rw [slotAt_pageAcknowledged, if_neg hunmarked, if_neg hidle]

end Sys2Proof.Machine


/-! # Waiting and held entries (R31, R49, R50, R59(b), R105) -/

namespace Sys2Proof.Machine

/-! ## A placement does not look at its slot's state -/

section
variable (n : Nat) (s : State)

theorem dropLive_takenSlot (g m : Nat) : dropLive g m (takenSlot n s) = takenSlot n (dropLive g m s) := by
  have hcond : (segState g (takenSlot n s) = some .full ∧ 0 < m) ↔ (segState g s = some .full ∧ 0 < m) := Iff.rfl
  unfold dropLive
  dsimp only
  rw [apply_ite (takenSlot n)]
  simp only [hcond]
  rfl

theorem uncountOld_takenSlot (e : Option IndexEntry) : uncountOld e (takenSlot n s) = takenSlot n (uncountOld e s) := by
  cases e with
  | none => rfl
  | some x =>
    cases hx : x.loc? with
    | none => simp only [uncountOld, hx]
    | some l => simp only [uncountOld, hx, dropLive_takenSlot]

theorem countNew_takenSlot (e : Option IndexEntry) : countNew e (takenSlot n s) = takenSlot n (countNew e s) := by
  cases e with
  | none => rfl
  | some x =>
    cases hx : x.loc? with
    | none => simp only [countNew, hx]
    | some l => simp only [countNew, hx]; rfl

theorem changeEntry_takenSlot (k : Key) (new : Option IndexEntry) :
    changeEntry k new (takenSlot n s) = takenSlot n (changeEntry k new s) := by
  have hlookup : lookup k (takenSlot n s) = lookup k s := rfl
  rw [changeEntry, hlookup, uncountOld_takenSlot, countNew_takenSlot]
  rfl

theorem advanceSeq_takenSlot : advanceSeq (takenSlot n s) = takenSlot n (advanceSeq s) := by
  have hseq : nextSeqOf (takenSlot n s) = nextSeqOf s := rfl
  unfold advanceSeq
  rw [apply_ite (takenSlot n), hseq]
  rfl

theorem placeHost_takenSlot (k : Key) (v : Option (List Byte)) :
    placeHost k v (takenSlot n s) = takenSlot n (placeHost k v s) := by
  have hpush : pushEntry .host (hostEntry k v (nextSeqOf s)) (takenSlot n s) =
      takenSlot n (pushEntry .host (hostEntry k v (nextSeqOf s)) s) := by
    simp only [pushEntry, hostEntry_seq]
    rfl
  rw [placeHost, show nextSeqOf (takenSlot n s) = nextSeqOf s from rfl, hpush, changeEntry_takenSlot,
    advanceSeq_takenSlot]
  rfl

end

theorem pushEntry_host_waiting (e : Entry) (s : State) : (pushEntry .host e s).host.waiting = s.host.waiting := by
  unfold pushEntry
  dsimp only
  split <;> rfl

/-- A placement has no part in the Request Table, the engine and the waiting entry. -/
theorem placeHost_leaves (k : Key) (v : Option (List Byte)) (s : State) : (placeHost k v s).link = s.link ∧
    (placeHost k v s).engine = s.engine ∧ (placeHost k v s).host.waiting = s.host.waiting := by
  have hpush (e : Entry) : (pushEntry .host e s).link = s.link ∧ (pushEntry .host e s).engine = s.engine := by
    unfold pushEntry
    dsimp only
    split <;> exact ⟨rfl, rfl⟩
  rw [placeHost, advanceSeq_frame, changeEntry_frame]
  exact ⟨(hpush _).1, (hpush _).2, pushEntry_host_waiting ..⟩

theorem afterPlacement_takenSlot {n q : Nat} {sl : Slot} {loc : Loc} {s : State} (hslot : slotAt n s = some sl)
    (hactive : s.engine.active = some n) : afterPlacement n loc q (takenSlot n s) = afterPlacement n loc q s := by
  rw [show loc = ⟨loc.seg, loc.page, loc.cell⟩ from rfl, afterPlacement_eq (slotAt_takenSlot hslot) rfl,
    afterPlacement_eq hslot hactive, placed_takenSlot]
  rfl

theorem placeFor_takenSlot {n : Nat} {sl : Slot} {s : State} (hslot : slotAt n s = some sl)
    (hactive : s.engine.active = some n) (k : Key) (v : Option (List Byte)) :
    placeFor n k v (takenSlot n s) = placeFor n k v s := by
  obtain ⟨hlink, hengine, -⟩ := placeHost_leaves k v s
  have hslot' : slotAt n (placeHost k v s) = some sl := by rw [slotAt, hlink]; exact hslot
  have hactive' : (placeHost k v s).engine.active = some n := by rw [hengine]; exact hactive
  rw [placeFor, placeHost_takenSlot, afterPlacement_takenSlot hslot' hactive']
  rfl

/-! ## The waiting entry of the HOST stream -/

/-- A placement leaves the waiting entry as it is (R49). -/
theorem placeFor_waiting (n : Nat) (k : Key) (v : Option (List Byte)) (s : State) :
    (placeFor n k v s).host.waiting = s.host.waiting := by
  have hcauses (b : Bool) (t : State) : (hostPlacementCauses b t).host.waiting = t.host.waiting := by
    unfold hostPlacementCauses
    split
    · exact commitCause_waiting .host t
    · rfl
  have hafter (loc : Loc) (q : Nat) (t : State) : (afterPlacement n loc q t).host = t.host := by
    unfold afterPlacement
    split
    · rfl
    · split <;> rfl
  obtain ⟨-, -, hplace⟩ := placeHost_leaves k v s
  rw [placeFor, hcauses, startTimer_eq]
  exact (congrArg Stream.waiting (hafter ..)).trans hplace

theorem freeCountFalls_clearWaiting (s : State) :
    freeCountFalls (clearWaiting .host s) = clearWaiting .host (freeCountFalls s) := by
  by_cases h : s.freeCount - 1 ≤ Config.hostReserve ∧ s.lowFree = false
  · rw [freeCountFalls_low s h, freeCountFalls_low (clearWaiting .host s) h]; rfl
  · rw [freeCountFalls_other s h, freeCountFalls_other (clearWaiting .host s) h]; rfl

theorem grantSegment_clearWaiting (g stamp : Nat) (s : State) :
    grantSegment .host g stamp (clearWaiting .host s) = clearWaiting .host (grantSegment .host g stamp s) := by
  rw [grantSegment, grantSegment, ← freeCountFalls_clearWaiting]
  rfl

/-- The waiting entry has no part in the ask. -/
theorem openSegment_clearWaiting (retry : Bool) (s : State) :
    openSegment .host retry (clearWaiting .host s) = (openSegment .host retry s).map (clearWaiting .host) := by
  have ⟨hstamp, hsegs, hcount⟩ : (clearWaiting .host s).nextStamp = s.nextStamp ∧
      (clearWaiting .host s).segs = s.segs ∧ (clearWaiting .host s).freeCount = s.freeCount := ⟨rfl, rfl, rfl⟩
  refine Option.ext fun t => ?_
  simp only [Option.map_eq_some_iff, openSegment_eq_some_iff, hstamp, hsegs, hcount, grantSegment_clearWaiting]
  constructor
  · rintro ⟨stamp, g, r, hs, hleast, hask, rfl⟩
    exact ⟨_, ⟨stamp, g, r, hs, hleast, hask, rfl⟩, rfl⟩
  · rintro ⟨_, ⟨stamp, g, r, hs, hleast, hask, rfl⟩, rfl⟩
    exact ⟨stamp, g, r, hs, hleast, hask, rfl⟩

/-! ## The entry of an active slot goes to the Write Path (R48, R50) -/

/-- Room is found in the state itself, or in the one with a segment opened (R48, R50). -/
theorem roomFor_ready_cases {id : StreamId} {c : Nat} {s t : State} (h : roomFor id c s = .ready t) :
    t = s ∨ openSegment id false s = some t := by
  unfold roomFor at h
  dsimp only at h
  split at h
  · split at h
    · cases h
    · cases h; exact .inl rfl
  · split at h
    · cases h
    · next u hu => cases h; exact .inr hu

section
variable {n : Nat} {k : Key} {v : Option (List Byte)} {s t : State}

theorem storeFor_of_ready (h : roomFor .host (hostCells v) s = .ready t) :
    storeFor n k v s = placeFor n k v t := by
  simp only [storeFor, h]

theorem storeFor_of_noSegment (hopen : s.host.openSeg = none) (hask : openSegment .host false s = none) :
    storeFor n k v s = holdRequest n s := by
  rw [storeFor, roomFor_noSegment .host s hopen hask]

theorem roomFor_hostRoom {g p c : Nat} (h : HostRoom g p c s) : roomFor .host c s = .ready s := by
  obtain ⟨hopen, -, -, hended, hfits⟩ := h
  exact roomFor_ready .host s hopen hended hfits

theorem roomFor_takenSlot (h : roomFor .host (hostCells v) s = .ready t) :
    roomFor .host (hostCells v) (takenSlot n s) = .ready (takenSlot n t) := by
  unfold roomFor at h ⊢
  dsimp only [streamOf, takenSlot_host] at h ⊢
  split at h
  · split at h
    · cases h
    · next hroom => cases h; rw [if_neg hroom]
  · rw [openSegment_takenSlot]
    split at h
    · cases h
    · next u hu => cases h; rw [hu]; rfl

/-- Where there is room, the entry of an active slot is placed as that of a slot just taken. -/
theorem storeFor_takenSlot {sl : Slot} (hslot : slotAt n s = some sl) (hactive : s.engine.active = some n)
    (h : roomFor .host (hostCells v) s = .ready t) : storeFor n k v (takenSlot n s) = storeFor n k v s := by
  have ht : slotAt n t = some sl ∧ t.engine.active = some n := by
    rcases roomFor_ready_cases h with rfl | hopened
    · exact ⟨hslot, hactive⟩
    · obtain ⟨g, -, hframe⟩ := openSegment_opens hopened
      rw [hframe]
      exact ⟨hslot, hactive⟩
  obtain ⟨hslot', hactive'⟩ := ht
  rw [storeFor_of_ready (roomFor_takenSlot h), storeFor_of_ready h, placeFor_takenSlot hslot' hactive']

theorem storeFor_waiting (h : roomFor .host (hostCells v) s = .ready t) :
    (storeFor n k v s).host.waiting = s.host.waiting := by
  rw [storeFor_of_ready h, placeFor_waiting]
  rcases roomFor_ready_cases h with rfl | hopened
  · rfl
  · obtain ⟨g, -, hframe⟩ := openSegment_opens hopened
    rw [hframe]
    rfl

/-- With room in the buffer the entry of an occupied slot is placed there (R48). -/
theorem storeFor_places_in_room {sl : Slot} {g p : Nat} (hslot : slotAt n s = some sl)
    (hroom : HostRoom g p (hostCells v) s) :
    HostPlaced n k v (Request.durable sl.request) g p s (storeFor n k v (takenSlot n s)) := by
  rw [storeFor_of_ready (roomFor_takenSlot (roomFor_hostRoom hroom))]
  obtain ⟨hopen, hstranded, hpage, -, -⟩ := hroom
  exact hostPlaced_placeFor v hslot hopen hstranded hpage

/-- With a segment opened for it the entry of an occupied slot is placed at page 1 of that segment (R50(1)). -/
theorem storeFor_places_at_page_one {sl : Slot} (hslot : slotAt n s = some sl) (hopen : s.host.openSeg = none)
    (hstranded : s.host.stranded = false) (ht : openSegment .host false s = some t) :
    ∃ g, t.host.openSeg = some g ∧
      HostPlaced n k v (Request.durable sl.request) g 1 t (storeFor n k v (takenSlot n s)) := by
  obtain ⟨g, hpage, hframe⟩ := openSegment_opens ht
  have hopened : t.host.openSeg = some g := by rw [hframe]; rfl
  have hstr : t.host.stranded = false := by rw [hframe]; exact hstranded
  have hslot' : slotAt n t = some sl := by rw [hframe]; exact hslot
  rw [storeFor_opened hopen ht]
  exact ⟨g, hopened, hostPlaced_placeFor v hslot' hopened hstr hpage⟩

theorem holdRequest_holds (h : s.comp.noGain = false) :
    holdRequest n s = modSlot n (fun x => { x with state := .held }) s := by
  simp [holdRequest, h]

theorem holdRequest_answers (hactive : s.engine.active = some n) (h : s.comp.noGain = true) :
    holdRequest n s = answeredIn n .mediaFull .none { s with engine := { s.engine with active := none } } := by
  simp only [holdRequest, h, if_true, answer, Engine.release, hactive]
  rfl

end

/-! ## WAITING_ENTRY_PLACED (R49, R59(b)) -/

theorem exec_waitingEntryPlaced {s : State} (hheld : isHeld s = false) (id : StreamId) :
    exec (.waitingEntryPlaced id) s = .next (waitingPlacedStep id s) := by
  simp [exec, execWaitingEntryPlaced, whileRunning, hheld]

theorem waitingPlacedStep_without_effect {id : StreamId} {s : State} (h : (streamOf id s).waiting = none ∨
    (streamOf id s).buffer ≠ [] ∨ (streamOf id s).stranded = true) : waitingPlacedStep id s = s := by
  unfold waitingPlacedStep
  split
  · rfl
  · next w hw =>
    have hnot : ((streamOf id s).buffer.isEmpty && !(streamOf id s).stranded) = false := by
      rcases h with h | h | h
      · rw [hw] at h; cases h
      · simp [h]
      · simp [h]
    rw [hnot, if_neg Bool.false_ne_true]

theorem waitingPlacedStep_places {id : StreamId} {s : State} {w : WaitingEntry} (hw : (streamOf id s).waiting = some w)
    (hbuffer : (streamOf id s).buffer = []) (hstranded : (streamOf id s).stranded = false) :
    waitingPlacedStep id s = settle (placeWaiting w s) := by
  simp [waitingPlacedStep, hw, hbuffer, hstranded]

section
variable {n : Nat} {k : Key} {v : Option (List Byte)} {s : State}

theorem exec_waitingEntryPlaced_host (hheld : isHeld s = false) (hw : s.host.waiting = some (.host n k v))
    (hbuffer : s.host.buffer = []) (hstranded : s.host.stranded = false) :
    exec (.waitingEntryPlaced .host) s = .next (settle (storeFor n k v (clearWaiting .host s))) := by
  rw [exec_waitingEntryPlaced hheld, waitingPlacedStep_places (id := .host) hw hbuffer hstranded]
  rfl

/-- The waiting entry of an active slot is placed in the buffer's page (R49, R48). -/
theorem waitingEntry_places_in_room {sl : Slot} {g p : Nat} (hslot : slotAt n s = some sl)
    (hactive : s.engine.active = some n) (hroom : HostRoom g p (hostCells v) s) :
    (storeFor n k v (clearWaiting .host s)).host.waiting = none ∧
      HostPlaced n k v (Request.durable sl.request) g p s (storeFor n k v (clearWaiting .host s)) := by
  have hroom' : HostRoom g p (hostCells v) (clearWaiting .host s) := hroom
  have hready := roomFor_hostRoom hroom'
  refine ⟨storeFor_waiting hready, ?_⟩
  rw [← storeFor_takenSlot (s := clearWaiting .host s) hslot hactive hready]
  exact storeFor_places_in_room (s := clearWaiting .host s) hslot hroom'

/-- The waiting entry of an active slot is placed at page 1 of the segment opened for it (R50(1)). -/
theorem waitingEntry_places_at_page_one {sl : Slot} {t : State} (hslot : slotAt n s = some sl)
    (hactive : s.engine.active = some n) (hopen : s.host.openSeg = none) (hstranded : s.host.stranded = false)
    (ht : openSegment .host false s = some t) :
    ∃ g, t.host.openSeg = some g ∧ (storeFor n k v (clearWaiting .host s)).host.waiting = none ∧
      HostPlaced n k v (Request.durable sl.request) g 1 t (storeFor n k v (clearWaiting .host s)) := by
  have ht' : openSegment .host false (clearWaiting .host s) = some (clearWaiting .host t) := by
    rw [openSegment_clearWaiting, ht, Option.map_some]
  have hready := roomFor_opened .host (clearWaiting .host s) hopen ht' (hostCells v)
  obtain ⟨g, hg, hplaced⟩ := storeFor_places_at_page_one (k := k) (v := v) (s := clearWaiting .host s) hslot hopen
    hstranded ht'
  rw [storeFor_takenSlot (s := clearWaiting .host s) hslot hactive hready] at hplaced
  exact ⟨g, hg, storeFor_waiting hready, hplaced⟩

theorem waitingEntry_refused (hopen : s.host.openSeg = none) (hask : openSegment .host false s = none) :
    storeFor n k v (clearWaiting .host s) = holdRequest n (clearWaiting .host s) :=
  storeFor_of_noSegment hopen (by rw [openSegment_clearWaiting, hask, Option.map_none])

end

/-! ## HELD_REQUEST_PROCEEDS (R105) -/

theorem heldProceedsStep_without_effect {s : State} (h : s.lowFree = true ∨ heldSlot s = none) :
    heldProceedsStep s = s := by
  unfold heldProceedsStep
  split
  · rfl
  · next n hn =>
    have hlow : s.lowFree = true := h.resolve_right (by rw [hn]; exact Option.some_ne_none n)
    split
    · rfl
    · rw [hlow, if_neg Bool.noConfusion]

theorem exec_heldRequestProceeds {s : State} (hheld : isHeld s = false) :
    exec .heldRequestProceeds s = .next (heldProceedsStep s) := by
  simp [exec, execHeldRequestProceeds, whileRunning, hheld]

theorem heldProceedsStep_proceeds {s : State} {n : Nat} {sl : Slot} (hlow : s.lowFree = false)
    (hn : heldSlot s = some n) (hslot : slotAt n s = some sl) :
    heldProceedsStep s = settle (proceed n sl.request s) := by
  simp [heldProceedsStep, hn, hslot, hlow]

/-- The slot that is made active again is the engine's already (R105(1)). -/
theorem takenSlot_of_active {n : Nat} {s : State} (h : s.engine.active = some n) :
    takenSlot n s = setSlotState n .active s := by
  have hengine : ({ s.engine with active := some n } : Engine) = s.engine := by rw [← h]
  simp only [takenSlot, hengine]
  rfl

theorem Store.modify_of_fixed {α : Type} {k : Nat} {f : α → α} {m : List (Nat × α)} {w : α}
    (h : Store.get k m = some w) (hf : f w = w) : Store.modify k f m = m := by
  induction m with
  | nil => rfl
  | cons p rest ih =>
    obtain ⟨j, x⟩ := p
    by_cases e : j = k
    · simp only [Store.get, e, if_true, Option.some.injEq] at h
      simp [Store.modify, e, h, hf]
    · simp only [Store.get, e, if_false] at h
      simp [Store.modify, e, ih h]

section
variable {n : Nat} {k : Key} {v : Option (List Byte)} {s : State}

/-- The held request whose ask is refused again stays HELD, and nothing changes (R50(2)). -/
theorem heldRequest_stays {sl : Slot} (hslot : slotAt n s = some sl) (hstate : sl.state = .held)
    (hactive : s.engine.active = some n) :
    modSlot n (fun x => { x with state := .held }) (takenSlot n s) = s := by
  have hslots : Store.modify n (fun x => { x with state := .held }) (takenSlot n s).link.slots = s.link.slots :=
    (Store.modify_modify ..).trans (Store.modify_of_fixed (w := sl) hslot (by rw [← hstate]; rfl))
  have hengine : ({ s.engine with active := some n } : Engine) = s.engine := by rw [← hactive]
  simp only [modSlot, hslots]
  simp only [takenSlot, hengine]
  rfl

/-- Under the no-gain mark the held request is answered MEDIA_FULL (R105). -/
theorem heldRequest_answered (h : s.comp.noGain = true) : holdRequest n (takenSlot n s) =
    answeredIn n .mediaFull .none { s with engine := { s.engine with active := none } } := by
  simp only [holdRequest, takenSlot_comp, h, if_true]
  exact answer_takenSlot (s := { s with engine := { s.engine with active := none } }) rfl ..

theorem heldRequest_refused (hopen : s.host.openSeg = none) (hask : openSegment .host false s = none) :
    storeFor n k v (takenSlot n s) = holdRequest n (takenSlot n s) :=
  storeFor_of_noSegment hopen (by rw [openSegment_takenSlot, hask, Option.map_none])

end

/-- Settles O45: both commands come to `storeFor`, which finds room, opens a segment, or is refused. -/
theorem waitingAndHeldEntriesAreHandled : Obligations.WaitingAndHeldEntriesAreHandled := by
  refine ⟨⟨fun s id hheld hnone => ?_, fun s e src hheld hw hbuffer hstranded => ?_,
    fun s n sl k v hheld hw hbuffer hslot hactive => ⟨fun g p hroom => ?_, fun hopen hstranded => ?_⟩⟩,
    fun s hheld hnone => ?_, fun s n sl k d exp v hheld hlow hslots hn hslot hactive hrequest => ?_⟩
  · rw [exec_waitingEntryPlaced hheld, waitingPlacedStep_without_effect hnone]
  · rw [exec_waitingEntryPlaced hheld, waitingPlacedStep_places (id := .relocate) hw hbuffer hstranded]
    rfl
  · have ⟨_, hstranded, _⟩ := hroom
    exact ⟨_, exec_waitingEntryPlaced_host hheld hw hbuffer hstranded, waitingEntry_places_in_room hslot hactive hroom⟩
  · rw [exec_waitingEntryPlaced_host hheld hw hbuffer hstranded]
    refine ⟨fun t ht => ?_, fun hask => ⟨fun hgain => ?_, fun hgain => ?_⟩⟩
    · obtain ⟨g, hg, hplaced⟩ := waitingEntry_places_at_page_one (k := k) (v := v) hslot hactive hopen hstranded ht
      exact ⟨g, _, hg, rfl, hplaced⟩
    · rw [waitingEntry_refused hopen hask, holdRequest_holds (s := clearWaiting .host s) hgain]
      rfl
    · rw [waitingEntry_refused hopen hask, holdRequest_answers (s := clearWaiting .host s) hactive hgain]
      rfl
  · rw [exec_heldRequestProceeds hheld, heldProceedsStep_without_effect hnone]
  · obtain ⟨hproceed, hdurable⟩ : proceed n sl.request s = storeFor n k v (setSlotState n .active s) ∧
        Request.durable sl.request = d := by
      rw [hrequest]; cases v <;> exact ⟨rfl, rfl⟩
    rw [exec_heldRequestProceeds hheld, heldProceedsStep_proceeds hlow hn hslot, hproceed,
      ← takenSlot_of_active hactive, ← hdurable]
    refine ⟨fun g p hroom => ⟨_, rfl, storeFor_places_in_room hslot hroom⟩, fun hopen hstranded =>
      ⟨fun t ht => ?_, fun hask => ⟨fun hgain => ?_, fun hgain => ?_⟩⟩⟩
    · obtain ⟨g, hg, hplaced⟩ := storeFor_places_at_page_one (k := k) (v := v) hslot hopen hstranded ht
      exact ⟨g, _, hg, rfl, hplaced⟩
    · obtain ⟨sl', hsl', hstate⟩ := slotAt_heldSlot hslots hn
      rw [heldRequest_refused hopen hask, holdRequest_holds (s := takenSlot n s) hgain,
        heldRequest_stays hsl' hstate hactive]
    · rw [heldRequest_refused hopen hask, heldRequest_answered hgain]

end Sys2Proof.Machine


/-! # The end of a change sends frames (R179, R185) -/

namespace Sys2Proof.Machine

/-- The transmitter's choice brings `s` to `t`: what is sent, what waits to be sent, and the notice guard count. -/
def SendsOnly (s t : State) : Prop :=
  t = { s with link := { s.link with
    replyOrder := t.link.replyOrder, sending := t.link.sending, immediate := t.link.immediate
    notices := t.link.notices, noticeGuard := t.link.noticeGuard, resetReplies := t.link.resetReplies } }

theorem SendsOnly.trans {s t u : State} (h1 : SendsOnly s t) (h2 : SendsOnly t u) : SendsOnly s u := by
  unfold SendsOnly at h1 h2 ⊢
  refine h2.trans ?_
  rw [h1]

theorem sendNotice_sendsOnly (s : State) : SendsOnly s (sendNotice s) := by
  unfold sendNotice; split <;> rfl

theorem sendSlot_sendsOnly (s : State) : SendsOnly s (sendSlot s) := by
  unfold sendSlot
  split
  · rfl
  · split <;> rfl

theorem chooseFrame_sendsOnly (s : State) : SendsOnly s (chooseFrame s) := by
  unfold chooseFrame
  split
  · rfl
  · split
    · exact sendNotice_sendsOnly s
    · split
      · exact sendSlot_sendsOnly s
      · exact sendNotice_sendsOnly s

theorem transmit_sendsOnly (s : State) : SendsOnly s (transmit s) := by
  unfold transmit
  split
  · rfl
  · rfl
  · rfl
  · exact chooseFrame_sendsOnly s

theorem finish_sendsOnly (s : State) : SendsOnly s (finish s) :=
  SendsOnly.trans (t := orderReplies s) rfl (transmit_sendsOnly _)

theorem SendsOnly.flash {s t : State} (h : SendsOnly s t) : t.flash = s.flash := by
  unfold SendsOnly at h; rw [h]

end Sys2Proof.Machine

/-! # Which pages of the array a command can change (R73, R74, R84) -/

namespace Sys2Proof.Machine

/-- The array's pages are changed by no basic change of mount and FORMAT (R73, R74). -/
theorem flash_building (pages : List (Nat × StoredPage)) : Building (fun t => t.flash = pages) :=
  { flash_stable pages with
    sequence := fun _ _ _ x => x
    marks := fun _ _ x => x
    startup := fun _ _ _ x => x
    spaces := fun _ _ _ x => x }

/-! ## The end of a change -/

theorem flash_settleWith (ended : Bool) (s : State) : (settleWith ended s).flash = s.flash :=
  (finish_sendsOnly _).flash.trans
    ((flash_stable s.flash).keeps_settleRound ended ((flash_stable s.flash).keeps_settleRound ended rfl))

@[simp] theorem flash_settle (s : State) : (settle s).flash = s.flash := flash_settleWith false s

@[simp] theorem flash_settleAfterOp (s : State) : (settleAfterOp s).flash = s.flash := flash_settleWith true s

@[simp] theorem flash_finish (s : State) : (finish s).flash = s.flash := (finish_sendsOnly s).flash

@[simp] theorem flash_calm (s : State) : (calm s).flash = s.flash := by
  unfold calm
  split
  · exact flash_settle s
  · exact flash_finish s

@[simp] theorem flash_commitCause (id : StreamId) (s : State) : (commitCause id s).flash = s.flash :=
  (flash_stable s.flash).keeps_commitCause id rfl

/-! ## The Host Link -/

theorem flash_refuseFrame (f : RxFrame) (st : Status) (s : State) : (refuseFrame f st s).flash = s.flash := by
  unfold refuseFrame; split <;> rfl

theorem flash_queueFrame (f : RxFrame) (r : Request) (s : State) : (queueFrame f r s).flash = s.flash := by
  unfold queueFrame takeSlot
  split
  · exact flash_refuseFrame ..
  · split
    · exact flash_refuseFrame ..
    · split
      · exact flash_refuseFrame ..
      · rfl

theorem flash_cancelEffect (target : Byte) (s : State) : (cancelEffect target s).2.flash = s.flash := by
  unfold cancelEffect
  split
  · rfl
  · split
    case h_3 => split <;> rfl
    all_goals rfl

theorem flash_doImmediate (f : RxFrame) (i : Immediate) (s : State) : (doImmediate f i s).flash = s.flash := by
  cases i with
  | reset => exact (flash_settle _).trans (flash_commitCause ..)
  | identify => rw [doImmediate, flash_calm]; split <;> rfl
  | status => rw [doImmediate, flash_calm]; split <;> rfl
  | cancel target =>
    rw [doImmediate, flash_calm]
    split
    · exact flash_cancelEffect target s
    · rfl

theorem flash_dispose (f : RxFrame) (s : State) : (dispose f s).flash = s.flash := by
  unfold dispose
  split
  · rfl
  · split
    · rw [flash_calm, flash_refuseFrame]
    · split
      · exact flash_doImmediate ..
      · rw [flash_calm, flash_queueFrame]
      · rw [flash_calm, flash_refuseFrame]

/-- A held part makes no change (R158). -/
theorem flash_whileRunning {f : State → State} {s : State} (hf : (f s).flash = s.flash) :
    (whileRunning f s).flash = s.flash := by
  unfold whileRunning
  split
  · rfl
  · exact hf

theorem flash_insideFrame {f : State → State} {s : State} (hf : (f s).flash = s.flash) :
    (insideFrame f s).flash = s.flash := by
  unfold insideFrame
  split
  · exact hf
  · rfl

theorem flash_receive (f : RxFrame) (s : State) : (receive f s).flash = s.flash := by
  refine flash_whileRunning (flash_insideFrame ?_)
  unfold frameEnds
  split
  · rfl
  · split
    · rfl
    · split
      · exact flash_dispose f (hunt s)
      · rfl

theorem flash_resetReplyStep (s : State) : (resetReplyStep s).flash = s.flash := by
  unfold resetReplyStep
  split
  · rfl
  · split
    · exact flash_finish _
    · rfl

theorem flash_frameSentStep (s : State) : (frameSentStep s).flash = s.flash := by
  unfold frameSentStep
  split
  · rfl
  · exact flash_calm _

/-! ## The Request Engine -/

theorem flash_afterChecks (n : Nat) (checks : List (Option (Status × ReplyData))) {go : State → State} {s : State}
    (hgo : (go s).flash = s.flash) : (afterChecks n checks go s).flash = s.flash := by
  unfold afterChecks
  split
  · exact flash_settle _
  · exact (flash_settle _).trans hgo

theorem flash_storeFor (n : Nat) (k : Key) (v : Option (List Byte)) (s : State) : (storeFor n k v s).flash = s.flash :=
  (flash_building s.flash).keeps_storeFor n k v rfl

theorem flash_deleteKey (n : Nat) (k : Key) (s : State) : (deleteKey n k s).flash = s.flash := by
  unfold deleteKey
  split
  · exact flash_storeFor ..
  · rfl

theorem flash_syncSlot (n : Nat) (s : State) : (syncSlot n s).flash = s.flash := by
  unfold syncSlot
  split
  · rfl
  · split
    · exact flash_commitCause ..
    · rfl

theorem flash_getKey (n : Nat) (k : Key) (s : State) : (getKey n k s).flash = s.flash := by
  unfold getKey; split <;> rfl

theorem flash_setParam (n code value : Nat) (s : State) : (setParam n code value s).flash = s.flash := by
  have heffect (old : Nat) (t : State) : State.flash (paramTakesEffect code value old t) = t.flash := by
    unfold paramTakesEffect
    split
    · rfl
    · split
      · exact (flash_stable t.flash).keeps_thresholdLowered value rfl
      · rfl
    · rfl
  unfold setParam
  split
  · exact heffect ..
  · rfl

theorem flash_compactSlot (n : Nat) (target : Option Nat) (s : State) : (compactSlot n target s).flash = s.flash := by
  unfold compactSlot; dsimp only; split <;> rfl

theorem flash_clearSpace (n space : Nat) (s : State) : (clearSpace n space s).flash = s.flash :=
  foldl_keeps (P := fun t : State => t.flash = s.flash)
    (fun _ k => (flash_stable s.flash).keeps_changeEntry k none) _ rfl

/-- No request that the engine takes changes a page by being taken (R181). -/
theorem flash_taking {c : Instr} (hc : isTaking c = true) {s t : State} (h : exec c s = .next t) :
    t.flash = s.flash := by
  have htaken (step : State → State) (hexec : exec c s = .next (whileRunning step s))
      (hstep : (step s).flash = s.flash) : t.flash = s.flash := by
    rw [hexec] at h; cases h; exact flash_whileRunning hstep
  cases c <;> cases hc
  case put =>
    refine htaken putStep rfl ?_
    unfold putStep
    split
    exacts [flash_afterChecks _ _ (flash_storeFor ..), rfl]
  case delete =>
    refine htaken deleteStep rfl ?_
    unfold deleteStep
    split
    exacts [flash_afterChecks _ _ (flash_deleteKey ..), rfl]
  case get =>
    refine htaken getStep rfl ?_
    unfold getStep
    split
    exacts [flash_afterChecks _ _ (flash_getKey ..), rfl]
  case list =>
    refine htaken listStep rfl ?_
    unfold listStep
    split
    exacts [flash_afterChecks _ _ rfl, rfl]
  case sync =>
    refine htaken syncStep rfl ?_
    unfold syncStep
    split
    exacts [flash_afterChecks _ _ (flash_syncSlot ..), rfl]
  case compact =>
    refine htaken compactStep rfl ?_
    unfold compactStep
    split
    exacts [flash_afterChecks _ _ (flash_compactSlot ..), rfl]
  case segmentInfo =>
    refine htaken segmentInfoStep rfl ?_
    unfold segmentInfoStep
    split
    exacts [flash_afterChecks _ _ rfl, rfl]
  case spaceInfo =>
    refine htaken spaceInfoStep rfl ?_
    unfold spaceInfoStep
    split
    exacts [flash_afterChecks _ _ rfl, rfl]
  case setParam =>
    refine htaken setParamStep rfl ?_
    unfold setParamStep
    split
    exacts [flash_afterChecks _ _ (flash_setParam ..), rfl]
  case freeze =>
    refine htaken freezeStep rfl ?_
    unfold freezeStep
    split
    exacts [flash_afterChecks _ _ rfl, rfl]
  case setPolicy =>
    refine htaken setPolicyStep rfl ?_
    unfold setPolicyStep
    split
    exacts [flash_afterChecks _ _ rfl, rfl]
  case setQuota =>
    refine htaken setQuotaStep rfl ?_
    unfold setQuotaStep
    split
    exacts [flash_afterChecks _ _ rfl, rfl]
  case clearSpace =>
    refine htaken clearSpaceStep rfl ?_
    unfold clearSpaceStep
    split
    exacts [flash_afterChecks _ _ (flash_clearSpace ..), rfl]
  case format =>
    refine htaken formatStep rfl ?_
    unfold formatStep
    split
    exacts [flash_afterChecks _ _ ((flash_building _).keeps_formatBegins _ rfl), rfl]

/-! ## Reads that end (R71, R80) -/

/-- The work of mount after a page read is done on the mount progress, the tables and the claims. -/
theorem flash_scanFrom (g : Nat) (s : State) : (scanFrom g s).flash = s.flash := by
  unfold scanFrom
  split
  · rfl
  · unfold mountStates
    split
    · rfl
    · next m _ => exact (flash_building s.flash).keeps_eraseNext ((flash_building s.flash).keeps_buildIndex m rfl)

theorem flash_scanHeader (g : Nat) (o : ReadOutcome) (s : State) : (scanHeader g o s).flash = s.flash := by
  unfold scanHeader
  dsimp only
  split
  · exact flash_scanFrom ..
  · rfl

theorem flash_scanPage (g p : Nat) (o : ReadOutcome) (s : State) : (scanPage g p o s).flash = s.flash := by
  unfold scanPage
  dsimp only
  split
  · exact flash_scanFrom ..
  · split
    · rfl
    · exact flash_scanFrom ..

theorem flash_catalogueRead (s : State) : (catalogueRead s).flash = s.flash := by
  unfold catalogueRead
  split
  · rfl
  · split
    · rfl
    · split
      · rfl
      · exact flash_scanFrom ..

theorem flash_mountRead (g p : Nat) (o : ReadOutcome) (m : Mount) (s : State) :
    (mountRead g p o m s).flash = s.flash := by
  unfold mountRead
  split
  · unfold catalogueNext
    split
    · rfl
    · split
      · rfl
      · exact flash_catalogueRead _
  · split
    · exact flash_scanHeader ..
    · exact flash_scanPage ..
  · rfl

theorem flash_readOriginator (run : ReadRun) (o : ReadOutcome) (s : State) :
    (readOriginator run o s).flash = s.flash := by
  unfold readOriginator
  split
  · split
    · exact (flash_stable s.flash).keeps_answerGet _ _ rfl
    · rfl
  · unfold startupReadEnded
    split
    · exact flash_mountRead ..
    · exact (flash_building s.flash).keeps_formatRead _ _ rfl
    · rfl
  · exact (flash_stable s.flash).keeps_engineRead _ _ _ rfl
  all_goals rfl

theorem flash_suspendNext (fuel : Nat) (s : State) : (suspendNext fuel s).flash = s.flash :=
  (flash_stable s.flash).keeps_suspendNext fuel rfl

theorem flash_readEnds (run : ReadRun) (o : ReadOutcome) (s : State) : (readEnds run o s).flash = s.flash := by
  rw [readEnds, flash_settleAfterOp, flash_suspendNext, flash_readOriginator]
  exact (flash_stable s.flash).keeps_healthHandles run o rfl

/-! ## Programs and erases that end (R73, R74) -/

theorem flash_programEnds (o : Originator) (g p : Nat) (d : PageData) (ok : Bool) (s : State) :
    (programEnds o g p d ok s).flash = (setPage g p d (programQuality ok) s).flash := by
  rw [programEnds, flash_settleAfterOp]
  generalize hf : (setPage g p d (programQuality ok) s).flash = pages
  have hP := flash_building pages
  unfold programOriginator
  split
  · split
    · exact hP.keeps_pageProgrammed _ hf
    · exact hP.keeps_pageFailed _ hf
  · split
    · exact hP.keeps_pageProgrammed _ hf
    · exact hP.keeps_pageFailed _ hf
  · exact hP.keeps_engineHeader _ hf
  · exact hP.keeps_writerProgrammed _ hf
  · exact hP.keeps_startupHeader _ hf
  all_goals exact hf

theorem flash_eraseEnds (e : EraseRun) (ok : Bool) (s : State) :
    (eraseEnds e ok s).flash = (eraseLeaves ok e.seg s).flash := by
  have hleaves : (eraseLeaves ok e.seg (startOp none s)).flash = (eraseLeaves ok e.seg s).flash := by
    unfold eraseLeaves; split <;> rfl
  rw [eraseEnds, flash_settleAfterOp, ← hleaves]
  generalize hf : (eraseLeaves ok e.seg (startOp none s)).flash = pages
  have hP := flash_building pages
  unfold eraseOriginator
  split
  · exact hP.keeps_engineErased _ hf
  · exact hP.keeps_writerErased _ hf
  · exact hP.keeps_startupErased _ hf
  all_goals exact hf

/-- A program leaves every page alone but its own, whatever it reports (R73). -/
theorem get_setPage_other {g p a : Nat} (h : a ≠ pageAddr g p) (d : PageData) (q : Quality) (s : State) :
    Store.get a (setPage g p d q s).flash = Store.get a s.flash := Store.get_put_other h _ _

theorem inSegment_pageAddr {g p : Nat} (hp : p < Config.pages) : inSegment g (pageAddr g p) = true := by
  simp only [inSegment, pageAddr, Config.pages, beq_iff_eq] at hp ⊢; omega

/-- An erase cut short or failed leaves every page outside its segment alone (R74(2), R84(3)). -/
theorem get_spoilSegment_other {g a : Nat} (h : inSegment g a = false) (f : Quality → Quality) (s : State) :
    Store.get a (spoilSegment g f s).flash = Store.get a s.flash := by
  have hpage (m : List (Nat × StoredPage)) (p : Nat) (hp : p < Config.pages) :
      Store.get a (spoilPage g f m p) = Store.get a m := by
    have hne : a ≠ pageAddr g p := fun e => by rw [e, inSegment_pageAddr hp] at h; cases h
    exact Store.get_put_other hne _ _
  have hpages (l : List Nat) (hl : ∀ p ∈ l, p < Config.pages) (m : List (Nat × StoredPage)) :
      Store.get a (l.foldl (spoilPage g f) m) = Store.get a m := by
    induction l generalizing m with
    | nil => rfl
    | cons p l ih =>
      rw [List.foldl_cons, ih (fun q hq => hl q (List.mem_cons_of_mem _ hq)), hpage m p (hl p List.mem_cons_self)]
  simp only [spoilSegment]
  exact hpages (List.range Config.pages) (fun _ => List.mem_range.mp) s.flash

/-- An erase leaves every page outside its segment alone, whatever it reports (R74). -/
theorem get_eraseLeaves_other {g a : Nat} (h : inSegment g a = false) (ok : Bool) (s : State) :
    Store.get a (eraseLeaves ok g s).flash = Store.get a s.flash := by
  unfold eraseLeaves
  split
  · refine (Store.get_filter a (fun b => !inSegment g b) s.flash).trans ?_
    rw [h]; rfl
  · exact get_spoilSegment_other h _ s

/-! ## Supply and RST (R84, R158) -/

theorem flash_boot (s : State) : (boot s).flash = s.flash := flash_settle _

/-- Work cut short leaves alone every page that is not its target (R84). -/
theorem get_cutShort_other {a : Nat} {s : State} (hop : ¬ isTarget s.arr.op a)
    (hsuspended : ∀ e, s.arr.suspended = some e → inSegment e.seg a = false) :
    Store.get a (cutShort s).flash = Store.get a s.flash := by
  have hcut : Store.get a (cutOperation s.arr.op s).flash = Store.get a s.flash := by
    generalize s.arr.op = op at hop
    unfold cutOperation
    split
    · exact get_setPage_other hop _ _ s
    · exact get_spoilSegment_other (Bool.eq_false_iff.mpr hop) _ s
    · rfl
  unfold cutShort cutErase
  split
  · next e he => exact (get_spoilSegment_other (hsuspended e he) _ _).trans hcut
  · exact hcut

/-! ## The part's own steps and the timers -/

theorem flash_pfwAssertedStep (s : State) : (pfwAssertedStep s).flash = s.flash := by
  unfold pfwAssertedStep
  split
  · rfl
  · split
    · rfl
    · exact (flash_settle _).trans (flash_commitCause ..)

theorem flash_pfwDeassertedStep (s : State) : (pfwDeassertedStep s).flash = s.flash := by
  unfold pfwDeassertedStep
  split
  · split
    · rfl
    · exact flash_settle _
  · rfl

theorem flash_commitWindowStep (s : State) : (commitWindowStep s).flash = s.flash := by
  unfold commitWindowStep
  split
  · exact (flash_settle _).trans (flash_commitCause ..)
  · rfl

theorem flash_patrolStep (s : State) : (patrolStep s).flash = s.flash := by
  have hclaim : (patrolClaim s).flash = s.flash := by unfold patrolClaim; split <;> rfl
  unfold patrolStep
  split
  · exact (flash_settle _).trans hclaim
  · rfl

theorem flash_formatEmptyingStep (s : State) : (formatEmptyingStep s).flash = s.flash := by
  unfold formatEmptyingStep
  split
  · rw [flash_settle]
    exact (flash_building s.flash).keeps_formatTake _ ((flash_building s.flash).keeps_formatEmpties rfl)
  · rfl

theorem flash_readCompletionStep (rep : ReadReport) (s : State) : (readCompletionStep rep s).flash = s.flash := by
  unfold readCompletionStep
  split
  · split
    · exact flash_readEnds ..
    · rfl
  · rfl

theorem flash_eraseSuspendedStep (s : State) : (eraseSuspendedStep s).flash = s.flash := by
  unfold eraseSuspendedStep
  split
  · split
    · exact (flash_settle _).trans (flash_suspendNext ..)
    · rfl
  · rfl

theorem flash_resumeCopying (h : Handled) (s : State) : (resumeCopying h s).flash = h.state.flash := by
  cases h with
  | done t => exact (flash_stable t.flash).keeps_copyLoop _ rfl
  | waits t => rfl
  | stopped t => rfl

theorem flash_placeWaiting (w : WaitingEntry) (s : State) : (placeWaiting w s).flash = s.flash := by
  cases w with
  | host n k v => exact flash_storeFor n k v (clearWaiting .host s)
  | copy e src => exact (flash_resumeCopying _ s).trans ((flash_stable s.flash).keeps_handCopy e src rfl)

theorem flash_waitingPlacedStep (id : StreamId) (s : State) : (waitingPlacedStep id s).flash = s.flash := by
  unfold waitingPlacedStep
  split
  · rfl
  · split
    · exact (flash_settle _).trans (flash_placeWaiting ..)
    · rfl

theorem flash_heldProceedsStep (s : State) : (heldProceedsStep s).flash = s.flash := by
  have hproceed (n : Nat) (r : Request) : (proceed n r s).flash = s.flash := by
    unfold proceed
    split
    · exact flash_storeFor ..
    · exact flash_storeFor ..
    · rfl
  unfold heldProceedsStep
  split
  · rfl
  · split
    · rfl
    · split
      · exact (flash_settle _).trans (hproceed ..)
      · rfl

theorem flash_evacuationEndStep (s : State) : (evacuationEndStep s).flash = s.flash := by
  unfold evacuationEndStep
  split
  · rfl
  · split
    · exact (flash_settle _).trans ((flash_stable s.flash).keeps_decideFate _ rfl)
    · rfl

/-! ## The obligation -/

/-- A command that changes pages of the array: one that ends an operation or cuts it short (R73, R74, R84). -/
def endsArrayWork : Instr → Bool
  | .arrayOperationTimeout => true
  | .eraseSuspendTimeout => true
  | .programCompletion _ => true
  | .eraseCompletion _ => true
  | c => isResetCommand c

/-- Every other command leaves every page as it is. -/
theorem flash_of_not_endsArrayWork {c : Instr} (hc : endsArrayWork c = false) {s t : State}
    (h : exec c s = .next t) : t.flash = s.flash := by
  have after {u : State} (hu : u.flash = s.flash) (e : (Host.Outcome.next u : Result) = .next t) : t.flash = s.flash :=
    next_of (P := fun x : State => x.flash = s.flash) hu e
  cases c
  case powerOn | powerLoss | rstAsserted | rstDeasserted | arrayOperationTimeout | eraseSuspendTimeout |
    programCompletion | eraseCompletion => cases hc
  case put | delete | get | list | sync | compact | segmentInfo | spaceInfo | setParam | freeze | setPolicy | setQuota |
    clearSpace | format => exact flash_taking rfl h
  case frameReceived | identify | status | cancel | reset => exact after (flash_receive ..) h
  case lengthError | frameCheckFailed | receiverTimeout => exact after (flash_whileRunning (flash_insideFrame rfl)) h
  case wpChanged b => exact after (u := { s with wp := b }) rfl h
  case frameStartMarker => exact after (flash_whileRunning rfl) h
  case pfwAsserted => exact after (flash_pfwAssertedStep s) h
  case pfwDeasserted => exact after (flash_pfwDeassertedStep s) h
  case resetReplyBuilt => exact after (flash_whileRunning (flash_resetReplyStep s)) h
  case formatEmptying => exact after (flash_whileRunning (flash_formatEmptyingStep s)) h
  case frameSent => exact after (flash_whileRunning (flash_frameSentStep s)) h
  case commitWindowExpiry => exact after (flash_whileRunning (flash_commitWindowStep s)) h
  case patrolTimerExpiry => exact after (flash_whileRunning (flash_patrolStep s)) h
  case readCompletion rep => exact after (flash_whileRunning (flash_readCompletionStep rep s)) h
  case eraseSuspended => exact after (flash_whileRunning (flash_eraseSuspendedStep s)) h
  case waitingEntryPlaced id => exact after (flash_whileRunning (flash_waitingPlacedStep id s)) h
  case heldRequestProceeds => exact after (flash_whileRunning (flash_heldProceedsStep s)) h
  case evacuationEnd => exact after (flash_whileRunning (flash_evacuationEndStep s)) h

section
variable {a : Nat} {s : State} (hop : ¬ isTarget s.arr.op a)
include hop

theorem get_programEnds_other {o : Originator} {g p : Nat} {d : PageData} (hrun : s.arr.op = some (.program o g p d))
    (ok : Bool) : Store.get a (programEnds o g p d ok s).flash = Store.get a s.flash := by
  rw [hrun] at hop
  rw [flash_programEnds, get_setPage_other hop]

theorem get_eraseEnds_other {e : EraseRun} (hrun : s.arr.op = some (.erase e)) (ok : Bool) :
    Store.get a (eraseEnds e ok s).flash = Store.get a s.flash := by
  rw [hrun] at hop
  rw [flash_eraseEnds, get_eraseLeaves_other (Bool.eq_false_iff.mpr hop)]

theorem get_programCompletionStep_other (ok : Bool) :
    Store.get a (programCompletionStep ok s).flash = Store.get a s.flash := by
  unfold programCompletionStep
  split
  · next hrun => exact get_programEnds_other hop hrun ok
  · rfl

theorem get_eraseCompletionStep_other (ok : Bool) :
    Store.get a (eraseCompletionStep ok s).flash = Store.get a s.flash := by
  unfold eraseCompletionStep
  split
  · next hrun => exact get_eraseEnds_other hop hrun ok
  · rfl

theorem get_timeoutStep_other : Store.get a (timeoutStep s).flash = Store.get a s.flash := by
  unfold timeoutStep
  split
  · rw [flash_readEnds]
  · next hrun => exact get_programEnds_other hop hrun false
  · next hrun => exact get_eraseEnds_other hop hrun false
  · rfl

theorem get_suspendTimeoutStep_other : Store.get a (suspendTimeoutStep s).flash = Store.get a s.flash := by
  unfold suspendTimeoutStep
  split
  · next hrun =>
    split
    · exact get_eraseEnds_other hop hrun false
    · rfl
  · rfl

end

theorem flash_powerOnStep (s : State) : (powerOnStep s).flash = (cutShort s).flash := by
  unfold powerOnStep
  dsimp only
  split
  · rfl
  · exact flash_boot _

theorem flash_rstDeassertedStep (s : State) : (rstDeassertedStep s).flash = s.flash := by
  unfold rstDeassertedStep
  split
  · split
    · exact flash_boot _
    · rfl
  · rfl

/-- A page that a running part leaves alone is left alone by a held one, which changes nothing (R158). -/
theorem get_whileRunning {a : Nat} {f : State → State} {s : State}
    (hf : Store.get a (f s).flash = Store.get a s.flash) :
    Store.get a (whileRunning f s).flash = Store.get a s.flash := by
  unfold whileRunning
  split
  · rfl
  · exact hf

/-- A command that ends the array's work or cuts it short changes only pages of that work. -/
theorem get_of_not_target {c : Instr} {a : Nat} {s t : State} (hop : ¬ isTarget s.arr.op a)
    (hsuspended : ∀ e, s.arr.suspended = some e → inSegment e.seg a = false) (h : exec c s = .next t) :
    Store.get a t.flash = Store.get a s.flash := by
  have after {u : State} (hu : Store.get a u.flash = Store.get a s.flash)
      (e : (Host.Outcome.next u : Result) = .next t) : Store.get a t.flash = Store.get a s.flash :=
    next_of (P := fun x : State => Store.get a x.flash = Store.get a s.flash) hu e
  have hcut := get_cutShort_other hop hsuspended
  by_cases hc : endsArrayWork c = false
  · rw [flash_of_not_endsArrayWork hc h]
  · cases c
    case powerOn => exact after ((congrArg (Store.get a) (flash_powerOnStep s)).trans hcut) h
    case powerLoss => exact after (u := { discardAll s with powered := false }) hcut h
    case rstAsserted => exact after (u := { discardAll s with rst := true }) hcut h
    case rstDeasserted => exact after (congrArg (Store.get a) (flash_rstDeassertedStep s)) h
    case arrayOperationTimeout => exact after (get_whileRunning (get_timeoutStep_other hop)) h
    case eraseSuspendTimeout => exact after (get_whileRunning (get_suspendTimeoutStep_other hop)) h
    case programCompletion ok => exact after (get_whileRunning (get_programCompletionStep_other hop ok)) h
    case eraseCompletion ok => exact after (get_whileRunning (get_eraseCompletionStep_other hop ok)) h
    all_goals exact absurd rfl hc

/-- Settles O57, by the command: eight end array work or cut it short, the others touch no page. -/
theorem arrayChangesOnlyAtItsOperations : Obligations.ArrayChangesOnlyAtItsOperations := by
  refine fun c s t h => ⟨fun a hop hsuspended => get_of_not_target hop hsuspended h,
    fun hreset htimeout hsuspend hprogram herase => flash_of_not_endsArrayWork ?_ h⟩
  cases c
  case arrayOperationTimeout => exact absurd rfl htimeout
  case eraseSuspendTimeout => exact absurd rfl hsuspend
  case programCompletion ok => exact absurd rfl (hprogram ok)
  case eraseCompletion ok => exact absurd rfl (herase ok)
  all_goals exact hreset

end Sys2Proof.Machine


/-! # What RST and loss of power leave of the array's work (R19, R84) -/

namespace Sys2Proof.Machine

/-- What an erase cut short leaves of a page: of its own segment one that may be read blank or unreadable, of any other
the page as it was (R84(3)). -/
def tornByErase (g : Nat) (e : EraseRun) (page : Option StoredPage) : Option StoredPage :=
  if e.seg = g then some ⟨page.bind StoredPage.data, .halfErased⟩ else page

theorem spoiled_halfErased (page : Option StoredPage) :
    spoiled (fun _ => .halfErased) page = ⟨page.bind StoredPage.data, .halfErased⟩ := by
  cases page <;> rfl

theorem pageAt_cutErase {p : Nat} (hp : p < Config.pages) (g : Nat) (e : Option EraseRun) (s : State) :
    pageAt g p (cutErase e s) = match e with
      | some e => tornByErase g e (pageAt g p s)
      | none => pageAt g p s := by
  cases e with
  | none => rfl
  | some e =>
    rw [cutErase, pageAt_spoilSegment hp, spoiled_halfErased]
    simp only [tornByErase, eq_comm (a := g)]

/-- What the operation that ran leaves of a page: a program leaves its own torn, an erase those of its segment half erased,
and a read leaves every page unchanged (R84(1) to (3)). -/
theorem pageAt_cutOperation {p : Nat} (hp : p < Config.pages) (g : Nat) (op : Option ArrayOp) (s : State) :
    pageAt g p (cutOperation op s) = match op with
      | some (.program _ h q data) => if pageAddr g p = pageAddr h q then some ⟨some data, .torn⟩ else pageAt g p s
      | some (.erase e) => tornByErase g e (pageAt g p s)
      | some (.read _) => pageAt g p s
      | none => pageAt g p s := by
  unfold cutOperation
  split
  · next h q data =>
    dsimp only
    split
    · next haddr => rw [pageAt, haddr]; exact Store.get_put_same ..
    · next haddr => exact get_setPage_other haddr ..
  · next e => exact pageAt_cutErase hp g (some e) s
  · next hprogram herase =>
    cases op with
    | none => rfl
    | some op =>
      cases op with
      | read run => rfl
      | program o h q data => exact absurd rfl (hprogram o h q data)
      | erase e => exact absurd rfl (herase e)

/-- Settles O4: the operation running is cut short first, then the suspended erase. -/
theorem resetCutsArrayWorkShort : Obligations.ResetCutsArrayWorkShort := by
  intro c s g p hc hp
  have hpage : pageAt g p (cutShort s) = _ := pageAt_cutErase hp g s.arr.suspended (cutOperation s.arr.op s)
  rw [pageAt_cutOperation hp] at hpage
  rcases hc with rfl | rfl
  · exact ⟨{ discardAll s with rst := true }, rfl, hpage, rfl⟩
  · exact ⟨{ discardAll s with powered := false }, rfl, hpage, rfl⟩

end Sys2Proof.Machine


/-! # Reads end by their originator (R19, R71, R80, R115, R119, R179, R181) -/

namespace Sys2Proof.Machine

/-! ## The answer of a GET (R119, R181) -/

theorem answerGet_of_discard {s : State} (h : s.engine.discard = true) (st : Status) (d : ReplyData) :
    answerGet st d s = { s with engine := { s.engine with discard := false } } := by
  simp [answerGet, h]

theorem answerGet_of_idle {s : State} (hdiscard : s.engine.discard = false) (hactive : s.engine.active = none)
    (st : Status) (d : ReplyData) : answerGet st d s = s := by
  simp [answerGet, hdiscard, hactive, answerOpt]

theorem answerGet_of_active {s : State} {n : Nat} (hdiscard : s.engine.discard = false)
    (hactive : s.engine.active = some n) (st : Status) (d : ReplyData) : answerGet st d s = answer n st d s := by
  simp [answerGet, hdiscard, hactive, answerOpt]

/-- The answer of the engine's own slot lets the engine go (R179, R181). -/
theorem answer_active_frame {s : State} {n : Nat} (h : s.engine.active = some n) (st : Status) (d : ReplyData) :
    answer n st d s = { s with
      engine := { s.engine with active := none }
      link := { s.link with slots := (answer n st d s).link.slots } } := by
  simp only [answer, Engine.release, h, if_true]
  rfl

/-- A record is readable when its cells are, and its header names it, and its value check matches (R115). -/
theorem recordReadable_iff (w : Written) (k : Key) (q len : Nat) (loc : Loc) (cells : Nat) :
    w.recordReadable k q len loc cells = true ↔ w.cellsReadable loc.cell cells = true ∧
      (∃ chk v, w.entryAt loc.cell = some (.record k q len chk v)) ∧ loc.cell ∉ w.mismatch := by
  have hmatches : w.recordMatches k q len loc = true ↔
      (∃ chk v, w.entryAt loc.cell = some (.record k q len chk v)) ∧ loc.cell ∉ w.mismatch := by
    unfold Written.recordMatches
    split
    · next k' q' l' chk v hentry =>
      simp only [hentry, Bool.and_eq_true, beq_iff_eq, Bool.not_eq_true', List.contains_eq_mem, decide_eq_false_iff_not,
        Option.some.injEq, Entry.record.injEq, and_assoc, exists_and_left, exists_eq', and_true]
    · next hother =>
      refine ⟨fun h => absurd h Bool.false_ne_true, ?_⟩
      rintro ⟨⟨chk, v, hentry⟩, _⟩
      exact absurd hentry (hother k q len chk v)
  rw [Written.recordReadable, Bool.and_eq_true, hmatches]

theorem getOutcome_of_readable {t : GetTaken} {w : Written} {chk : BitVec 16} {v : List Byte}
    (hcells : w.cellsReadable t.loc.cell t.cells = true)
    (hentry : w.entryAt t.loc.cell = some (.record t.key t.seq t.len chk v)) (hmis : t.loc.cell ∉ w.mismatch) :
    getOutcome t (.written w) = (.ok, .value t.seq t.len (w.correctedOf t.loc.cell t.cells) v) := by
  have hvalue : w.valueAt t.loc.cell = v := by simp [Written.valueAt, hentry]
  have hreadable := (recordReadable_iff w t.key t.seq t.len t.loc t.cells).mpr ⟨hcells, ⟨chk, v, hentry⟩, hmis⟩
  simp [getOutcome, hreadable, hvalue]

theorem getOutcome_of_unreadable {t : GetTaken} {w : Written}
    (h : w.cellsReadable t.loc.cell t.cells = false ∨ t.loc.cell ∈ w.mismatch ∨
      ∀ chk v, w.entryAt t.loc.cell ≠ some (.record t.key t.seq t.len chk v)) :
    getOutcome t (.written w) = (.lost, .lostRecord t.seq t.len) := by
  have hnot : ¬ w.recordReadable t.key t.seq t.len t.loc t.cells = true := by
    rw [recordReadable_iff]
    rintro ⟨hcells, ⟨chk, v, hentry⟩, hmis⟩
    rcases h with h | h | h
    · rw [hcells] at h; cases h
    · exact hmis h
    · exact h chk v hentry
  simp [getOutcome, hnot]

theorem getOutcome_blank (t : GetTaken) : getOutcome t .blank = (.lost, .lostRecord t.seq t.len) := rfl

/-! ## The end of a page read (R80) -/

theorem exec_readCompletion {s : State} {run : ReadRun} {rep : ReadReport} (hheld : isHeld s = false)
    (hop : s.arr.op = some (.read run)) (hrep : canReport (pageAt run.seg run.page s) rep = true) :
    exec (.readCompletion rep) s = .next (readEnds run (deliver (pageAt run.seg run.page s) rep) s) := by
  simp [exec, execReadCompletion, whileRunning, hheld, readCompletionStep, hop, hrep]

/-- A report that cannot be of the page changes nothing (assumption 4). -/
theorem exec_readCompletion_impossible {s : State} {run : ReadRun} {rep : ReadReport} (hheld : isHeld s = false)
    (hop : s.arr.op = some (.read run)) (hrep : canReport (pageAt run.seg run.page s) rep = false) :
    exec (.readCompletion rep) s = .next s := by
  simp [exec, execReadCompletion, whileRunning, hheld, readCompletionStep, hop, hrep]

section
variable {run : ReadRun} (o : ReadOutcome) (s : State)

theorem readOriginator_get {t : GetTaken} (h : run.origin = .requestEngine) (ht : run.get = some t) :
    readOriginator run o s = answerGet (getOutcome t o).1 (getOutcome t o).2 s := by
  simp [readOriginator, h, ht]

theorem readOriginator_compaction (h : run.origin = .compaction) :
    readOriginator run o s = engineRead run.seg run.page o s := by
  simp [readOriginator, h]

theorem readOriginator_startup (h : run.origin = .startup) :
    readOriginator run o s = startupReadEnded run.seg run.page o s := by
  simp [readOriginator, h]

theorem readOriginator_patrol (h : run.origin = .patrolUnit) : readOriginator run o s = s := by
  simp [readOriginator, h]

end

/-! ## What the array can report and deliver (R19, R71) -/

theorem canReport_iff (page : Option StoredPage) (rep : ReadReport) : canReport page rep = true ↔
    (page = none → rep = .blank) ∧ ∀ x, page = some x → x.quality = .torn → rep ≠ .blank := by
  cases page with
  | none => cases rep <;> simp [canReport]
  | some x => cases rep <;> simp [canReport]

theorem allReadable_false {c : Codewords} (h : ∃ i, i < 4 ∧ Codewords.countAt c i = none) :
    Codewords.allReadable c = false := by
  obtain ⟨i, hi, hnone⟩ := h
  have hmem : Codewords.countAt c i ∈ Codewords.counts c := by
    refine List.mem_map_of_mem (f := Codewords.countAt c) ?_
    simp only [List.mem_cons, List.not_mem_nil, or_false]
    omega
  rw [Codewords.allReadable, List.all_eq_false]
  exact ⟨_, hmem, by simp [hnone]⟩

/-- No check of a page can pass that a program or an erase cut short left (R19(5)). -/
theorem canPass_false {x : StoredPage} (h : x.quality = .torn ∨ x.quality = .halfErased) :
    StoredPage.canPass (some x) = false := by
  rcases h with h | h <;> simp [StoredPage.canPass, h]

section
variable {page : Option StoredPage} {cws : Codewords} {trailer check : Bool} {mis : List Nat} {w : Written}
  (h : deliver page (.written cws trailer check mis) = .written w)
include h

/-- A form's own check passes when the array finds it to, every codeword is readable, and the page's checks can pass
(R71). -/
theorem deliver_ownCheck : w.ownCheck = (check && Codewords.allReadable cws && StoredPage.canPass page) := by
  simp only [deliver, ReadOutcome.written.injEq] at h
  rw [← h]

/-- The page check needs the trailer besides (R71). -/
theorem deliver_pageCheck : w.pageCheck = (w.ownCheck && trailer) := by
  simp only [deliver, ReadOutcome.written.injEq] at h
  rw [← h]

theorem deliver_mismatch (hcheck : w.pageCheck = true) : w.mismatch = [] := by
  simp only [deliver, ReadOutcome.written.injEq] at h
  rw [← h] at hcheck ⊢
  exact if_pos hcheck

theorem deliver_trailer (htrailer : trailer = true) :
    w.trailer = (page.bind StoredPage.data).bind PageData.trailer? := by
  simp only [deliver, ReadOutcome.written.injEq] at h
  rw [← h]
  simp only [htrailer, if_true]

end

/-- Settles O37: the GET's answer, the engine's slot, the other originators, and what a report can be and deliver. -/
theorem readsEndByTheirOriginator : Obligations.ReadsEndByTheirOriginator := by
  refine ⟨fun s run t rep hheld hop hrep horigin hget => ⟨?_, fun w v chk ho hcells hentry hmis => ?_,
      fun w ho h => ?_, fun ho => ?_⟩,
    fun s st d => ⟨fun h => answerGet_of_discard h st d, fun hd ha => answerGet_of_idle hd ha st d,
      fun n hd ha => ⟨?_, fun sl hsl => ?_, fun m hm => ?_⟩⟩,
    fun s run rep hheld hop hrep => ⟨fun horigin => ?_, fun horigin => ?_, fun horigin => ?_⟩,
    fun s run rep => exec_readCompletion_impossible, canReport_iff,
    fun page cws trailer check mis w hw => ⟨fun hcheck => ⟨deliver_mismatch hw hcheck, ?_⟩, fun h => ?_, fun h => ?_,
      fun x hx hq => ?_⟩⟩
  · rw [exec_readCompletion hheld hop hrep, readEnds, readOriginator_get _ _ horigin hget]
    rfl
  · rw [ho]; exact getOutcome_of_readable hcells hentry hmis
  · rw [ho]; exact getOutcome_of_unreadable h
  · rw [ho]; exact getOutcome_blank t
  · rw [answerGet_of_active hd ha]; exact answer_active_frame ha st d
  · rw [answerGet_of_active hd ha, slotAt_answer, if_pos rfl, hsl]; rfl
  · rw [answerGet_of_active hd ha, slotAt_answer, if_neg hm]
  · rw [exec_readCompletion hheld hop hrep, readEnds, readOriginator_patrol _ _ horigin]
    rfl
  · rw [exec_readCompletion hheld hop hrep, readEnds, readOriginator_compaction _ _ horigin]
    rfl
  · rw [exec_readCompletion hheld hop hrep, readEnds, readOriginator_startup _ _ horigin]
    rfl
  · have htrailer : trailer = true := by
      rw [deliver_pageCheck hw, Bool.and_eq_true] at hcheck
      exact hcheck.2
    rw [deliver_trailer hw htrailer]
    cases page.bind StoredPage.data with
    | none => rfl
    | some data => cases data <;> rfl
  · rw [deliver_pageCheck hw, deliver_ownCheck hw]
    rcases h with h | h
    · rw [allReadable_false h]; simp
    · rw [h]; simp
  · rw [deliver_ownCheck hw, allReadable_false h]; simp
  · have hown : w.ownCheck = false := by rw [deliver_ownCheck hw, hx, canPass_false hq]; simp
    exact ⟨by rw [deliver_pageCheck hw, hown]; rfl, hown⟩

end Sys2Proof.Machine


/-! # Claims, grants and the starvation guard (R75, R76, R78, R79, R83) -/

namespace Sys2Proof.Machine

/-! ## A claim that is made, and a place that empties (R75, R76) -/

theorem Store.dropFirst_of_find_none {α : Type} {p : α → Bool} {l : List α} (h : l.find? p = none) :
    Store.dropFirst p l = l := by
  induction l with
  | nil => rfl
  | cons x xs ih =>
    obtain ⟨hx, hxs⟩ : p x = false ∧ xs.find? p = none := by
      rw [List.find?_cons] at h
      split at h
      · cases h
      · next hx => exact ⟨hx, h⟩
    rw [Store.dropFirst, hx, ih hxs]
    rfl

namespace ArrayCtl

variable (a : ArrayCtl) (cls : ClaimClass)

@[simp] theorem setPlace_op (c : Option Claim) : (a.setPlace cls c).op = a.op := by cases cls <;> rfl
@[simp] theorem setPlace_suspended (c : Option Claim) : (a.setPlace cls c).suspended = a.suspended := by
  cases cls <;> rfl

@[simp] theorem place_outside (l : List Claim) : ({ a with outside := l } : ArrayCtl).place cls = a.place cls := by
  cases cls <;> rfl

/-- A claim finds its place empty (R76). -/
theorem claim_of_empty {c : Claim} (h : a.place c.cls = none) : a.claim c = a.setPlace c.cls (some c) := by
  simp [claim, h]

/-- A claim finds its place taken, and waits outside (R76). -/
theorem claim_of_taken {c x : Claim} (h : a.place c.cls = some x) :
    a.claim c = { a with outside := a.outside ++ [c] } := by
  simp [claim, h]

/-- The place emptied takes the oldest claim of its class from outside, when there is one (R76). -/
theorem leave_eq : a.leave cls = { a.setPlace cls (a.outside.find? (fun c => c.cls == cls)) with
    outside := Store.dropFirst (fun c => c.cls == cls) a.outside } := by
  rw [leave, refill, place_setPlace_same, setPlace_outside]
  dsimp only
  split
  · next h =>
    rw [h, Store.dropFirst_of_find_none h]
    cases cls <;> rfl
  · next c h =>
    rw [h]
    cases cls <;> rfl

theorem leave_place_same : (a.leave cls).place cls = a.outside.find? (fun c => c.cls == cls) := by
  rw [leave_eq, place_outside, place_setPlace_same]

theorem leave_place_other {other : ClaimClass} (h : other ≠ cls) : (a.leave cls).place other = a.place other := by
  rw [leave_eq, place_outside, place_setPlace_other h]

theorem leave_outside : (a.leave cls).outside = Store.dropFirst (fun c => c.cls == cls) a.outside := by rw [leave_eq]

theorem leave_op : (a.leave cls).op = a.op := by rw [leave_eq]; exact setPlace_op ..

theorem leave_suspended : (a.leave cls).suspended = a.suspended := by rw [leave_eq]; exact setPlace_suspended ..

/-! ## The arbiter's choice (R78, R79) -/

/-- The guard is due: RELOCATE is granted out of order (R79). -/
theorem nextClass_of_guard {low : Bool} (hguard : a.guardCount = 4) (hrel : a.relPlace.isSome) :
    a.nextClass low = some .relocate := by
  simp [nextClass, hguard, hrel]

/-- The guard is not due, and Table 4-3 decides (R78). -/
theorem nextClass_of_order {low : Bool} (h : a.guardCount ≠ 4 ∨ a.relPlace = none) :
    a.nextClass low = (grantOrder low).find? (fun cls => (a.place cls).isSome) := by
  refine if_neg ?_
  rintro ⟨hguard, hrel⟩
  rcases h with h | h
  · exact h hguard
  · rw [h] at hrel; cases hrel

/-- The place of the granted class does not count among those that wait (R79(1)). -/
theorem guardAfter_setPlace (c : Option Claim) : (a.setPlace cls c).guardAfter cls = a.guardAfter cls := by
  cases cls <;> rfl

end ArrayCtl

/-! ## The grant (R78, R79, R83) -/

section
variable {s : State} {k : Key}

theorem getLookup_programmed {q len cells : Nat} {loc : Loc} (h : lookup k s = some (.live q len cells loc true)) :
    getLookup k s = .onArray ⟨k, q, len, loc, cells⟩ := by
  simp [getLookup, h]

theorem getLookup_pending {q len cells : Nat} {loc : Loc} (h : lookup k s = some (.live q len cells loc false)) :
    getLookup k s = .answered .ok (.value q len 0 (ramValue loc s)) := by
  simp [getLookup, h]

theorem getLookup_lost {q len : Nat} (h : lookup k s = some (.lost q len)) :
    getLookup k s = .answered .lost (.lostRecord q len) := by
  simp [getLookup, h]

/-- The claims are nothing that a GET's lookup sees (R16). -/
theorem getLookup_arr (k : Key) (s : State) (a : ArrayCtl) : getLookup k { s with arr := a } = getLookup k s := rfl

end

/-- The state in which a claim of class `cls` has been granted as `op` (R76, R78, R79). -/
def granted (ended : Bool) (cls : ClaimClass) (op : ArrayOp) (s : State) : State :=
  { s with arr := { s.arr.leave cls with
      op := some op
      guardCount := if ended = true then s.arr.guardAfter cls else 0 } }

theorem startOp_takePlace (ended : Bool) (cls : ClaimClass) (op : ArrayOp) (s : State) :
    startOp (some op) (takePlace ended cls s) = granted ended cls op s := by
  simp only [startOp, takePlace, granted, ArrayCtl.guardAfter_setPlace]

/-- The arbiter does nothing while the array works or no claim waits (R78). -/
theorem arbitrate_of_nothing {s : State} (ended : Bool) (fuel : Nat)
    (h : s.arr.op ≠ none ∨ s.arr.suspended ≠ none ∨ s.arr.nextClass s.lowFree = none) :
    arbitrate ended fuel s = s := by
  cases fuel with
  | zero => rfl
  | succ fuel =>
    unfold arbitrate
    split
    · next hidle =>
      obtain ⟨hop, hsuspended⟩ : s.arr.op = none ∧ s.arr.suspended = none := by
        simpa [ArrayCtl.isIdle] using hidle
      have hnone : s.arr.nextClass s.lowFree = none :=
        h.elim (absurd hop) (fun h => h.elim (absurd hsuspended) id)
      rw [hnone]
    · rfl

/-- The array is idle, and claim `c` of class `cls` is the one to grant (R78). -/
structure Chosen (cls : ClaimClass) (c : Claim) (s : State) : Prop where
  op : s.arr.op = none
  suspended : s.arr.suspended = none
  next : s.arr.nextClass s.lowFree = some cls
  place : s.arr.place cls = some c

namespace Chosen

variable {cls : ClaimClass} {c : Claim} {s : State}

theorem isIdle (h : Chosen cls c s) : s.arr.isIdle = true := by simp [ArrayCtl.isIdle, h.op, h.suspended]

/-- A claim that names its operation is granted as it (R78). -/
theorem arbitrate_operation (h : Chosen cls c s) (ended : Bool) (fuel : Nat) {op : ArrayOp}
    (hop : c.operation = some op) : arbitrate ended (fuel + 1) s = granted ended cls op s := by
  rw [← startOp_takePlace, ← hop]
  simp only [arbitrate, h.isIdle, if_true, h.next, h.place]
  split
  · next k hk => simp [Claim.operation, hk] at hop
  · rfl

variable {k : Key} (hk : c.op = .readKey k)
include hk

/-- A GET's read whose record is programmed is granted as the read of its page (R83). -/
theorem arbitrate_get_onArray (h : Chosen cls c s) (ended : Bool) (fuel : Nat) {t : GetTaken}
    (ht : getLookup k s = .onArray t) : arbitrate ended (fuel + 1) s = granted ended cls (getRead t) s := by
  rw [← startOp_takePlace]
  simp only [arbitrate, h.isIdle, if_true, h.next, h.place, hk, ht]

/-- A GET's read whose key is anything else is withdrawn, the GET answered, and the arbiter chooses again (R83). -/
theorem arbitrate_get_answered (h : Chosen cls c s) (ended : Bool) (fuel : Nat) {st : Status} {d : ReplyData}
    (hst : getLookup k s = .answered st d) :
    arbitrate ended (fuel + 1) s = arbitrate ended fuel (withdrawGet st d s) := by
  simp only [arbitrate, h.isIdle, if_true, h.next, h.place, hk, hst]

end Chosen

/-- Table 4-3, line by line, and the guard count (R78, R79). -/
theorem arbiter_choice (a : ArrayCtl) (low : Bool) :
    (a.guardCount = 4 → a.relPlace.isSome → a.nextClass low = some .relocate) ∧
    (a.guardCount ≠ 4 ∨ a.relPlace = none →
      (a.catPlace.isSome → a.nextClass low = some .catalogue) ∧
      (a.catPlace = none →
        (low = false → a.hostPlace.isSome → a.nextClass low = some .host) ∧
        (low = false → a.hostPlace = none → a.relPlace.isSome → a.nextClass low = some .relocate) ∧
        (low = true → a.relPlace.isSome → a.nextClass low = some .relocate) ∧
        (low = true → a.relPlace = none → a.hostPlace.isSome → a.nextClass low = some .host) ∧
        (a.hostPlace = none → a.relPlace = none → a.patPlace.isSome → a.nextClass low = some .patrol) ∧
        (a.hostPlace = none → a.relPlace = none → a.patPlace = none → a.nextClass low = none))) := by
  refine ⟨a.nextClass_of_guard, fun h => ?_⟩
  rw [a.nextClass_of_order h]
  refine ⟨fun hcat => ?_, fun hcat => ⟨?_, ?_, ?_, ?_, fun hhost hrel hpat => ?_, fun hhost hrel hpat => ?_⟩⟩
  · cases low <;> simp [grantOrder, ArrayCtl.place, hcat]
  · rintro rfl hhost; simp [grantOrder, ArrayCtl.place, hcat, hhost]
  · rintro rfl hhost hrel; simp [grantOrder, ArrayCtl.place, hcat, hhost, hrel]
  · rintro rfl hrel; simp [grantOrder, ArrayCtl.place, hcat, hrel]
  · rintro rfl hrel hhost; simp [grantOrder, ArrayCtl.place, hcat, hhost, hrel]
  · cases low <;> simp [grantOrder, ArrayCtl.place, hcat, hhost, hrel, hpat]
  · cases low <;> simp [grantOrder, ArrayCtl.place, hcat, hhost, hrel, hpat]

/-- Settles O44: the choice, a claim made, a place emptied, and the grant by the operation of the claim. -/
theorem grantOrderAndGuard : Obligations.GrantOrderAndGuard := by
  refine ⟨fun a low => ⟨(arbiter_choice a low).1, (arbiter_choice a low).2, fun hrel => ?_, fun hrel => ?_,
      fun cls hcls => ?_⟩,
    fun s c => ⟨fun h => ?_, fun x hx => ?_, fun other hother => (ArrayCtl.ClaimsChange.claim c s.arr).place other hother,
      (ArrayCtl.ClaimsChange.claim c s.arr).op, (ArrayCtl.ClaimsChange.claim c s.arr).suspended,
      ArrayCtl.claim_guardCount .., rfl⟩,
    fun a cls => ⟨a.leave_place_same cls, fun other => a.leave_place_other cls, a.leave_outside cls, a.leave_op cls,
      a.leave_suspended cls, a.leave_guardCount cls⟩,
    fun s ended fuel => ⟨arbitrate_of_nothing ended fuel, fun cls c hop hsuspended hnext hplace => ?_⟩⟩
  · simp [ArrayCtl.guardAfter, hrel]
  · simp [ArrayCtl.guardAfter, hrel]
  · cases cls with
    | host => exact absurd rfl hcls
    | catalogue => rfl
    | relocate => rfl
    | patrol => rfl
  · rw [makeClaim, s.arr.claim_of_empty h]
    exact ⟨ArrayCtl.place_setPlace_same .., ArrayCtl.setPlace_outside ..⟩
  · rw [makeClaim, s.arr.claim_of_taken hx]
    exact ⟨(ArrayCtl.place_outside ..).trans hx, rfl⟩
  · have h : Chosen cls c s := ⟨hop, hsuspended, hnext, hplace⟩
    refine ⟨fun g p hc => ?_, fun g p d hc => ?_, fun g hc => ?_, fun k hk =>
      ⟨fun q len cells loc hl => ?_, fun q len cells loc hl => ?_, fun q len hl => ?_, fun hl => ?_⟩⟩
    · exact h.arbitrate_operation ended fuel (by rw [Claim.operation, hc])
    · exact h.arbitrate_operation ended fuel (by rw [Claim.operation, hc])
    · exact h.arbitrate_operation ended fuel (by rw [Claim.operation, hc])
    · exact h.arbitrate_get_onArray hk ended fuel (getLookup_programmed hl)
    · exact h.arbitrate_get_answered hk ended fuel (getLookup_pending hl)
    · exact h.arbitrate_get_answered hk ended fuel (getLookup_lost hl)
    · exact h.arbitrate_get_answered hk ended fuel (getLookup_absent hl)

end Sys2Proof.Machine


/-! # Timeouts, and what goes on while an erase is suspended (R70, R72 to R74, R79 to R83) -/

namespace Sys2Proof.Machine

/-! ## The operation stopped (R70, R72 to R74) -/

section
variable {s : State} (hheld : isHeld s = false)
include hheld

theorem exec_timeout_idle (hop : s.arr.op = none) : exec .arrayOperationTimeout s = .next s := by
  simp [exec, execArrayOperationTimeout, whileRunning, hheld, timeoutStep, hop]

theorem exec_timeout_read {run : ReadRun} (hop : s.arr.op = some (.read run)) :
    exec .arrayOperationTimeout s = .next (readEnds run failedRead s) := by
  simp [exec, execArrayOperationTimeout, whileRunning, hheld, timeoutStep, hop]

/-- A program stopped ends as one that reports FAIL (R73). -/
theorem exec_timeout_program {o : Originator} {g p : Nat} {d : PageData} (hop : s.arr.op = some (.program o g p d)) :
    exec .arrayOperationTimeout s = exec (.programCompletion false) s := by
  simp [exec, execArrayOperationTimeout, execProgramCompletion, whileRunning, hheld, timeoutStep,
    programCompletionStep, hop]

/-- An erase stopped ends as one that reports FAIL (R74). -/
theorem exec_timeout_erase {e : EraseRun} (hop : s.arr.op = some (.erase e)) :
    exec .arrayOperationTimeout s = exec (.eraseCompletion false) s := by
  simp [exec, execArrayOperationTimeout, execEraseCompletion, whileRunning, hheld, timeoutStep, eraseCompletionStep,
    hop]

/-! ## The suspension requested (R81) -/

/-- An erase that does not suspend in time ends as one that reports FAIL (R81(c)). -/
theorem exec_suspendTimeout {e : EraseRun} (hop : s.arr.op = some (.erase e)) (hreq : s.arr.suspendRequested = true) :
    exec .eraseSuspendTimeout s = exec (.eraseCompletion false) s := by
  simp [exec, execEraseSuspendTimeout, execEraseCompletion, whileRunning, hheld, suspendTimeoutStep,
    eraseCompletionStep, hop, hreq]

theorem exec_eraseSuspended {e : EraseRun} (hop : s.arr.op = some (.erase e)) (hreq : s.arr.suspendRequested = true) :
    exec .eraseSuspended s =
      .next (settle (suspendNext 2 { s with arr := { s.arr with op := none, suspended := some e } })) := by
  simp [exec, execEraseSuspended, whileRunning, hheld, eraseSuspendedStep, hop, hreq, suspendErase]

theorem exec_suspension_unrequested {e : EraseRun} (hop : s.arr.op = some (.erase e))
    (hreq : s.arr.suspendRequested = false) :
    exec .eraseSuspended s = .next s ∧ exec .eraseSuspendTimeout s = .next s := by
  simp [exec, execEraseSuspended, execEraseSuspendTimeout, whileRunning, hheld, eraseSuspendedStep,
    suspendTimeoutStep, hop, hreq]

end

/-- A GET's read stands in the HOST place (R81). -/
theorem getWaiting_iff (a : ArrayCtl) : a.getWaiting = true ↔ ∃ c k, a.hostPlace = some c ∧ c.op = .readKey k := by
  unfold ArrayCtl.getWaiting
  cases a.hostPlace with
  | none => simp
  | some c => cases hc : c.op <;> simp [Claim.isGetRead, hc]

theorem suspendRequested_iff {a : ArrayCtl} {e : EraseRun} (hop : a.op = some (.erase e)) :
    a.suspendRequested = true ↔ (∃ c k, a.hostPlace = some c ∧ c.op = .readKey k) ∧ e.suspensions < 6 := by
  simp only [ArrayCtl.suspendRequested, hop, Bool.and_eq_true, getWaiting_iff, Config.suspendLimit]
  exact and_congr_right fun _ => decide_eq_true_iff

/-! ## While an erase is suspended (R82, R83) -/

/-- With an operation running, or no erase suspended, nothing is due (R82). -/
theorem suspendNext_of_nothing {s : State} (fuel : Nat) (h : s.arr.op ≠ none ∨ s.arr.suspended = none) :
    suspendNext fuel s = s := by
  cases fuel with
  | zero => rfl
  | succ fuel =>
    unfold suspendNext
    split
    · next e hop hsuspended =>
      rcases h with h | h
      · exact absurd hop h
      · rw [hsuspended] at h; cases h
    · rfl

/-- The places when a GET's read leaves the HOST place for a suspension of erase `e` (R82). -/
def leftForSuspension (e : EraseRun) (a : ArrayCtl) : ArrayCtl :=
  { a.leave .host with suspended := some { e with suspensions := e.suspensions + 1 } }

theorem leave_of_suspended (e : EraseRun) (a : ArrayCtl) :
    ({ a with suspended := some { e with suspensions := e.suspensions + 1 } } : ArrayCtl).leave .host =
      leftForSuspension e a := by
  rw [leftForSuspension, ArrayCtl.leave_eq, ArrayCtl.leave_eq]
  rfl

/-- What becomes of a GET's read that is looked at for a suspension of erase `e`, by what its key is found to be (R82,
R83). -/
def suspendGet (fuel : Nat) (e : EraseRun) (s : State) : Found → State
  | .answered st d => suspendNext fuel (answerGet st d { s with arr := leftForSuspension e s.arr })
  | .onArray t => { s with arr := { leftForSuspension e s.arr with op := some (getRead t) } }

section
variable {s : State} {e : EraseRun} (hop : s.arr.op = none) (hsuspended : s.arr.suspended = some e) (fuel : Nat)
include hop hsuspended

/-- With no GET's read in the HOST place the erase resumes (R82). -/
theorem suspendNext_resumes (h : ∀ c k, s.arr.hostPlace = some c → c.op ≠ .readKey k) :
    suspendNext (fuel + 1) s = resumeErase e s := by
  simp only [suspendNext, hop, hsuspended]
  split
  · rfl
  · next c hc =>
    split
    · next k hk => exact absurd hk (h c k hc)
    · rfl

variable {c : Claim} {k : Key} (hplace : s.arr.hostPlace = some c) (hc : c.op = .readKey k)
include hplace hc

/-- At 6 suspensions the erase resumes and the read waits (R82). -/
theorem suspendNext_resumes_at_limit (hlimit : 6 ≤ e.suspensions) : suspendNext (fuel + 1) s = resumeErase e s := by
  have h : ¬ e.suspensions < Config.suspendLimit := Nat.not_lt.mpr hlimit
  simp only [suspendNext, hop, hsuspended, hplace, hc, if_neg h]

/-- Below 6 suspensions the GET's read is resolved by the index as it stands (R82, R83). -/
theorem suspendNext_get (hlimit : e.suspensions < 6) :
    suspendNext (fuel + 1) s = suspendGet fuel e s (getLookup k s) := by
  have hbelow : e.suspensions < Config.suspendLimit := hlimit
  unfold suspendNext
  split
  · next e' _ he =>
    obtain rfl : e = e' := Option.some.inj (hsuspended.symm.trans he)
    split
    · next hnone => rw [hnone] at hplace; cases hplace
    · next c' hc' =>
      obtain rfl : c = c' := Option.some.inj (hplace.symm.trans hc')
      split
      · next k' hk' =>
        obtain rfl : k = k' := ClaimOp.readKey.inj (hc.symm.trans hk')
        rw [if_pos hbelow]
        dsimp only
        rw [getLookup_arr, leave_of_suspended]
        cases getLookup k s with
        | answered st d => dsimp only [withdrawGet]; rw [leave_of_suspended]; rfl
        | onArray t => rfl
      · next hother => exact absurd hc (hother k)
  · next hother => exact absurd hsuspended (hother e hop)

end

theorem leftForSuspension_guardCount (e : EraseRun) (a : ArrayCtl) :
    (leftForSuspension e a).guardCount = a.guardCount := a.leave_guardCount .host

/-- Settles O43: the operation stopped, the originators, the suspension requested, and the erase suspended. -/
theorem timeoutsAndSuspensionsEnd : Obligations.TimeoutsAndSuspensionsEnd := by
  refine ⟨fun s hheld => ⟨exec_timeout_idle hheld, fun o g p d hop => ⟨exec_timeout_program hheld hop, ?_⟩,
      fun e hop => ⟨exec_timeout_erase hheld hop, ?_⟩, fun run => exec_timeout_read hheld⟩,
    fun s ok => ⟨rfl, rfl, rfl, rfl, rfl, rfl, rfl, rfl⟩,
    fun s run o => ⟨fun t horigin hget => ⟨readOriginator_get o s horigin hget, fun ho => ?_⟩,
      readOriginator_compaction o s, readOriginator_startup o s, readOriginator_patrol o s⟩,
    fun s e hheld hop => ⟨suspendRequested_iff hop, exec_suspension_unrequested hheld hop,
      fun hreq => ⟨exec_suspendTimeout hheld hop hreq, ?_, exec_eraseSuspended hheld hop hreq,
        fun c k q len cells loc hplace hc hl => ?_⟩⟩,
    fun s fuel => ⟨suspendNext_of_nothing fuel, fun e hop hsuspended => ⟨suspendNext_resumes hop hsuspended fuel,
      fun c k hplace hc => ⟨suspendNext_resumes_at_limit hop hsuspended fuel hplace hc, fun hlimit =>
        ⟨fun q len cells loc hl => ?_, fun q len cells loc hl => ?_, fun q len hl => ?_, fun hl => ?_⟩⟩⟩⟩⟩
  · rw [exec_timeout_program hheld hop]
    exact exec_programCompletion hheld hop false
  · rw [exec_timeout_erase hheld hop]
    exact exec_eraseCompletion hheld hop false
  · rw [ho]
    exact getOutcome_of_unreadable (.inr (.inr fun chk v => by simp [Written.entryAt]))
  · rw [exec_suspendTimeout hheld hop hreq]
    exact exec_eraseCompletion hheld hop false
  · obtain ⟨-, hlimit⟩ := (suspendRequested_iff hop).mp hreq
    rw [suspendNext_get (s := { s with arr := { s.arr with op := none, suspended := some e } }) rfl rfl 1 hplace hc
      hlimit, getLookup_arr, getLookup_programmed hl]
    exact ⟨rfl, rfl, leftForSuspension_guardCount e _⟩
  · rw [suspendNext_get hop hsuspended fuel hplace hc hlimit, getLookup_programmed hl]; rfl
  · rw [suspendNext_get hop hsuspended fuel hplace hc hlimit, getLookup_pending hl]; rfl
  · rw [suspendNext_get hop hsuspended fuel hplace hc hlimit, getLookup_lost hl]; rfl
  · rw [suspendNext_get hop hsuspended fuel hplace hc hlimit, getLookup_absent hl]; rfl

end Sys2Proof.Machine


/-! # A slot with its answer at the end of a change (R179) -/

namespace Sys2Proof.Machine

/-! ## What names a slot to be answered -/

/-- The slots, and what names one of them to the tests at the end of a change: the engine, the COMPACT list, the writer's
waiters, a waiting HOST entry and a FORMAT. -/
def names (s : State) : List (Nat × Slot) × Option Nat × List CompactWait × List Waiter × Option WaitingEntry ×
    Option Format :=
  (s.link.slots, s.engine.active, s.comp.compacts, s.cat.waiters, s.host.waiting, s.startup.format)

theorem SendsOnly.names {s t : State} (h : SendsOnly s t) : names t = names s := by
  unfold SendsOnly at h; rw [h]; rfl

theorem names_commitCause (id : StreamId) (s : State) : names (commitCause id s) = names s := by
  have hwaiting := commitCause_waiting id s
  rw [names, (CommitTouches.commitCause id s).frame]
  cases id with
  | relocate => rfl
  | host => exact congrArg (fun w => (s.link.slots, s.engine.active, s.comp.compacts, s.cat.waiters, w,
      s.startup.format)) hwaiting

theorem names_changeEntry (k : Key) (new : Option IndexEntry) (s : State) : names (changeEntry k new s) = names s := by
  have hold : (uncountOld (lookup k s) s).comp.compacts = s.comp.compacts := by
    unfold uncountOld dropLive; (repeat' split) <;> rfl
  have hcompacts : (changeEntry k new s).comp.compacts = s.comp.compacts := by
    rw [← hold, changeEntry, countNew_frame]; rfl
  rw [names, changeEntry_frame, hcompacts]
  rfl

theorem names_roomFor {id : StreamId} {c : Nat} {s t : State} (h : roomFor id c s = .ready t) : names t = names s := by
  rcases roomFor_ready_cases h with rfl | hopened
  · rfl
  · obtain ⟨g, _, ht⟩ := openSegment_opens hopened
    rw [ht]
    cases id <;> rfl

theorem names_placeCopy (e : Entry) (src : Loc) (s : State) : names (placeCopy e src s) = names s := by
  have hpush : names (pushEntry .relocate e s) = names s := by
    unfold pushEntry; dsimp only; split <;> rfl
  have hmove (dst : Loc) (t : State) : names (relocateEntry e src dst t) = names t := by
    unfold relocateEntry
    split
    · split
      · exact names_changeEntry ..
      · rfl
    · rfl
  unfold placeCopy
  dsimp only
  split
  · exact (names_commitCause ..).trans ((hmove ..).trans hpush)
  · exact (hmove ..).trans hpush

theorem names_dropTombstone (k : Key) (q : Nat) (loc : Loc) (s : State) : names (dropTombstone k q loc s) = names s := by
  unfold dropTombstone
  split
  · split
    · exact names_changeEntry ..
    · rfl
  · rfl

theorem names_markLost (k : Key) (q : Nat) (loc : Loc) (s : State) : names (markLost k q loc s) = names s := by
  unfold markLost
  split
  · split
    · exact names_changeEntry ..
    · rfl
  · rfl

theorem names_pageHandled (s : State) : names (pageHandled s) = names s := by
  unfold pageHandled
  split
  · rfl
  · split
    · exact names_commitCause ..
    · rfl

theorem names_abandonEvacuation (s : State) : names (abandonEvacuation s) = names s := by
  rw [names, abandonEvacuation_frame]; rfl

/-- Slot `n` stands with its answer, and nothing names it any more. -/
structure Spared (n : Nat) (sl : Slot) (s : State) : Prop where
  canonical : Store.Canonical s.link.slots
  slot : slotAt n s = some sl
  ready : sl.state = .replyReady
  active : s.engine.active ≠ some n
  compacts : ∀ c ∈ s.comp.compacts, c.slot ≠ n
  waiters : ∀ w ∈ s.cat.waiters, w.who ≠ .slot n
  waiting : ∀ k v, s.host.waiting ≠ some (.host n k v)
  format : ∀ f, s.startup.format = some f → f.slot ≠ some n

namespace Spared

variable {n : Nat} {sl : Slot} {s t : State}

theorem of_names (h : Spared n sl s) (e : names t = names s) : Spared n sl t := by
  simp only [names, Prod.mk.injEq] at e
  obtain ⟨hslots, hactive, hcompacts, hwaiters, hwaiting, hformat⟩ := e
  exact ⟨hslots ▸ h.canonical, (congrArg (Store.get n) hslots).trans h.slot, h.ready, hactive ▸ h.active,
    hcompacts ▸ h.compacts, hwaiters ▸ h.waiters, hwaiting ▸ h.waiting, hformat ▸ h.format⟩

/-! ## Answers to other slots -/

theorem answer (h : Spared n sl s) {m : Nat} (hm : m ≠ n) (st : Status) (d : ReplyData) :
    Spared n sl (answer m st d s) where
  canonical := slotsCanonical_stable.keeps_answer m st d h.canonical
  slot := by rw [slotAt_answer, if_neg hm.symm]; exact h.slot
  ready := h.ready
  active := by
    show (s.engine.release m).active ≠ some n
    unfold Engine.release
    split
    · exact nofun
    · exact h.active
  compacts := h.compacts
  waiters := h.waiters
  waiting := h.waiting
  format := h.format

theorem answerAll (h : Spared n sl s) {ns : List Nat} (hn : n ∉ ns) (st : Status) (d : ReplyData) :
    Spared n sl (answerAll ns st d s) := by
  induction ns generalizing s with
  | nil => exact h
  | cons m ns ih =>
    have hm : m ≠ n := fun e => hn (e ▸ List.mem_cons_self)
    exact ih (h.answer hm st d) fun hns => hn (List.mem_cons_of_mem m hns)

theorem answerOpt (h : Spared n sl s) {o : Option Nat} (ho : o ≠ some n) (st : Status) (d : ReplyData) :
    Spared n sl (answerOpt o st d s) := by
  cases o with
  | none => exact h
  | some m => exact h.answer (fun e => ho (congrArg some e)) st d

theorem answerHeld (h : Spared n sl s) (st : Status) : Spared n sl (answerHeld st s) := by
  unfold Machine.answerHeld
  split
  · exact h
  · next m hm =>
    refine h.answer (fun e => ?_) st .none
    obtain ⟨x, hx, hheld⟩ := slotAt_heldSlot h.canonical hm
    rw [e, h.slot] at hx
    cases hx
    rw [h.ready] at hheld
    cases hheld

theorem answerCompacts (h : Spared n sl s) (st : Status) : Spared n sl (answerCompacts st s) := by
  have hn : n ∉ s.comp.compacts.map CompactWait.slot := by
    rw [List.mem_map]
    rintro ⟨c, hc, hslot⟩
    exact h.compacts c hc hslot
  have ht := h.answerAll hn st (.freeCount s.freeCount)
  exact ⟨ht.canonical, ht.slot, ht.ready, ht.active, nofun, ht.waiters, ht.waiting, ht.format⟩

theorem dropHostWaiting (h : Spared n sl s) : Spared n sl (dropHostWaiting s) := by
  unfold Machine.dropHostWaiting
  split
  · next m k v hw =>
    have hm : m ≠ n := fun e => h.waiting k v (e ▸ hw)
    refine Spared.answer ?_ hm _ _
    exact ⟨h.canonical, h.slot, h.ready, h.active, h.compacts, h.waiters, nofun, h.format⟩
  · exact h

/-! ## Causes that are reported (R156) -/

theorem enterReadOnly (h : Spared n sl s) (c : Cause) : Spared n sl (enterReadOnly c s) := by
  have hmode : Spared n sl (changeMode .readOnly (some c) s) := h.of_names rfl
  have hended : Spared n sl (relocationEnded (changeMode .readOnly (some c) s)) :=
    hmode.dropHostWaiting.of_names ((names_commitCause ..).trans (names_abandonEvacuation _))
  exact ((hended.answerHeld .readOnlyMode).answerCompacts .readOnlyMode).of_names rfl

theorem reportCause (h : Spared n sl s) (c : Cause) : Spared n sl (reportCause c s) := by
  rcases reportCause_cases c s with ⟨_, e⟩ | ⟨_, e | e⟩
  · rw [e]; exact h.enterReadOnly c
  · rw [e]; exact h
  · rw [e]; exact h.of_names rfl

theorem reportEnding (h : Spared n sl s) (c : Cause) : Spared n sl (reportEnding c s) := by
  cases hx : s.startup.format with
  | none => rw [reportEnding_of_no_format hx]; exact h.reportCause c
  | some x =>
    rw [reportEnding_of_format hx]
    have hanswered := h.answerOpt (h.format x hx) .mediaFault .none
    refine Spared.enterReadOnly ?_ c
    exact ⟨hanswered.canonical, hanswered.slot, hanswered.ready, hanswered.active, hanswered.compacts,
      hanswered.waiters, hanswered.waiting, nofun⟩

/-! ## The snapshot test (R147, R151) -/

theorem faultWaiters (h : Spared n sl s) {ws : List Waiter} (hws : ∀ w ∈ ws, w.who ≠ .slot n) :
    Spared n sl (ws.foldl faultWaiter s) := by
  induction ws generalizing s with
  | nil => exact h
  | cons w ws ih =>
    refine ih ?_ (fun x hx => hws x (List.mem_cons_of_mem _ hx))
    unfold faultWaiter
    split
    · next m hm =>
      split
      · exact h
      · exact h.answer (fun e => hws w List.mem_cons_self (e ▸ hm)) _ _
    · exact h

theorem catalogueFails (h : Spared n sl s) : Spared n sl (catalogueFails s) := by
  have hfaulted := h.faultWaiters h.waiters
  refine Spared.reportEnding ?_ .catalogueFailed
  exact ⟨hfaulted.canonical, hfaulted.slot, hfaulted.ready, hfaulted.active, hfaulted.compacts, nofun,
    hfaulted.waiting, hfaulted.format⟩

theorem snapshotTest (h : Spared n sl s) : Spared n sl (snapshotTest s) := by
  unfold Machine.snapshotTest beginSnapshot
  split
  · split
    · exact h.catalogueFails
    · refine h.of_names ?_
      dsimp only [writeSnapshot]
      split <;> rfl
  · exact h

/-! ## The start of a run (R91, R92) -/

theorem beginEvacuation (h : Spared n sl s) (g : Nat) : Spared n sl (beginEvacuation g s) := by
  unfold Machine.beginEvacuation
  split
  · exact h.of_names rfl
  · exact (h.of_names (t := endRun s) rfl).reportCause _

theorem endNoGain (h : Spared n sl s) : Spared n sl (endNoGain s) := by
  have hended : Spared n sl (endRun s) := h.of_names rfl
  have hheld : Spared n sl (heldMediaFull (endRun s)) := by
    unfold heldMediaFull
    split
    · exact hended
    · exact hended.answerHeld _
  exact (hheld.answerCompacts .noGain).of_names rfl

theorem startTest (h : Spared n sl s) : Spared n sl (startTest s) := by
  have hended : Spared n sl (endRun s) := h.of_names rfl
  unfold Machine.startTest runDecision
  split
  · split
    · exact hended
    · split
      · exact h.beginEvacuation _
      · split
        · exact hended
        · split
          · exact h.beginEvacuation _
          · exact h.endNoGain
  · exact h

/-! ## The engine's victim (R96 to R101) -/

theorem handCopy (h : Spared n sl s) (e : Entry) (src : Loc) : Spared n sl (handCopy e src s).state := by
  unfold Machine.handCopy
  split
  · next t ht => exact h.of_names ((names_placeCopy ..).trans (names_roomFor ht))
  · exact h.of_names (names_commitCause ..)
  · exact (h.of_names (names_abandonEvacuation s)).reportCause _

theorem handTombstone (h : Spared n sl s) (k : Key) (q : Nat) (loc : Loc) :
    Spared n sl (handTombstone k q loc s).state := by
  unfold Machine.handTombstone
  split
  · exact h.of_names (names_dropTombstone ..)
  · exact h.handCopy ..

theorem handleItem (h : Spared n sl s) (i : CopyItem) : Spared n sl (handleItem i s).state := by
  unfold Machine.handleItem
  split
  · split
    · split
      · exact h.handCopy ..
      · exact h.handTombstone ..
      · exact h
    · exact h
  · split
    · exact h.handTombstone ..
    · exact h
  · split
    · split
      · exact h.handTombstone ..
      · exact h
    · split
      · exact h.of_names (names_markLost ..)
      · exact h
    · exact h

theorem copyLoop (h : Spared n sl s) (items : List CopyItem) : Spared n sl (copyLoop items s) := by
  induction items generalizing s with
  | nil => exact h.of_names (names_pageHandled s)
  | cons i rest ih =>
    have hitem := h.handleItem i
    unfold Machine.copyLoop
    split
    · next t ht => rw [ht] at hitem; exact ih hitem
    · next t ht => rw [ht] at hitem; exact hitem.of_names rfl
    · next t ht => rw [ht] at hitem; exact hitem

theorem beginSweep (h : Spared n sl s) (g : Nat) : Spared n sl (beginSweep g s) := by
  refine Spared.copyLoop ?_ _
  exact h.of_names rfl

theorem engineTest (h : Spared n sl s) : Spared n sl (engineTest s) := by
  unfold Machine.engineTest
  split
  · exact h
  · next v _ =>
    split
    · unfold readingTest
      split
      · exact (h.of_names (t := withdrawOf .relocate .compaction s) rfl).beginSweep v.seg
      · split
        · exact h
        · exact h.of_names rfl
    · unfold erasingTest
      split
      · exact h
      · exact h.of_names rfl
    · exact h

/-! ## The whole of the tests (R54, R78) -/

theorem pressureTest (h : Spared n sl s) : Spared n sl (pressureTest s) := by
  unfold Machine.pressureTest
  split
  · exact h.of_names (names_commitCause ..)
  · exact h

theorem withdrawGet (h : Spared n sl s) (st : Status) (d : ReplyData) : Spared n sl (withdrawGet st d s) := by
  have hleft : Spared n sl { s with arr := s.arr.leave .host } := h.of_names rfl
  unfold Machine.withdrawGet answerGet
  split
  · exact hleft.of_names rfl
  · exact hleft.answerOpt h.active st d

theorem arbitrate (h : Spared n sl s) (ended : Bool) (fuel : Nat) : Spared n sl (arbitrate ended fuel s) := by
  induction fuel generalizing s with
  | zero => exact h
  | succ fuel ih =>
    unfold Machine.arbitrate
    split
    · split
      · exact h
      · split
        · exact h
        · split
          · split
            · exact ih (h.withdrawGet ..)
            · exact h.of_names rfl
          · exact h.of_names rfl
    · exact h

theorem settleRound (h : Spared n sl s) (ended : Bool) : Spared n sl (settleRound ended s) :=
  h.snapshotTest.startTest.engineTest.pressureTest.arbitrate ended 3

theorem settleWith (h : Spared n sl s) (ended : Bool) : Spared n sl (settleWith ended s) :=
  ((h.settleRound ended).settleRound ended).of_names (finish_sendsOnly _).names

theorem calm (h : Spared n sl s) : Spared n sl (calm s) := by
  unfold Machine.calm
  split
  · exact h.settleWith false
  · exact h.of_names (finish_sendsOnly s).names

end Spared

end Sys2Proof.Machine


/-! # The tests at the end of a change (R54, R78, R91, R96, R104, R147) -/

namespace Sys2Proof.Machine

/-! ## What the tests leave alone -/

/-- The tests bring `s` to `t`: of a slot they touch no identity, and of a space no setting. -/
structure SettleKeeps (s t : State) : Prop where
  frame : t = { s with
    index := t.index, segs := t.segs, freeCount := t.freeCount, lowFree := t.lowFree
    urgent := t.urgent, ordinary := t.ordinary, spaces := t.spaces, nextStamp := t.nextStamp
    host := t.host, reloc := t.reloc, commitTimer := t.commitTimer, arr := t.arr, comp := t.comp
    cat := t.cat, startup := t.startup, engine := t.engine
    link := { t.link with
      inside := s.link.inside, counters := s.link.counters, softReset := s.link.softReset } }
  slots : t.link.slots.map slotId = s.link.slots.map slotId
  spaces : t.spaces.map spaceId = s.spaces.map spaceId

namespace SettleKeeps

theorem refl (s : State) : SettleKeeps s s := ⟨rfl, rfl, rfl⟩

/-- Every basic change of the tests keeps to it. -/
theorem stable (s : State) : Stable (SettleKeeps s) where
  work t u h _ x := by
    unfold SameButWork at h
    refine ⟨?_, ?_, ?_⟩
    · rw [h, x.frame]
    · rw [h]; exact x.slots
    · rw [h]; exact x.spaces
  slots t l h x := ⟨by rw [x.frame], h.trans x.slots, x.spaces⟩
  notice n t x := ⟨by rw [x.frame]; rfl, x.slots, x.spaces⟩
  segs t l _ x := ⟨by rw [x.frame], x.slots, x.spaces⟩
  index t l _ x := ⟨by rw [x.frame], x.slots, x.spaces⟩
  counts t l h x := ⟨by rw [x.frame], x.slots, h.trans x.spaces⟩
  readOnly t c _ x := ⟨by rw [x.frame], x.slots, x.spaces⟩
  pendingCause t c _ x := ⟨by rw [x.frame], x.slots, x.spaces⟩
  formatFails t c _ x := ⟨by rw [x.frame], x.slots, x.spaces⟩

theorem sends {s t u : State} (x : SettleKeeps s t) (h : SendsOnly t u) : SettleKeeps s u := by
  unfold SendsOnly at h
  refine ⟨?_, ?_, ?_⟩
  · rw [h, x.frame]
  · rw [h]; exact x.slots
  · rw [h]; exact x.spaces

theorem settleWith (ended : Bool) (s : State) : SettleKeeps s (settleWith ended s) :=
  ((stable s).keeps_settleRound ended ((stable s).keeps_settleRound ended (refl s))).sends (finish_sendsOnly _)

theorem calm (s : State) : SettleKeeps s (calm s) := by
  unfold Machine.calm
  split
  · exact settleWith false s
  · exact (refl s).sends (finish_sendsOnly s)

end SettleKeeps

/-! ## When the tests act -/

theorem snapshotDue_iff (s : State) : snapshotDue s = true ↔
    s.cat.write = none ∧ s.cat.dirty = true ∧ s.cat.failed = false ∧ Serves s := by
  simp [snapshotDue, Serves, and_assoc]

/-- A page of a stream that is not programmed is destined for the segment (R89). -/
theorem hasPendingPage_iff (g : Nat) (s : State) : hasPendingPage g s = true ↔
    (∃ f, s.host.inFlight = some f ∧ f.seg = g) ∨ ∃ f, s.reloc.inFlight = some f ∧ f.seg = g := by
  have hstream (st : Stream) : (match st.inFlight with
      | some f => f.seg == g
      | none => false) = true ↔ ∃ f, st.inFlight = some f ∧ f.seg = g := by
    cases st.inFlight <;> simp
  simp only [hasPendingPage, List.any_cons, List.any_nil, Bool.or_false, Bool.or_eq_true]
  exact or_congr (hstream s.host) (hstream s.reloc)

/-- The Refresh Queue holds an eligible member (R89). -/
theorem firstMember_isSome (s : State) : (firstMember s).isSome = true ↔
    ∃ g, g ∈ s.urgent ++ s.ordinary ∧ segState g s = some .full ∧
      ¬ ((∃ f, s.host.inFlight = some f ∧ f.seg = g) ∨ ∃ f, s.reloc.inFlight = some f ∧ f.seg = g) := by
  rw [firstMember, List.find?_isSome]
  refine exists_congr fun g => and_congr_right fun _ => ?_
  rw [eligible, Bool.and_eq_true, beq_iff_eq, Bool.not_eq_true', ← Bool.not_eq_true, hasPendingPage_iff]

theorem startDue_iff (s : State) : startDue s = true ↔ s.startup.mode = .ready ∧ s.comp.running = false ∧
    ((firstMember s).isSome = true ∨ (s.freeCount < s.params.compactStart ∧ s.comp.noGain = false) ∨
      s.comp.compacts ≠ []) := by
  simp [startDue, and_assoc, or_assoc]

theorem pressureDue_iff (s : State) : pressureDue s = true ↔
    (s.link.slots ≠ [] ∧ ∀ p ∈ s.link.slots, p.2.state = .awaitingCommit) ∧ s.host.buffer ≠ [] ∧
      s.host.stranded = false ∧ ¬ (s.host.commitRequested = true ∧ s.host.inFlight.isSome = true) := by
  simp only [pressureDue, Bool.and_eq_true, Bool.not_eq_true', List.isEmpty_iff, List.all_eq_true, beq_iff_eq,
    Bool.eq_false_iff, ne_eq, and_assoc]

/-- A commit cause that finds nothing to act on, or its mark already made, changes nothing (R51). -/
theorem commitCause_of_nothing {s : State} (h : ¬ (s.host.buffer ≠ [] ∧ s.host.stranded = false ∧
    ¬ (s.host.commitRequested = true ∧ s.host.inFlight.isSome = true))) : commitCause .host s = s := by
  by_cases hnone : s.host.stranded = true ∨ s.host.buffer = []
  · simp only [commitCause, streamOf, hnone, if_true]
  · obtain ⟨hstranded, hbuffer⟩ := not_or.mp hnone
    have hrunning : s.host.stranded = false := Bool.eq_false_iff.mpr hstranded
    obtain ⟨hmarked, hflight⟩ := not_not.mp fun hmark => h ⟨hbuffer, hrunning, hmark⟩
    have hsame : ({ s.host with commitRequested := true } : Stream) = s.host := by rw [← hmarked]
    rw [commitCause_inFlight (id := .host) hrunning hbuffer (Option.isSome_iff_ne_none.mp hflight), modStream, hsame]

theorem pressureTest_of_pressed {s : State}
    (h : s.link.slots ≠ [] ∧ ∀ p ∈ s.link.slots, p.2.state = .awaitingCommit) :
    pressureTest s = commitCause .host s := by
  unfold pressureTest
  split
  · rfl
  · next hdue => exact (commitCause_of_nothing fun hacts => hdue ((pressureDue_iff s).mpr ⟨h, hacts⟩)).symm

theorem pressureTest_of_unpressed {s : State}
    (h : ¬ (s.link.slots ≠ [] ∧ ∀ p ∈ s.link.slots, p.2.state = .awaitingCommit)) : pressureTest s = s :=
  if_neg fun hdue => h ((pressureDue_iff s).mp hdue).1

theorem calm_of_unpressed {s : State} (h : s.link.slots = [] ∨ (∃ p ∈ s.link.slots, p.2.state ≠ .awaitingCommit) ∨
    s.host.buffer = [] ∨ s.host.stranded = true) : calm s = finish s := by
  refine if_neg fun hdue => ?_
  obtain ⟨⟨hslots, hall⟩, hbuffer, hstranded, _⟩ := (pressureDue_iff s).mp hdue
  rcases h with h | ⟨p, hp, hstate⟩ | h | h
  · exact hslots h
  · exact hstate (hall p hp)
  · exact hbuffer h
  · rw [hstranded] at h; cases h

/-! ## The engine's next claim (R96, R104, R108) -/

theorem engineClaims_iff (s : State) : engineClaims s = true ↔
    ∃ c ∈ s.arr.relPlace.toList ++ s.arr.outside, c.origin = .compaction := by
  rw [engineClaims, List.any_eq_true]
  exact exists_congr fun c => and_congr_right fun _ => beq_iff_eq

theorem engineReads_iff (v : Victim) (s : State) : engineReads v s = true ↔
    ∃ r, s.arr.op = some (.read r) ∧ r.origin = .compaction ∧ r.seg = v.seg ∧ r.page = v.nextPage := by
  unfold engineReads
  split
  · next r hr => simp [hr, and_assoc]
  · next hother =>
    refine ⟨fun h => absurd h Bool.false_ne_true, ?_⟩
    rintro ⟨r, hr, _⟩
    exact absurd hr (hother r)

theorem engineErases_iff (s : State) : engineErases s = true ↔
    (∃ e, s.arr.op = some (.erase e) ∧ e.origin = .compaction) ∨
      ∃ e, s.arr.suspended = some e ∧ e.origin = .compaction := by
  have hruns : (match s.arr.op with
      | some (.erase e) => e.origin == .compaction
      | _ => false) = true ↔ ∃ e, s.arr.op = some (.erase e) ∧ e.origin = .compaction := by
    rcases s.arr.op with _ | op
    · simp
    · cases op <;> simp
  have hsuspended : (match s.arr.suspended with
      | some e => e.origin == .compaction
      | none => false) = true ↔ ∃ e, s.arr.suspended = some e ∧ e.origin = .compaction := by
    cases s.arr.suspended <;> simp
  rw [engineErases, Bool.or_eq_true]
  exact or_congr hruns hsuspended

section
variable {s : State} {v : Victim} (hv : s.comp.victim = some v)
include hv

theorem engineTest_reading (h : v.phase = .reading) : engineTest s = readingTest v s := by
  simp only [engineTest, hv, h]

theorem engineTest_erasing (h : v.phase = .erasing) : engineTest s = erasingTest v s := by
  simp only [engineTest, hv, h]

theorem engineTest_other (hreading : v.phase ≠ .reading) (herasing : v.phase ≠ .erasing) : engineTest s = s := by
  unfold engineTest
  rw [hv]
  dsimp only
  split
  · next h => exact absurd h hreading
  · next h => exact absurd h herasing
  · rfl

end

/-- The test in READING, by the conditions of the manual (R96, R108). -/
theorem readingTest_acts (v : Victim) (s : State) :
    (liveOf v.seg s = 0 ∨ 47 < v.nextPage →
      readingTest v s = beginSweep v.seg (withdrawOf .relocate .compaction s)) ∧
    (0 < liveOf v.seg s → v.nextPage ≤ 47 →
      (engineReads v s = true ∨ engineClaims s = true ∨ s.comp.paused = true → readingTest v s = s) ∧
      (¬ engineReads v s = true → ¬ engineClaims s = true → s.comp.paused = false →
        readingTest v s = makeClaim .relocate .compaction (.read v.seg v.nextPage) s)) := by
  refine ⟨fun h => if_pos h, fun hlive hpage => ?_⟩
  have hgoes : ¬ (liveOf v.seg s = 0 ∨ Config.lastPage < v.nextPage) := by
    rintro (h | h)
    · omega
    · exact absurd hpage (Nat.not_le.mpr h)
  rw [readingTest, if_neg hgoes]
  refine ⟨fun h => if_pos h, fun hreads hclaims hpaused => if_neg ?_⟩
  rintro (h | h | h)
  · exact hreads h
  · exact hclaims h
  · rw [hpaused] at h; cases h

/-- The test in ERASING, by the conditions of the manual (R104, R108). -/
theorem erasingTest_acts (v : Victim) (s : State) :
    (engineErases s = true ∨ engineClaims s = true ∨ s.comp.paused = true → erasingTest v s = s) ∧
    (¬ engineErases s = true → ¬ engineClaims s = true → s.comp.paused = false →
      erasingTest v s = makeClaim .relocate .compaction (.erase v.seg) s) := by
  refine ⟨fun h => if_pos h, fun herases hclaims hpaused => if_neg ?_⟩
  rintro (h | h | h)
  · exact herases h
  · exact hclaims h
  · rw [hpaused] at h; cases h

/-! ## The obligation -/

/-- Settles O59: the rounds, each test by its condition, the withdrawal, what all of them leave alone, and the end of a
change of the Host Link. -/
theorem endOfChangeFrame : Obligations.EndOfChangeFrame := by
  refine ⟨fun s => ⟨rfl, rfl⟩, fun s => ⟨fun h => ?_, fun h => ?_, fun h => ?_, fun h => ?_, pressureTest_of_pressed,
      pressureTest_of_unpressed⟩, fun s hv => ?_, fun s v hv => ?_, fun s p => ⟨fun c hc => ?_, ?_, ?_⟩,
    fun s t ht => ?_, fun s => ⟨(finish s).link, ?_, ?_⟩, fun s => calm_of_unpressed⟩
  · exact if_pos ((snapshotDue_iff s).mpr h)
  · exact if_neg fun hdue => h ((snapshotDue_iff s).mp hdue)
  · rw [← firstMember_isSome] at h
    exact if_pos ((startDue_iff s).mpr h)
  · rw [← firstMember_isSome] at h
    exact if_neg fun hdue => h ((startDue_iff s).mp hdue)
  · simp only [engineTest, hv]
  · dsimp only
    simp only [← engineReads_iff, ← engineClaims_iff, ← engineErases_iff]
    exact ⟨fun h => by rw [engineTest_reading hv h]; exact readingTest_acts v s,
      fun h => by rw [engineTest_erasing hv h]; exact erasingTest_acts v s, engineTest_other hv⟩
  · exact (ArrayCtl.mem_claimsOf_withdraw (cls' := .relocate) hc).2 rfl
  · exact (ArrayCtl.ClaimsChange.withdraw .relocate p s.arr).op
  · exact (ArrayCtl.ClaimsChange.withdraw .relocate p s.arr).suspended
  · have hkeeps : SettleKeeps s t := by
      rcases ht with rfl | rfl | rfl
      · exact SettleKeeps.settleWith false s
      · exact SettleKeeps.settleWith true s
      · exact SettleKeeps.calm s
    have hspared {n : Nat} {sl : Slot} (h : Spared n sl s) : Spared n sl t := by
      rcases ht with rfl | rfl | rfl
      · exact h.settleWith false
      · exact h.settleWith true
      · exact h.calm
    refine ⟨?_, ?_, ?_, ?_, ?_, ?_, ?_, ?_, ?_, ?_, ?_, ?_, ?_, hkeeps.spaces, hkeeps.slots,
      fun n sl hs hsl hready hactive hcompacts hwaiters hwaiting hformat =>
        (hspared ⟨hs, hsl, hready, hactive, hcompacts, hwaiters, hwaiting, hformat⟩).slot⟩
    all_goals rw [hkeeps.frame]
  · have h := finish_sendsOnly s
    unfold SendsOnly at h
    rw [h]
  · have h := finish_sendsOnly s
    unfold SendsOnly at h
    exact congrArg State.link h

end Sys2Proof.Machine


/-! # The fate of a victim, and the choice of the next (R39, R89, R92 to R95, R101 to R107) -/

namespace Sys2Proof.Machine

/-! ## EVACUATION_END (R101 to R103) -/

theorem exec_evacuationEnd {s : State} {v : Victim} (hheld : isHeld s = false) (hv : s.comp.victim = some v) :
    exec .evacuationEnd s = .next (if evacuationEnded v s then settle (decideFate v s) else s) := by
  simp [exec, execEvacuationEnd, whileRunning, hheld, evacuationEndStep, hv]

theorem evacuationEnded_iff (v : Victim) (s : State) : evacuationEnded v s = true ↔ (v.phase = .draining ∧
    liveOf v.seg s = 0 ∧ s.reloc.buffer = [] ∧ s.reloc.inFlight = none ∧ s.reloc.waiting = none) := by
  simp [evacuationEnded, and_assoc]

theorem strikesAfter_eq (q : Option RefreshReason) (n : Nat) :
    strikesAfter q n = if q = some .threshold then n + 1 else n := by
  cases q with
  | none => rfl
  | some q => cases q <;> rfl

/-- The fate is an erase: no reason, WEAR, or THRESHOLD below the strike limit (Table 5-4). -/
theorem fateOf_erase {q : Option RefreshReason} {n : Nat}
    (h : q = none ∨ q = some .wear ∨ (q = some .threshold ∧ n + 1 < 3)) : fateOf q n = none := by
  rcases h with rfl | rfl | ⟨rfl, hn⟩
  · rfl
  · rfl
  · exact if_neg (Nat.not_le.mpr hn)

/-- The fate is to be condemned: THRESHOLD at the strike limit, or an urgent reason (Table 5-4). -/
theorem fateOf_condemned {q : Option RefreshReason} {n : Nat} {c : CondemnCause}
    (h : (q = some .threshold ∧ 3 ≤ n + 1 ∧ c = .strikes) ∨ (q = some .uncorrectable ∧ c = .uncorrectable) ∨
      (q = some .programFault ∧ c = .programFault)) : fateOf q n = some c := by
  rcases h with ⟨rfl, hn, rfl⟩ | ⟨rfl, rfl⟩ | ⟨rfl, rfl⟩
  · exact if_pos hn
  · rfl
  · rfl

/-- Segment `g` has left the Refresh Queue and has `n` strikes (R103, R89). -/
def leftWithStrikes (g n : Nat) (s : State) : State :=
  modSeg g (fun r => { r with strikes := n }) (leaveQueue g s)

theorem segAt_leftWithStrikes {g : Nat} {s : State} {r : SegRec} (hr : segAt g s = some r) (n : Nat) :
    segAt g (leftWithStrikes g n s) = some { r with strikes := n, reason := none } := by
  have hleft : segAt g (leaveQueue g s) = some { r with reason := none } :=
    (Store.get_modify_same ..).trans (congrArg _ hr)
  rw [leftWithStrikes, segAt_modSeg, if_pos rfl, hleft]
  rfl

theorem not_mem_leftWithStrikes (g n : Nat) (s : State) :
    g ∉ (leftWithStrikes g n s).urgent ∧ g ∉ (leftWithStrikes g n s).ordinary := by
  simp [leftWithStrikes, leaveQueue]

/-- The victim is to be erased (R102, R39(1)). -/
theorem decideFate_erase {s : State} {v : Victim} {r : SegRec} (hv : s.comp.victim = some v)
    (hr : segAt v.seg s = some r) (hfate : fateOf r.reason r.strikes = none) :
    decideFate v s = victimIs { v with phase := .erasing }
      (modSeg v.seg (fun r => { r with state := .erasing, live := 0 })
        (leftWithStrikes v.seg (strikesAfter r.reason r.strikes) s)) := by
  have hleft : (modSeg v.seg (fun r => { r with state := .erasing, live := 0 })
      (leftWithStrikes v.seg (strikesAfter r.reason r.strikes) s)).comp.victim = some v := hv
  simp only [decideFate, hr, hfate]
  exact modVictim_eq hleft _

/-- The victim is condemned, and the run goes on or ends (R102, R39(2), R92). -/
theorem decideFate_condemned {s : State} {v : Victim} {r : SegRec} {c : CondemnCause} (hr : segAt v.seg s = some r)
    (hfate : fateOf r.reason r.strikes = some c) :
    decideFate v s = runDecision (reportCondemned v.seg (modSeg v.seg (SegRec.condemnedFor c)
      (modComp (fun x => { x with victim := none })
        (leftWithStrikes v.seg (strikesAfter r.reason r.strikes) s)))) := by
  simp only [decideFate, hr, hfate]
  rfl

/-! ## An evacuation begins, or cannot (R95, R107) -/

theorem beginEvacuation_begins {g : Nat} {s : State} (h : canBegin g s = true) : beginEvacuation g s =
    withdrawPatrolOf g (modComp (fun c => { c with running := true, victim := some ⟨g, .reading, 1, [], false⟩ })
      (modSeg g (fun r => { r with state := .evacuating }) s)) := if_pos h

theorem beginEvacuation_stops {g : Nat} {s : State} (h : ¬ canBegin g s = true) :
    beginEvacuation g s = reportCause .noSpaceForRelocation (endRun s) := if_neg h

/-! ## A condemned victim while the run goes on (R92, R146) -/

/-- Segment `g` is done with: its record stands, it is in neither part of the Refresh Queue and not the victim, and the
RELOCATE stream, which may still have it open, has nothing to commit. -/
structure Dismissed (g : Nat) (x : SegRec) (s : State) : Prop where
  record : segAt g s = some x
  buffer : s.reloc.buffer = []
  victim : ∀ v, s.comp.victim = some v → v.seg ≠ g
  urgent : g ∉ s.urgent
  ordinary : g ∉ s.ordinary

/-- With no RELOCATE buffer to commit, an entry into READ_ONLY ends the relocation by the abandonment alone (R66, R107). -/
theorem relocationEnded_of_empty {s : State} (h : s.reloc.buffer = []) :
    relocationEnded s = abandonEvacuation (dropHostWaiting s) := by
  have hempty : (abandonEvacuation (dropHostWaiting s)).reloc.buffer = [] := by
    rw [abandonEvacuation_frame, dropHostWaiting_frame]; exact h
  simp [relocationEnded, commitCause, streamOf, hempty]

namespace Dismissed

variable {g : Nat} {x : SegRec} {s : State}

theorem readOnlyEffects (h : Dismissed g x s) : Dismissed g x (readOnlyEffects s) := by
  refine ⟨?_, ?_, fun v hv => h.victim v (readOnlyEffects_victim hv).1, ?_, ?_⟩
  · have hdropped : ∀ v, (dropHostWaiting s).comp.victim = some v → v.seg ≠ g := by
      rw [dropHostWaiting_frame]; exact h.victim
    have hended : segAt g (Machine.readOnlyEffects s) = segAt g (abandonEvacuation (dropHostWaiting s)) := by
      rw [readOnlyEffects_frame, relocationEnded_of_empty h.buffer]; rfl
    rw [hended, segAt_abandonEvacuation_other hdropped, dropHostWaiting_frame]
    exact h.record
  · rw [readOnlyEffects_frame, relocationEnded_of_empty h.buffer, abandonEvacuation_frame, dropHostWaiting_frame]
    exact h.buffer
  · rw [(readOnlyEffects_touches s).frame]; exact h.urgent
  · rw [(readOnlyEffects_touches s).frame]; exact h.ordinary

theorem reportCause (c : Cause) (h : Dismissed g x s) : Dismissed g x (reportCause c s) := by
  have hmode : Dismissed g x (changeMode .readOnly (some c) s) :=
    ⟨h.record, h.buffer, h.victim, h.urgent, h.ordinary⟩
  rcases reportCause_cases c s with ⟨_, e⟩ | ⟨_, e | e⟩
  · rw [e]; exact hmode.readOnlyEffects
  · rw [e]; exact h
  · rw [e]; exact ⟨h.record, h.buffer, h.victim, h.urgent, h.ordinary⟩

theorem reportCondemned (i : Nat) (h : Dismissed g x s) : Dismissed g x (reportCondemned i s) := by
  rcases reportCondemned_cases i s with e | e | e
  · rw [e]; exact h
  · rw [e]; exact ⟨h.record, h.buffer, h.victim, h.urgent, h.ordinary⟩
  · rw [e]; exact h.reportCause _

theorem endRun (h : Dismissed g x s) : Dismissed g x (endRun s) :=
  ⟨h.record, h.buffer, fun _ hv => (by cases hv), h.urgent, h.ordinary⟩

/-- A segment that is not FULL is not what the run goes on with (R92, R94). -/
theorem runDecision (hs : Store.Canonical s.segs) (hx : x.state ≠ .full) (h : Dismissed g x s) :
    Dismissed g x (runDecision s) := by
  rcases runDecision_cases hs with e | ⟨k, hfull, e⟩ | e
  · rw [e]; exact h.endRun
  · have hne : g ≠ k := fun hg => by
      rw [← hg, segState, h.record] at hfull
      exact hx (Option.some.inj hfull)
    rw [e]
    by_cases hbegin : canBegin k s = true
    · rw [beginEvacuation_begins hbegin]
      refine ⟨(Store.get_modify_other hne ..).trans h.record, h.buffer, fun v hv => ?_, h.urgent, h.ordinary⟩
      cases hv
      exact Ne.symm hne
    · rw [beginEvacuation_stops hbegin]
      exact h.endRun.reportCause _
  · rw [e, endNoGain_frame]
    exact ⟨h.record, h.buffer, fun _ hv => (by cases hv), h.urgent, h.ordinary⟩

end Dismissed

/-- A condemned victim is done with, whatever the run goes on with. -/
theorem decideFate_dismisses {s : State} {v : Victim} {r : SegRec} {c : CondemnCause} (hs : Store.Canonical s.segs)
    (hr : segAt v.seg s = some r) (hbuffer : s.reloc.buffer = []) (hfate : fateOf r.reason r.strikes = some c) :
    Dismissed v.seg (SegRec.condemnedFor c { r with strikes := strikesAfter r.reason r.strikes, reason := none })
      (decideFate v s) := by
  let t := modSeg v.seg (SegRec.condemnedFor c) (modComp (fun x => { x with victim := none })
    (leftWithStrikes v.seg (strikesAfter r.reason r.strikes) s))
  have hrecord : segAt v.seg t =
      some (SegRec.condemnedFor c { r with strikes := strikesAfter r.reason r.strikes, reason := none }) :=
    (Store.get_modify_same ..).trans (congrArg _ (segAt_leftWithStrikes hr _))
  obtain ⟨hurgent, hordinary⟩ := not_mem_leftWithStrikes v.seg (strikesAfter r.reason r.strikes) s
  have hout : Dismissed v.seg _ t := ⟨hrecord, hbuffer, fun _ h => (by cases h), hurgent, hordinary⟩
  have hsegs : Store.Canonical t.segs :=
    Store.canonical_modify (Store.canonical_modify (Store.canonical_modify hs))
  have hcondemned : ∀ y, (SegRec.condemnedFor c y).state ≠ .full := fun _ h => by cases h
  rw [decideFate_condemned hr hfate]
  exact (hout.reportCondemned v.seg).runDecision (segsCanonical_stable.keeps_reportCondemned _ hsegs) (hcondemned _)

/-! ## The choice of the next victim (R89, R92, R94) -/

/-- A page of a stream that is not programmed is destined for segment `g` (R89). -/
def PendingFor (g : Nat) (s : State) : Prop :=
  (∃ f, s.host.inFlight = some f ∧ f.seg = g) ∨ ∃ f, s.reloc.inFlight = some f ∧ f.seg = g

theorem eligible_iff (s : State) (g : Nat) : eligible s g = true ↔ segState g s = some .full ∧ ¬ PendingFor g s := by
  rw [eligible, Bool.and_eq_true, beq_iff_eq, Bool.not_eq_true', ← Bool.not_eq_true, hasPendingPage_iff, PendingFor]

theorem firstMember_of_first {s : State} {front back : List Nat} {g : Nat}
    (hqueue : s.urgent ++ s.ordinary = front ++ g :: back) (hg : segState g s = some .full ∧ ¬ PendingFor g s)
    (hfront : ∀ h ∈ front, ¬ (segState h s = some .full ∧ ¬ PendingFor h s)) : firstMember s = some g := by
  rw [firstMember, List.find?_eq_some_iff_append]
  refine ⟨(eligible_iff s g).mpr hg, front, back, hqueue, fun h hh => ?_⟩
  rw [Bool.not_eq_true', ← Bool.not_eq_true, eligible_iff]
  exact hfront h hh

theorem firstMember_of_none {s : State}
    (h : ∀ g ∈ s.urgent ++ s.ordinary, ¬ (segState g s = some .full ∧ ¬ PendingFor g s)) : firstMember s = none := by
  rw [firstMember, List.find?_eq_none]
  exact fun g hg he => h g hg ((eligible_iff s g).mp he)

theorem SegRec.lessLive_iff (a b : SegRec) : a.lessLive b = true ↔
    a.live < b.live ∨ (a.live = b.live ∧ a.openStamp.getD 0 ≤ b.openStamp.getD 0) := by
  simp [SegRec.lessLive]

/-- By a total order of the records, no record goes before the one found, and none with a lower number is its equal. -/
theorem leastBy_first {before : SegRec → SegRec → Bool} (htotal : ∀ a b, before a b = true ∨ before b a = true)
    (htrans : ∀ a b c, before a b = true → before b c = true → before a c = true) {l : List (Nat × SegRec)}
    (hl : Store.Canonical l) {g : Nat} {r : SegRec} (h : leastBy before l = some (g, r)) {k : Nat} {x : SegRec}
    (hx : (k, x) ∈ l) : before r x = true ∧ (before x r = true → g ≤ k) := by
  have hrefl (a : SegRec) : before a a = true := (htotal a a).elim id id
  induction l generalizing g r with
  | nil => cases hx
  | cons p rest ih =>
    obtain ⟨a, y⟩ := p
    simp only [Store.Canonical, List.map_cons, List.pairwise_cons] at hl
    obtain ⟨hfirst, hrest⟩ := hl
    have hafter : ∀ q ∈ rest, a < q.1 := fun q hq => hfirst q.1 (List.mem_map.mpr ⟨q, hq, rfl⟩)
    cases hbest : leastBy before rest with
    | none =>
      rw [leastBy_eq_none_iff.mp hbest] at h hx
      cases h
      cases List.mem_singleton.mp hx
      exact ⟨hrefl _, fun _ => Nat.le_refl _⟩
    | some best =>
      obtain ⟨b, z⟩ := best
      simp only [leastBy, hbest] at h
      split at h
      · next hyz =>
        cases h
        rcases List.mem_cons.mp hx with hx | hx
        · cases hx; exact ⟨hrefl _, fun _ => Nat.le_refl _⟩
        · exact ⟨htrans _ _ _ hyz (ih hrest hbest hx).1, fun _ => Nat.le_of_lt (hafter _ hx)⟩
      · next hyz =>
        cases h
        rcases List.mem_cons.mp hx with hx | hx
        · cases hx; exact ⟨(htotal _ _).resolve_left hyz, fun h => absurd h hyz⟩
        · exact ih hrest hbest hx

/-- Segment `g`, with record `r`, may be taken for space: FULL, no member of the Refresh Queue, and no page pending for it
(R94(2)). -/
def ForGain (s : State) (g : Nat) (r : SegRec) : Prop :=
  segAt g s = some r ∧ r.state = .full ∧ r.reason = none ∧ ¬ PendingFor g s

/-- The segments that may be taken for space. -/
def gainCandidates (s : State) : List (Nat × SegRec) :=
  (fullSegs s).filter (fun p => p.2.reason.isNone && !hasPendingPage p.1 s)

theorem mem_gainCandidates {s : State} (hs : Store.Canonical s.segs) {g : Nat} {r : SegRec} :
    (g, r) ∈ gainCandidates s ↔ ForGain s g r := by
  rw [gainCandidates, List.mem_filter, mem_fullSegs hs, Bool.and_eq_true, Option.isNone_iff_eq_none, Bool.not_eq_true',
    ← Bool.not_eq_true, hasPendingPage_iff, ForGain, PendingFor, and_assoc]

theorem gainVictim_of_least {s : State} {g : Nat} {r : SegRec}
    (h : leastBy SegRec.lessLive (gainCandidates s) = some (g, r)) :
    gainVictim s = if r.live ≤ 720 then some g else none := by
  rw [gainCandidates] at h
  simp only [gainVictim, h]
  rfl

theorem gainVictim_of_none {s : State} (hs : Store.Canonical s.segs) (h : ∀ g r, ¬ ForGain s g r) :
    gainVictim s = none := by
  have hempty : gainCandidates s = [] :=
    List.eq_nil_iff_forall_not_mem.mpr fun p hp => h p.1 p.2 ((mem_gainCandidates hs).mp hp)
  rw [gainCandidates] at hempty
  simp only [gainVictim, hempty, leastBy]

/-- The first in live cells, then open stamp, then number, is the one the gain test is made of (R94(2)). -/
theorem leastBy_gainCandidates {s : State} (hs : Store.Canonical s.segs) {g : Nat} {r : SegRec} (hg : ForGain s g r)
    (hleast : ∀ h x, ForGain s h x → r.live < x.live ∨ (r.live = x.live ∧
      (r.openStamp.getD 0 < x.openStamp.getD 0 ∨ (r.openStamp.getD 0 = x.openStamp.getD 0 ∧ g ≤ h)))) :
    leastBy SegRec.lessLive (gainCandidates s) = some (g, r) := by
  have htotal (a b : SegRec) : a.lessLive b = true ∨ b.lessLive a = true := by
    simp only [SegRec.lessLive_iff]; omega
  have htrans (a b c : SegRec) : a.lessLive b = true → b.lessLive c = true → a.lessLive c = true := by
    simp only [SegRec.lessLive_iff]; omega
  have hmem : (g, r) ∈ gainCandidates s := (mem_gainCandidates hs).mpr hg
  cases hl : leastBy SegRec.lessLive (gainCandidates s) with
  | none => rw [leastBy_eq_none_iff.mp hl] at hmem; cases hmem
  | some p =>
    obtain ⟨k, y⟩ := p
    have hk : ForGain s k y := (mem_gainCandidates hs).mp (leastBy_mem hl)
    have hcandidates : Store.Canonical (gainCandidates s) := Store.canonical_filter (Store.canonical_filter hs)
    obtain ⟨hyr, hnumber⟩ := leastBy_first htotal htrans hcandidates hl hmem
    have hbelow := hleast k y hk
    simp only [SegRec.lessLive_iff] at hyr hnumber
    have hgk : k = g := by omega
    subst hgk
    exact congrArg (fun z => some (k, z)) (Option.some.inj (hk.1.symm.trans hg.1))

section
variable {s : State} (hready : s.startup.mode = .ready)
include hready

theorem runDecision_member {g : Nat} (h : firstMember s = some g) : runDecision s = beginEvacuation g s := by
  simp [runDecision, hready, h]

/-- The stop watermark and every target are reached (R92(2)). -/
theorem runDecision_reached (h : firstMember s = none) (hstop : s.params.compactStop ≤ s.freeCount)
    (htargets : ∀ c ∈ s.comp.compacts, c.target ≤ s.freeCount) : runDecision s = endRun s := by
  have hall : s.comp.compacts.all (fun c => decide (c.target ≤ s.freeCount)) = true := by simpa using htargets
  simp only [runDecision, hready, ne_eq, not_true_eq_false, if_false, h, hstop, hall, and_self, if_true]

section
variable (h : firstMember s = none)
  (hunreached : ¬ (s.params.compactStop ≤ s.freeCount ∧ ∀ c ∈ s.comp.compacts, c.target ≤ s.freeCount))
include h hunreached

theorem runDecision_gain {g : Nat} (hgain : gainVictim s = some g) : runDecision s = beginEvacuation g s := by
  simp [runDecision, hready, h, hunreached, hgain]

theorem runDecision_noGain (hgain : gainVictim s = none) : runDecision s = endNoGain s := by
  simp [runDecision, hready, h, hunreached, hgain]

end

end

/-! ## A run ends with no gain (R92(3), R93, R105(2), R106) -/

theorem openSegment_endRun {id : StreamId} {retry : Bool} {s : State} (h : openSegment id retry s = none) :
    openSegment id retry (endRun s) = none := by
  refine Option.eq_none_iff_forall_ne_some.mpr fun t ht => ?_
  obtain ⟨stamp, g, r, hstamp, hleast, hask, _⟩ := openSegment_eq_some_iff.mp ht
  have hgranted := openSegment_eq_some_iff (s := s).mpr ⟨stamp, g, r, hstamp, hleast, hask, rfl⟩
  exact Option.some_ne_none _ (hgranted.symm.trans h)

/-- The held request is answered first, then the COMPACTs (R92(3)). -/
theorem slotAt_endNoGain (n : Nat) (s : State) : slotAt n (endNoGain s) =
    if n ∈ s.comp.compacts.map CompactWait.slot then
      (slotAt n (heldMediaFull (endRun s))).map (Slot.answered .noGain (.freeCount s.freeCount))
    else slotAt n (heldMediaFull (endRun s)) := by
  have h : slotAt n (endNoGain s) = slotAt n (answerCompacts .noGain (heldMediaFull (endRun s))) := rfl
  rw [h, slotAt_answerCompacts, heldMediaFull_frame]
  rfl

theorem slotAt_heldMediaFull (n : Nat) (s : State) : slotAt n (heldMediaFull s) = slotAt n s ∨
    slotAt n (heldMediaFull s) = (slotAt n s).map (Slot.answered .mediaFull .none) := by
  unfold heldMediaFull
  split
  · exact .inl rfl
  · rw [slotAt_answerHeld]
    split
    · exact .inr rfl
    · exact .inl rfl

/-- The held request whose ask is refused is answered (R105(2)). -/
theorem slotAt_heldMediaFull_refused {n : Nat} {s : State} (hheld : heldSlot s = some n)
    (hask : openSegment .host false s = none) :
    slotAt n (heldMediaFull s) = (slotAt n s).map (Slot.answered .mediaFull .none) := by
  have hrefused : heldMediaFull s = answerHeld .mediaFull s := if_neg (by rw [hask]; exact Bool.false_ne_true)
  rw [hrefused, slotAt_answerHeld, if_pos hheld]

theorem slotAt_endNoGain_compact {s : State} {c : CompactWait} (hc : c ∈ s.comp.compacts) {sl : Slot}
    (hsl : slotAt c.slot s = some sl) :
    slotAt c.slot (endNoGain s) = some (Slot.answered .noGain (.freeCount s.freeCount) sl) := by
  have hended : slotAt c.slot (endRun s) = some sl := hsl
  rw [slotAt_endNoGain, if_pos (List.mem_map_of_mem hc)]
  rcases slotAt_heldMediaFull c.slot (endRun s) with e | e
  · rw [e, hended]; rfl
  · rw [e, hended]; rfl

theorem slotAt_endNoGain_held {s : State} {n : Nat} (hheld : heldSlot s = some n)
    (hn : ∀ c ∈ s.comp.compacts, c.slot ≠ n) {sl : Slot} (hsl : slotAt n s = some sl)
    (hask : openSegment .host false s = none) :
    slotAt n (endNoGain s) = some (Slot.answered .mediaFull .none sl) := by
  have hother : n ∉ s.comp.compacts.map CompactWait.slot := fun h => by
    obtain ⟨c, hc, e⟩ := List.mem_map.mp h
    exact hn c hc e
  have hended : slotAt n (endRun s) = some sl := hsl
  rw [slotAt_endNoGain, if_neg hother, slotAt_heldMediaFull_refused (s := endRun s) hheld (openSegment_endRun hask),
    hended]
  rfl

/-! ## When an evacuation can begin, and what it leaves (R95, R107, R123(1)) -/

theorem canBegin_iff {s : State} (hs : Store.Canonical s.segs) {g : Nat} {r : SegRec} (hr : segAt g s = some r) :
    canBegin g s = true ↔
      r.live = 0 ∨ (∃ h x, segAt h s = some x ∧ x.state = .free) ∨ s.reloc.openSeg.isSome = true := by
  have hfree : (leastWornFree s.segs).isSome = true ↔ ∃ h x, segAt h s = some x ∧ x.state = .free := by
    rw [Option.isSome_iff_ne_none, ne_eq, leastWornFree_eq_none_iff]
    push Not
    exact ⟨fun ⟨p, hp, hfree⟩ => ⟨p.1, p.2, Store.get_of_mem hs hp, hfree⟩,
      fun ⟨h, x, hx, hfree⟩ => ⟨(h, x), Store.mem_of_get hx, hfree⟩⟩
  simp only [canBegin, hr, Option.map_some, Option.getD_some, Bool.or_eq_true, decide_eq_true_eq, hfree, or_assoc]

/-- No patrol read of a segment that leaves FULL waits (R123(1)). -/
theorem withdrawPatrolOf_reads {g : Nat} {s : State} {c : Claim}
    (hc : c ∈ (withdrawPatrolOf g s).arr.claimsOf .patrol) (p : Nat) : c.op ≠ .read g p := fun hop => by
  have hkept := (ArrayCtl.mem_claimsOf_withdraw (cls' := .patrol) hc).2 rfl
  simp [hop] at hkept

theorem reportCause_victim_none (c : Cause) {s : State} (h : s.comp.victim = none) :
    (reportCause c s).comp.victim = none := by
  rcases reportCause_cases c s with ⟨_, e⟩ | ⟨_, e | e⟩
  · refine Option.eq_none_iff_forall_ne_some.mpr fun v hv => ?_
    rw [e] at hv
    have hbefore : s.comp.victim = some v := (readOnlyEffects_victim hv).1
    exact Option.some_ne_none v (hbefore.symm.trans h)
  · rw [e]; exact h
  · rw [e]; exact h

theorem reportCause_ready (c : Cause) {s : State} (h : s.startup.mode = .ready) :
    (reportCause c s).startup.mode = .readOnly ∧ (reportCause c s).startup.cause = some c := by
  have hreport : reportCause c s = readOnlyEffects (changeMode .readOnly (some c) s) := by
    simp only [reportCause, h, enterReadOnly]
  rw [hreport, (readOnlyEffects_touches _).frame]
  exact ⟨rfl, rfl⟩

/-! ## The obligation -/

/-- The victim whose evacuation has ended is to be erased. -/
theorem evacuationEnd_erases {s : State} {v : Victim} {r : SegRec} (hheld : isHeld s = false)
    (hv : s.comp.victim = some v) (hr : segAt v.seg s = some r) (hended : evacuationEnded v s = true)
    (hfate : fateOf r.reason r.strikes = none) :
    ∃ u, exec .evacuationEnd s = .next (settle u) ∧
      segAt v.seg u = some { r with
        state := .erasing, strikes := strikesAfter r.reason r.strikes, reason := none, live := 0 } ∧
      u.comp.victim = some { v with phase := .erasing } ∧ v.seg ∉ u.urgent ∧ v.seg ∉ u.ordinary := by
  refine ⟨decideFate v s, by rw [exec_evacuationEnd hheld hv, if_pos hended], ?_⟩
  rw [decideFate_erase hv hr hfate]
  refine ⟨?_, rfl, not_mem_leftWithStrikes v.seg (strikesAfter r.reason r.strikes) s⟩
  exact (Store.get_modify_same ..).trans (congrArg _ (segAt_leftWithStrikes hr _))

/-- The victim whose evacuation has ended is condemned. -/
theorem evacuationEnd_condemns {s : State} {v : Victim} {r : SegRec} {c : CondemnCause} (hheld : isHeld s = false)
    (hv : s.comp.victim = some v) (hr : segAt v.seg s = some r) (hs : Store.Canonical s.segs)
    (hended : evacuationEnded v s = true) (hfate : fateOf r.reason r.strikes = some c) :
    ∃ u, exec .evacuationEnd s = .next (settle u) ∧
      segAt v.seg u = some { r with
        state := .condemned, strikes := strikesAfter r.reason r.strikes, reason := none, live := 0, cause := some c } ∧
      u.comp.victim ≠ some v ∧ v.seg ∉ u.urgent ∧ v.seg ∉ u.ordinary := by
  obtain ⟨-, -, hbuffer, -, -⟩ := (evacuationEnded_iff v s).mp hended
  obtain ⟨hrecord, -, hvictim, hurgent, hordinary⟩ := decideFate_dismisses hs hr hbuffer hfate
  exact ⟨decideFate v s, by rw [exec_evacuationEnd hheld hv, if_pos hended], hrecord, fun h => hvictim v h rfl, hurgent,
    hordinary⟩

/-- The next victim, or the run's end (R92, R94). -/
theorem runDecision_chooses {s : State} (hs : Store.Canonical s.segs) (hready : s.startup.mode = .ready)
    (hmembers : firstMember s = none)
    (hunreached : ¬ (s.params.compactStop ≤ s.freeCount ∧ ∀ c ∈ s.comp.compacts, c.target ≤ s.freeCount)) :
    (∀ g r, ForGain s g r →
      (∀ h x, ForGain s h x → r.live < x.live ∨ (r.live = x.live ∧ (r.openStamp.getD 0 < x.openStamp.getD 0 ∨
        (r.openStamp.getD 0 = x.openStamp.getD 0 ∧ g ≤ h)))) →
      (r.live ≤ 720 → runDecision s = beginEvacuation g s) ∧ (720 < r.live → runDecision s = endNoGain s)) ∧
    ((∀ g r, ¬ ForGain s g r) → runDecision s = endNoGain s) := by
  refine ⟨fun g r hg hleast => ?_, fun hnone =>
    runDecision_noGain hready hmembers hunreached (gainVictim_of_none hs hnone)⟩
  have hgain := gainVictim_of_least (leastBy_gainCandidates hs hg hleast)
  exact ⟨fun hfew => runDecision_gain hready hmembers hunreached (hgain.trans (if_pos hfew)),
    fun hmany => runDecision_noGain hready hmembers hunreached (hgain.trans (if_neg (Nat.not_le.mpr hmany)))⟩

/-- Settles O46: the two fates, the run's decision by its members and by the gain test, the end with no gain, and the
beginning of an evacuation. -/
theorem evacuationEndDecidesTheFate : Obligations.EvacuationEndDecidesTheFate := by
  refine ⟨fun s v hheld hv hnot => ?_, evacuationEnded_iff, fun s v r hheld hv hr hs hended => ?_,
    fun s hs hready => ⟨fun front g back hqueue hg hfront => ?_, fun hmembers => ⟨fun hreached => ?_, ?_⟩⟩,
    fun s => ⟨?_, fun c hc sl => slotAt_endNoGain_compact hc, fun n sl hheld hn hsl =>
      slotAt_endNoGain_held hheld hn hsl⟩, fun s g r hs hr => ?_⟩
  · rw [exec_evacuationEnd hheld hv, hnot]; rfl
  · dsimp only
    rw [← strikesAfter_eq]
    exact ⟨fun h => evacuationEnd_erases hheld hv hr hended (fateOf_erase h),
      fun c h => evacuationEnd_condemns hheld hv hr hs hended (fateOf_condemned h)⟩
  · exact runDecision_member hready (firstMember_of_first hqueue hg hfront)
  · exact runDecision_reached hready (firstMember_of_none hmembers) hreached.1 hreached.2
  · exact runDecision_chooses hs hready (firstMember_of_none hmembers)
  · rw [endNoGain_frame]
  · have hmay := canBegin_iff hs hr
    refine ⟨fun h => ?_, fun h _ => ?_⟩
    · rw [beginEvacuation_begins (hmay.mpr h)]
      refine ⟨?_, fun i hi => Store.get_modify_other hi .., rfl, rfl, rfl, rfl, fun c hc => withdrawPatrolOf_reads hc⟩
      exact (Store.get_modify_same ..).trans (congrArg _ hr)
    · have hopen : s.reloc.openSeg ≠ some g := fun e => h (.inr (.inr (by rw [e]; rfl)))
      have hrecord := (reportCause_uninvolved (h := g) (s := endRun s) .noSpaceForRelocation
        ⟨hopen, fun _ hv => by cases hv⟩).1
      rw [beginEvacuation_stops (mt hmay.mp h)]
      exact ⟨reportCause_victim_none _ rfl, hrecord.trans hr, reportCause_ready (s := endRun s) _⟩

end Sys2Proof.Machine


/-! # The patrol (R120 to R122) -/

namespace Sys2Proof.Machine

/-! ## The lowest number of a range -/

theorem Store.firstFrom_eq_some {p : Nat → Bool} {count n m : Nat} (hm : p m = true) (hfrom : n ≤ m)
    (hto : m < n + count) (hleast : ∀ k, n ≤ k → k < m → p k = false) : Store.firstFrom p count n = some m := by
  cases h : Store.firstFrom p count n with
  | none => exact absurd hm (by simp [Store.firstFrom_none h m hfrom hto])
  | some j =>
    obtain ⟨hj, hfromj, -, hleastj⟩ := Store.firstFrom_spec h
    rcases Nat.lt_trichotomy j m with hlt | heq | hgt
    · exact absurd hj (by simp [hleast j hfromj hlt])
    · rw [heq]
    · exact absurd hm (by simp [hleastj m hfrom hgt])

theorem Store.firstFrom_eq_none {p : Nat → Bool} {count n : Nat} (h : ∀ k, n ≤ k → k < n + count → p k = false) :
    Store.firstFrom p count n = none := by
  refine Option.eq_none_iff_forall_ne_some.mpr fun m hm => ?_
  obtain ⟨hp, hfrom, hto, -⟩ := Store.firstFrom_spec hm
  exact absurd hp (by simp [h m hfrom hto])

/-! ## The page the patrol reads (R122) -/

theorem isFull_iff (s : State) (g : Nat) : isFull s g = true ↔ segState g s = some .full := by simp [isFull]

theorem isFull_false {s : State} {g : Nat} (h : segState g s ≠ some .full) : isFull s g = false :=
  Bool.eq_false_iff.mpr (mt (isFull_iff s g).mp h)

section
variable {s : State}

theorem patrolPage_cursor (h : segState s.patrol.seg s = some .full) :
    patrolPage s = some (s.patrol.seg, s.patrol.page) := by
  rw [patrolPage, if_pos ((isFull_iff s _).mpr h)]

variable (hcursor : segState s.patrol.seg s ≠ some .full)
include hcursor

theorem patrolPage_above {g : Nat} (hlt : s.patrol.seg < g) (hg : g < 1024) (hfull : segState g s = some .full)
    (hleast : ∀ h, s.patrol.seg < h → h < g → segState h s ≠ some .full) : patrolPage s = some (g, 1) := by
  have hfirst : Store.firstFrom (isFull s) (Config.segments - (s.patrol.seg + 1)) (s.patrol.seg + 1) = some g :=
    Store.firstFrom_eq_some ((isFull_iff s g).mpr hfull) hlt (by simp only [Config.segments]; omega)
      fun h hlow hhigh => isFull_false (hleast h hlow hhigh)
  simp [patrolPage, isFull_false hcursor, hfirst]

/-- No segment above the cursor is FULL: the patrol looks from the start of the array. -/
theorem patrolPage_wraps (habove : ∀ h, s.patrol.seg < h → h < 1024 → segState h s ≠ some .full) :
    patrolPage s = (Store.firstFrom (isFull s) Config.segments 0).map (fun g => (g, 1)) := by
  have hnone : Store.firstFrom (isFull s) (Config.segments - (s.patrol.seg + 1)) (s.patrol.seg + 1) = none :=
    Store.firstFrom_eq_none fun h hlow hhigh =>
      isFull_false (habove h hlow (by simp only [Config.segments] at hhigh; omega))
  simp [patrolPage, isFull_false hcursor, hnone]

theorem patrolPage_lowest {g : Nat} (habove : ∀ h, s.patrol.seg < h → h < 1024 → segState h s ≠ some .full)
    (hg : g < 1024) (hfull : segState g s = some .full) (hleast : ∀ h, h < g → segState h s ≠ some .full) :
    patrolPage s = some (g, 1) := by
  have hfirst : Store.firstFrom (isFull s) Config.segments 0 = some g :=
    Store.firstFrom_eq_some ((isFull_iff s g).mpr hfull) (Nat.zero_le g) (by simpa [Config.segments] using hg)
      fun h _ hhigh => isFull_false (hleast h hhigh)
  rw [patrolPage_wraps hcursor habove, hfirst]
  rfl

theorem patrolPage_none (h : ∀ g, g < 1024 → segState g s ≠ some .full) : patrolPage s = none := by
  have hnone : Store.firstFrom (isFull s) Config.segments 0 = none :=
    Store.firstFrom_eq_none fun g _ hhigh => isFull_false (h g (by simpa [Config.segments] using hhigh))
  rw [patrolPage_wraps hcursor fun g _ => h g, hnone]
  rfl

end

/-! ## The expiry (R121) -/

theorem patrolAllowed_iff (s : State) : patrolAllowed s = true ↔ s.startup.mode = .ready ∧ s.pfw = false ∧
    ∀ c ∈ s.arr.patPlace.toList ++ s.arr.outside, c.origin ≠ .patrolUnit := by
  simp only [patrolAllowed, Bool.and_eq_true, beq_iff_eq, Bool.not_eq_true', List.any_eq_false, and_assoc, ne_eq]

theorem exec_patrolTimerExpiry {s : State} (hheld : isHeld s = false) :
    exec .patrolTimerExpiry s = .next (patrolStep s) := by
  simp [exec, execPatrolTimerExpiry, whileRunning, hheld]

theorem patrolStep_of_allowed {s : State} {i : Nat} (htimer : s.patrol.timer = some i) (h : patrolAllowed s = true) :
    patrolStep s = settle (patrolClaim s) := by
  simp [patrolStep, htimer, h]

theorem patrolStep_skipped {s : State} (h : patrolAllowed s ≠ true) : patrolStep s = s := by
  simp [patrolStep, h]

theorem patrolClaim_of_page {s : State} {g p : Nat} (h : patrolPage s = some (g, p)) :
    patrolClaim s = makeClaim .patrol .patrolUnit (.read g p)
      { s with patrol := { s.patrol with seg := (cursorAfter g p).1, page := (cursorAfter g p).2 } } := by
  simp [patrolClaim, h]

theorem patrolClaim_of_none {s : State} (h : patrolPage s = none) : patrolClaim s = s := by
  simp [patrolClaim, h]

/-- Settles O36: the page by where the FULL segments lie, and the three reasons to skip. -/
theorem patrolTimerExpiryReadsOrSkips : Obligations.PatrolTimerExpiryReadsOrSkips := by
  refine ⟨fun s i hheld htimer hready hpfw hclaims => ?_, fun s hheld hskip => ?_⟩
  · have hexec : exec .patrolTimerExpiry s = .next (settle (patrolClaim s)) := by
      rw [exec_patrolTimerExpiry hheld, patrolStep_of_allowed htimer ((patrolAllowed_iff s).mpr ⟨hready, hpfw, hclaims⟩)]
    refine ⟨fun hfull => ?_, fun g hcursor hlt hg hfull hleast => ?_, fun g hcursor habove hg hfull hleast => ?_,
      fun hnone hcursor => ?_⟩
    · rw [hexec, patrolClaim_of_page (patrolPage_cursor hfull)]; rfl
    · rw [hexec, patrolClaim_of_page (patrolPage_above hcursor hlt hg hfull hleast)]; rfl
    · rw [hexec, patrolClaim_of_page (patrolPage_lowest hcursor habove hg hfull hleast)]; rfl
    · rw [hexec, patrolClaim_of_none (patrolPage_none hcursor hnone)]
  · have hnot : patrolAllowed s ≠ true := by
      rw [ne_eq, patrolAllowed_iff]
      rintro ⟨hready, hpfw, hclaims⟩
      rcases hskip with h | h | ⟨c, hc, horigin⟩
      · exact h hready
      · rw [hpfw] at h; cases h
      · exact hclaims c hc horigin
    rw [exec_patrolTimerExpiry hheld, patrolStep_skipped hnot]

end Sys2Proof.Machine


/-! # How Health handles a read, and how a refresh reason arrives (R29, R36, R55, R87, R88, R111 to R118) -/

namespace Sys2Proof.Machine

/-! ## A list in rising order -/

theorem Store.mem_insertBy {α : Type} {rank : α → Nat} {x y : α} {l : List α} :
    y ∈ Store.insertBy rank x l ↔ y = x ∨ y ∈ l := by
  induction l with
  | nil => simp [Store.insertBy]
  | cons z zs ih =>
    unfold Store.insertBy
    split
    · simp
    · simp only [List.mem_cons, ih, or_left_comm]

theorem Store.pairwise_insertBy {α : Type} {rank : α → Nat} {l : List α} (x : α)
    (h : l.Pairwise (fun a b => rank a ≤ rank b)) :
    (Store.insertBy rank x l).Pairwise (fun a b => rank a ≤ rank b) := by
  induction l with
  | nil => exact List.pairwise_singleton _ _
  | cons z zs ih =>
    obtain ⟨hz, hzs⟩ := List.pairwise_cons.mp h
    unfold Store.insertBy
    split
    · next hlt =>
      refine List.pairwise_cons.mpr ⟨fun a ha => ?_, h⟩
      rcases List.mem_cons.mp ha with rfl | ha
      · exact hlt.le
      · exact hlt.le.trans (hz a ha)
    · next hge =>
      refine List.pairwise_cons.mpr ⟨fun a ha => ?_, ih hzs⟩
      rcases Store.mem_insertBy.mp ha with rfl | ha
      · exact Nat.le_of_not_lt hge
      · exact hz a ha

theorem Store.mem_sortBy {α : Type} {rank : α → Nat} {y : α} {l : List α} : y ∈ Store.sortBy rank l ↔ y ∈ l := by
  have hfold (acc : List α) : y ∈ l.foldl (fun acc x => Store.insertBy rank x acc) acc ↔ y ∈ l ∨ y ∈ acc := by
    induction l generalizing acc with
    | nil => simp
    | cons x xs ih => rw [List.foldl_cons, ih, Store.mem_insertBy, List.mem_cons, or_left_comm, or_assoc]
  exact (hfold []).trans (by simp)

theorem Store.pairwise_sortBy {α : Type} (rank : α → Nat) (l : List α) :
    (Store.sortBy rank l).Pairwise (fun a b => rank a ≤ rank b) :=
  foldl_keeps (P := List.Pairwise (fun a b => rank a ≤ rank b)) (fun _ x h => Store.pairwise_insertBy x h) l .nil

/-! ## The codewords of a read (R111) -/

theorem mem_counts {c : Codewords} {n : Option Nat} :
    n ∈ Codewords.counts c ↔ ∃ i, i < 4 ∧ Codewords.countAt c i = n := by
  have h : Codewords.counts c = (List.range 4).map (Codewords.countAt c) := rfl
  simp [h]

theorem countAt_le {c : Codewords} {i n : Nat} (h : Codewords.countAt c i = some n) : n ≤ 12 := by
  unfold Codewords.countAt at h
  dsimp only at h
  split at h
  · cases h
  · split at h
    · next hle => cases h; exact hle
    · cases h

/-- A corrected count that a read can report is MARGINAL when it is at or above the threshold and not 0 (R111). -/
theorem classify_marginal_iff (th : Nat) {n : Nat} (h : n ≤ 12) :
    classify th (some n) = .marginal ↔ n ≠ 0 ∧ th ≤ n := by
  simp only [classify, if_neg (Nat.not_lt.mpr h)]
  split
  · simp_all
  · split
    · simp; omega
    · simp; omega

theorem hasUncorrectable_iff (w : Written) :
    w.hasUncorrectable = true ↔ ∃ i, i < 4 ∧ Codewords.countAt w.codewords i = none := by
  rw [← mem_counts]
  simp [Written.hasUncorrectable, Codewords.allReadable]

theorem hasMarginal_iff (th : Nat) (w : Written) : w.hasMarginal th = true ↔
    ∃ i c, i < 4 ∧ Codewords.countAt w.codewords i = some c ∧ c ≠ 0 ∧ th ≤ c := by
  simp only [Written.hasMarginal, List.any_eq_true, beq_iff_eq, mem_counts]
  constructor
  · rintro ⟨count, ⟨i, hi, hcount⟩, hclass⟩
    cases count with
    | none => cases hclass
    | some n => exact ⟨i, n, hi, hcount, (classify_marginal_iff th (countAt_le hcount)).mp hclass⟩
  · rintro ⟨i, n, hi, hcount, hn⟩
    exact ⟨some n, ⟨i, hi, hcount⟩, (classify_marginal_iff th (countAt_le hcount)).mpr hn⟩

/-! ## The refresh reason of a written read (R115, R117) -/

theorem Judged.mismatch_iff (w : Written) (j : Judged) : j.mismatch w = true ↔
    w.cellsReadable j.loc.cell j.cells = true ∧ w.recordMatches j.key j.seq j.len j.loc = false := by
  simp [Judged.mismatch, Written.recordMismatch]

/-- What makes a written read bring UNCORRECTABLE: an UNCORRECTABLE codeword, an unreadable trailer, or a value check
mismatch of a judged record (R117). -/
theorem uncorrectable_iff (w : Written) (js : List Judged) :
    (w.hasUncorrectable = true ∨ w.trailer.isNone = true ∨ js.any (fun j => j.mismatch w) = true) ↔
      (∃ i, i < 4 ∧ Codewords.countAt w.codewords i = none) ∨ w.trailer = none ∨
        ∃ j ∈ js, w.cellsReadable j.loc.cell j.cells = true ∧ w.recordMatches j.key j.seq j.len j.loc = false := by
  simp only [hasUncorrectable_iff, Option.isNone_iff_eq_none, List.any_eq_true, Judged.mismatch_iff]

/-! ## The records Health judges (R114) -/

theorem Key.ofCode_code {k : Key} (h : k.item < 65536) : Key.ofCode (Key.code k) = k := by
  obtain ⟨space, item⟩ := k
  obtain ⟨hspace, hitem⟩ := (code_eq_iff space h).mp rfl
  exact congrArg₂ Key.mk hspace hitem

section
variable {seg page : Nat} {s : State} (hs : Store.Canonical s.index)
include hs

theorem mem_judgedIn {j : Judged} : j ∈ judgedIn seg page s ↔ j.key.item < 65536 ∧
    lookup j.key s = some (.live j.seq j.len j.cells j.loc true) ∧ j.loc.seg = seg ∧ j.loc.page = page := by
  rw [judgedIn, Store.mem_sortBy, List.mem_filterMap]
  constructor
  · rintro ⟨⟨c, e⟩, hmem, hj⟩
    dsimp only at hj
    split at hj
    · obtain ⟨hpage, rfl⟩ := Option.ite_none_right_eq_some.mp hj |>.imp_right Option.some.inj
      refine ⟨Nat.mod_lt _ (by decide), ?_, hpage⟩
      rw [lookup, Key.code_ofCode]
      exact Store.get_of_mem hs hmem
    · cases hj
  · rintro ⟨hitem, hentry, hpage⟩
    refine ⟨_, Store.mem_of_get hentry, ?_⟩
    simp only [hpage, and_self, if_true, Key.ofCode_code hitem]

theorem pageHasEntry_iff :
    pageHasEntry seg page s = true ↔ ∃ c x, Store.get c s.index = some x ∧ x.inPage seg page = true := by
  rw [pageHasEntry, List.any_eq_true]
  exact ⟨fun ⟨p, hp, hin⟩ => ⟨p.1, p.2, Store.get_of_mem hs hp, hin⟩,
    fun ⟨c, x, hx, hin⟩ => ⟨(c, x), Store.mem_of_get hx, hin⟩⟩

end

/-! ## Health by segment and mode (R113, R114, R118) -/

theorem healthHandles_system {run : ReadRun} (h : run.seg < 2) (o : ReadOutcome) (s : State) :
    healthHandles run o s = s := if_pos h

theorem healthHandles_serving {run : ReadRun} {s : State} (hseg : 2 ≤ run.seg) (h : Serves s) (o : ReadOutcome) :
    healthHandles run o s = healthFull run o s := by
  have hdata : ¬ run.seg < Config.firstData := Nat.not_lt.mpr hseg
  rw [healthHandles, if_neg hdata]
  rcases h with h | h <;> rw [h]

theorem healthHandles_raises {run : ReadRun} {s : State} (hseg : 2 ≤ run.seg) (h : ¬ Serves s) (o : ReadOutcome) :
    healthHandles run o s = raiseWorst run.seg o s := by
  have hdata : ¬ run.seg < Config.firstData := Nat.not_lt.mpr hseg
  rw [healthHandles, if_neg hdata]
  split
  · next hmode => exact absurd (.inl hmode) h
  · next hmode => exact absurd (.inr hmode) h
  · rfl

/-! ### In READY and READ_ONLY -/

section
variable {run : ReadRun} {s : State} (hseg : 2 ≤ run.seg) (h : Serves s)
include hseg h

theorem healthHandles_written (w : Written) :
    healthHandles run (.written w) s =
      arriveOpt run.seg
        (arrivalOf s.params.threshold w (judgedIn run.seg run.page s ++ (run.get.map GetTaken.judged).toList))
        (markUnreadable (.written w) (judgedIn run.seg run.page s) (raiseWorst run.seg (.written w) s)) :=
  healthHandles_serving hseg h _

theorem healthHandles_blank :
    healthHandles run .blank s =
      arriveOpt run.seg (if pageHasEntry run.seg run.page s then some .uncorrectable else none)
        (markUnreadable .blank (judgedIn run.seg run.page s) s) :=
  healthHandles_serving hseg h _

end

/-! ## A reason arrives (R29, R87, R88) -/

theorem RefreshReason.urgent_iff (q : RefreshReason) : q.urgent = true ↔ q = .uncorrectable ∨ q = .programFault := by
  cases q <;> decide

theorem joinQueue_eq (g : Nat) (q : RefreshReason) (s : State) : joinQueue g q s = { s with
    urgent := if q = .uncorrectable ∨ q = .programFault then s.urgent ++ [g] else s.urgent
    ordinary := if q = .uncorrectable ∨ q = .programFault then s.ordinary else s.ordinary ++ [g] } := by
  simp only [joinQueue, RefreshReason.urgent_iff]
  split <;> rfl

section
variable {g : Nat} {s : State} {r : SegRec} (hr : segAt g s = some r) (q : RefreshReason)
include hr

theorem refreshArrival_ignored (hopened : r.state ≠ .opened) (hfull : r.state ≠ .full)
    (hevacuating : r.state ≠ .evacuating) : refreshArrival g q s = s := by
  cases hreason : r.reason <;> simp [refreshArrival, hr, hreason, hopened, hfull, hevacuating]

theorem refreshArrival_evacuating (hstate : r.state = .evacuating) (hnone : r.reason = none) :
    refreshArrival g q s = joinQueue g q (setReason g q s) := by
  simp [refreshArrival, hr, hstate, hnone]

theorem refreshArrival_opened (hstate : r.state = .opened) (hnone : r.reason = none) :
    refreshArrival g q s = closeForRefresh g (joinQueue g q (setReason g q s)) := by
  simp [refreshArrival, hr, hstate, hnone]

theorem refreshArrival_member (hstate : r.state = .opened ∨ r.state = .full ∨ r.state = .evacuating)
    {old : RefreshReason} (hold : r.reason = some old) : refreshArrival g q s = upgradeReason g old q s := by
  simp [refreshArrival, hr, hstate, hold]

theorem segAt_joined : segAt g (joinQueue g q (setReason g q s)) = some { r with reason := some q } := by
  have hset : segAt g (setReason g q s) = some { r with reason := some q } := by
    rw [setReason, segAt_modSeg, if_pos rfl, hr]; rfl
  rw [joinQueue_eq]
  exact hset

end

/-! ## An OPEN segment is closed (R36, R55) -/

theorem streamHolding_of_open {g : Nat} {s : State} {id : StreamId} (hopen : (streamOf id s).openSeg = some g)
    (hfirst : id = .relocate → s.host.openSeg ≠ some g) : streamHolding g s = some id := by
  cases id with
  | host => exact if_pos hopen
  | relocate => rw [streamHolding, if_neg (hfirst rfl)]; exact if_pos hopen

theorem streamHolding_of_unheld {g : Nat} {s : State} (hhost : s.host.openSeg ≠ some g)
    (hreloc : s.reloc.openSeg ≠ some g) : streamHolding g s = none := by
  simp [streamHolding, hhost, hreloc]

theorem closeForRefresh_unheld {g : Nat} {s : State} (h : streamHolding g s = none) : closeForRefresh g s = s := by
  simp [closeForRefresh, h]

section
variable {g : Nat} {s : State} {id : StreamId} (h : streamHolding g s = some id)
include h

theorem closeForRefresh_commits (hbuffer : (streamOf id s).buffer ≠ []) :
    closeForRefresh g s = commitCause id (modStream id (fun st => { st with finalPage := true }) s) := by
  simp [closeForRefresh, h, hbuffer]

theorem closeForRefresh_closes (hbuffer : (streamOf id s).buffer = []) : closeForRefresh g s = closeOpen id s := by
  simp [closeForRefresh, h, hbuffer]

end

theorem streamOf_joined (id : StreamId) (g : Nat) (q : RefreshReason) (s : State) :
    streamOf id (joinQueue g q (setReason g q s)) = streamOf id s := by
  rw [joinQueue_eq]
  cases id <;> rfl

theorem streamHolding_joined (g : Nat) (q : RefreshReason) (s : State) :
    streamHolding g (joinQueue g q (setReason g q s)) = streamHolding g s := by
  rw [joinQueue_eq]
  rfl

section
variable {g : Nat} {s : State} {r : SegRec} {id : StreamId} (hr : segAt g s = some r) (q : RefreshReason)
  (hopen : (streamOf id s).openSeg = some g)
include hr hopen

/-- The OPEN segment of a stream with an empty buffer becomes FULL with its reason (R36). -/
theorem segAt_closeOpen_joined : segAt g (closeOpen id (joinQueue g q (setReason g q s))) =
    some { r with reason := some q, state := .full, stream := none, nextPage := none } := by
  have hjoined : (streamOf id (joinQueue g q (setReason g q s))).openSeg = some g := by
    rw [streamOf_joined]; exact hopen
  rw [closeOpen_of_open hjoined, segAt_fillSegment, if_pos rfl, segAt_modStream, segAt_joined hr]
  rfl

variable (hfirst : id = .relocate → s.host.openSeg ≠ some g) (hstate : r.state = .opened) (hnone : r.reason = none)
include hfirst hstate hnone

theorem refreshArrival_commits (hbuffer : (streamOf id s).buffer ≠ []) : refreshArrival g q s =
    commitCause id (modStream id (fun st => { st with finalPage := true }) (joinQueue g q (setReason g q s))) := by
  have hholds := (streamHolding_joined g q s).trans (streamHolding_of_open hopen hfirst)
  rw [← streamOf_joined id g q s] at hbuffer
  rw [refreshArrival_opened hr q hstate hnone, closeForRefresh_commits hholds hbuffer]

theorem refreshArrival_closes (hbuffer : (streamOf id s).buffer = []) :
    refreshArrival g q s = closeOpen id (joinQueue g q (setReason g q s)) := by
  have hholds := (streamHolding_joined g q s).trans (streamHolding_of_open hopen hfirst)
  rw [← streamOf_joined id g q s] at hbuffer
  rw [refreshArrival_opened hr q hstate hnone, closeForRefresh_closes hholds hbuffer]

end

/-! ## A reason for a member (R88) -/

theorem upgradeReason_keeps {old q : RefreshReason} (g : Nat) (s : State)
    (h : old = .uncorrectable ∨ old = .programFault ∨ q = .wear ∨ old = q) : upgradeReason g old q s = s := by
  refine if_pos ?_
  rcases h with rfl | rfl | rfl | rfl
  · cases q <;> decide
  · cases q <;> decide
  · exact Nat.zero_le _
  · exact Nat.le_refl _

theorem upgradeReason_urgent {old q : RefreshReason} (g : Nat) (s : State) (hold : old = .wear ∨ old = .threshold)
    (hq : q = .uncorrectable ∨ q = .programFault) : upgradeReason g old q s =
      setReason g q { s with ordinary := s.ordinary.filter (· != g), urgent := s.urgent ++ [g] } := by
  have hrank : ¬ q.rank ≤ old.rank := by
    rcases hq with rfl | rfl <;> rcases hold with rfl | rfl <;> decide
  rw [upgradeReason, if_neg hrank, if_pos ((RefreshReason.urgent_iff q).mpr hq)]

/-! ## The obligation -/

/-- Settles O39: Health by segment and mode, the judged records, the reason of a read, and its arrival by the segment's
state and reason. -/
theorem refreshArrivalOfARead : Obligations.RefreshArrivalOfARead := by
  refine ⟨fun run o s => ⟨fun h => healthHandles_system h o s, fun hseg hready hread => ?_, fun hseg hserves hs =>
      ⟨judgedIn run.seg run.page s, ?_, fun j => mem_judgedIn hs, fun w ho => ?_,
        fun ho => ⟨fun hin => ?_, fun hout => ?_⟩⟩⟩,
    fun j w => ⟨rfl, recordReadable_iff w j.key j.seq j.len j.loc j.cells⟩,
    fun th w js => ⟨fun h => ?_, fun h hmarginal => ?_, fun h hmarginal => ?_⟩,
    fun g q s r hr => ⟨fun ⟨hopened, hfull, hevacuating⟩ => refreshArrival_ignored hr q hopened hfull hevacuating,
      fun hstate hnone => ?_, fun hstate hnone => ⟨fun hhost hreloc => ?_, fun id hopen hfirst =>
        ⟨fun hbuffer => ?_, fun hbuffer => ?_⟩⟩,
      fun hstate old hold => ⟨fun h => ?_, fun hwear hq => ?_, fun hlower hq => ?_⟩⟩⟩
  · rw [healthHandles_raises hseg (not_or.mpr ⟨hready, hread⟩)]
    cases o <;> rfl
  · exact List.pairwise_map.mpr (Store.pairwise_sortBy (fun j : Judged => j.loc.cell) _)
  · subst ho
    rw [healthHandles_written hseg hserves]
    cases arrivalOf s.params.threshold w (judgedIn run.seg run.page s ++ (run.get.map GetTaken.judged).toList) <;> rfl
  · subst ho
    rw [healthHandles_blank hseg hserves, if_pos ((pageHasEntry_iff hs).mpr hin)]
    rfl
  · subst ho
    have hnot : ¬ pageHasEntry run.seg run.page s = true := fun hhas => by
      obtain ⟨c, x, hx, hin⟩ := (pageHasEntry_iff hs).mp hhas
      exact Bool.false_ne_true ((hout c x hx).symm.trans hin)
    rw [healthHandles_blank hseg hserves, if_neg hnot]
    rfl
  · exact if_pos ((uncorrectable_iff w js).mpr h)
  · rw [arrivalOf, if_neg (mt (uncorrectable_iff w js).mp h), if_pos ((hasMarginal_iff th w).mpr hmarginal)]
  · rw [arrivalOf, if_neg (mt (uncorrectable_iff w js).mp h), if_neg (mt (hasMarginal_iff th w).mp hmarginal)]
  · have hjoins : refreshArrival g q s = joinQueue g q (setReason g q s) :=
      hstate.elim (fun h => refreshArrival_joins hr h hnone q) (fun h => refreshArrival_evacuating hr q h hnone)
    exact hjoins.trans (joinQueue_eq g q _)
  · have hunheld := (streamHolding_joined g q s).trans (streamHolding_of_unheld hhost hreloc)
    rw [refreshArrival_opened hr q hstate hnone, closeForRefresh_unheld hunheld]
    exact joinQueue_eq g q _
  · rw [refreshArrival_commits hr q hopen hfirst hstate hnone hbuffer, joinQueue_eq]
    rfl
  · refine ⟨?_, ?_, ?_, (refreshArrival_touches g q s).other, ?_⟩ <;>
      rw [refreshArrival_closes hr q hopen hfirst hstate hnone hbuffer]
    · rw [streamOf_closeOpen]
    · rw [(CommitTouches.closeOpen id _).frame, joinQueue_eq]; rfl
    · rw [(CommitTouches.closeOpen id _).frame, joinQueue_eq]; rfl
    · exact segAt_closeOpen_joined hr q hopen
  · rw [refreshArrival_member hr q hstate hold, upgradeReason_keeps g s h]
  · subst hwear hq
    exact refreshArrival_member hr .threshold hstate hold
  · rw [refreshArrival_member hr q hstate hold, upgradeReason_urgent g s hlower hq]
    rfl

end Sys2Proof.Machine


/-! # The levels of WP and PFW (R65, R108, R127) -/

namespace Sys2Proof.Machine

theorem pfwDeassertedStep_of_deasserted {s : State} (h : s.pfw = false) : pfwDeassertedStep s = s := by
  simp [pfwDeassertedStep, h]

theorem pfwDeassertedStep_of_running {s : State} (h : s.pfw = true) (hheld : isHeld s = false) :
    pfwDeassertedStep s = settle (setPfw false s) := by
  simp [pfwDeassertedStep, h, hheld]

theorem pfwDeassertedStep_of_held {s : State} (h : s.pfw = true) (hheld : isHeld s = true) :
    pfwDeassertedStep s = setPfw false s := by
  simp [pfwDeassertedStep, h, hheld]

/-- Settles O5, by the level of PFW and whether the part is held. -/
theorem lineLevelsChange : Obligations.LineLevelsChange :=
  ⟨fun _ _ => rfl, fun _ h => congrArg _ (pfwDeassertedStep_of_deasserted h),
    fun _ h hheld => congrArg _ (pfwDeassertedStep_of_running h hheld),
    fun _ h hheld => congrArg _ (pfwDeassertedStep_of_held h hheld)⟩

end Sys2Proof.Machine


/-! # FREEZE, SET_POLICY and SET_QUOTA (R128, R134 to R136, R145, Table 9-4) -/

namespace Sys2Proof.Machine

/-! ## The requests are taken -/

namespace Takes

variable {n space : Nat} {s : State}

theorem exec_freeze (h : Takes n (.freeze space) s) :
    exec .freeze s = .next (carryFreeze n space (takenSlot n s)) := by
  obtain ⟨hheld, _, htaken⟩ := h
  simp [exec, execFreeze, whileRunning, hheld, freezeStep, htaken]

theorem exec_setPolicy {policy pin : Nat} (h : Takes n (.setPolicy space policy pin) s) :
    exec .setPolicy s = .next (carrySetPolicy n space policy pin (takenSlot n s)) := by
  obtain ⟨hheld, _, htaken⟩ := h
  simp [exec, execSetPolicy, whileRunning, hheld, setPolicyStep, htaken]

theorem exec_setQuota {quota : Nat} (h : Takes n (.setQuota space quota) s) :
    exec .setQuota s = .next (carrySetQuota n space quota (takenSlot n s)) := by
  obtain ⟨hheld, _, htaken⟩ := h
  simp [exec, execSetQuota, whileRunning, hheld, setQuotaStep, htaken]

theorem exec_clearSpace (h : Takes n (.clearSpace space) s) :
    exec .clearSpace s = .next (carryClearSpace n space (takenSlot n s)) := by
  obtain ⟨hheld, _, htaken⟩ := h
  simp [exec, execClearSpace, whileRunning, hheld, clearSpaceStep, htaken]

/-! ## A request of a space is refused (R131) -/

theorem refused {r : Request} (h : Takes n r s) {c : Instr} {checks : List (Option (Status × ReplyData))}
    {go : State → State} (hexec : exec c s = .next (afterChecks n checks go (takenSlot n s))) {st : Status}
    {d : ReplyData} (hr : firstRefusal checks = some (st, d)) :
    exec c s = .next (settle (answeredIn n st d s)) := by
  rw [hexec, afterChecks_refused hr, answer_takenSlot h.engine_idle]

section
variable {st : Status} {d : ReplyData}

theorem freeze_refused (h : Takes n (.freeze space) s)
    (hr : firstRefusal [modeCheck false s, spaceCheck space] = some (st, d)) :
    exec .freeze s = .next (settle (answeredIn n st d s)) := h.refused h.exec_freeze hr

theorem setPolicy_refused {policy pin : Nat} (h : Takes n (.setPolicy space policy pin) s)
    (hr : firstRefusal (setPolicyChecks space policy pin s) = some (st, d)) :
    exec .setPolicy s = .next (settle (answeredIn n st d s)) := h.refused h.exec_setPolicy hr

theorem setQuota_refused {quota : Nat} (h : Takes n (.setQuota space quota) s)
    (hr : firstRefusal (setQuotaChecks space quota s) = some (st, d)) :
    exec .setQuota s = .next (settle (answeredIn n st d s)) := h.refused h.exec_setQuota hr

theorem clearSpace_refused (h : Takes n (.clearSpace space) s)
    (hr : firstRefusal (clearChecks space s) = some (st, d)) :
    exec .clearSpace s = .next (settle (answeredIn n st d s)) := h.refused h.exec_clearSpace hr

end

end Takes

/-! ## The checks in order (R134, R135, R137) -/

/-- The number names no policy (Table 11-8). -/
theorem policyOf_isNone_iff (policy : Nat) : (policyOf policy).isNone = true ↔ 2 < policy := by
  match policy with
  | 0 | 1 | 2 => simp [policyOf]
  | p + 3 => simp [policyOf]

theorem firstRefusal_setPolicyChecks (space policy pin : Nat) (s : State) :
    firstRefusal (setPolicyChecks space policy pin s) =
      if s.startup.mode = .mounting then some (.notReady, .none)
      else if s.startup.mode = .unformatted then some (.unformatted, .none)
      else if s.startup.mode = .readOnly then some (.readOnlyMode, .none)
      else if s.pfw then some (.powerLow, .none)
      else if (16 ≤ space ∨ 2 < policy) ∨ 1 < pin then some (.badRequest, .none)
      else if isDowngrade (policyOf policy) (spaceAt space s).policy then some (.downgrade, .none)
      else if (spaceAt space s).pinGuard ∧ s.wp then some (.writeProtected, .none)
      else none := by
  simp only [setPolicyChecks, firstRefusal_modeCheck, firstRefusal_failIf, pinBlocks, Bool.or_eq_true, Bool.and_eq_true,
    decide_eq_true_eq, policyOf_isNone_iff]
  rfl

theorem firstRefusal_setQuotaChecks (space quota : Nat) (s : State) :
    firstRefusal (setQuotaChecks space quota s) =
      if s.startup.mode = .mounting then some (.notReady, .none)
      else if s.startup.mode = .unformatted then some (.unformatted, .none)
      else if s.startup.mode = .readOnly then some (.readOnlyMode, .none)
      else if s.pfw then some (.powerLow, .none)
      else if 16 ≤ space ∨ 768544 < quota then some (.badRequest, .none)
      else if (spaceAt space s).pinGuard ∧ s.wp then some (.writeProtected, .none)
      else if quota ≠ 0 ∧ quota < (spaceAt space s).usage then some (.quotaBelowUsage, .none)
      else none := by
  simp only [setQuotaChecks, firstRefusal_modeCheck, firstRefusal_failIf, pinBlocks, Bool.or_eq_true, Bool.and_eq_true,
    decide_eq_true_eq, bne_iff_ne]
  rfl

theorem firstRefusal_clearChecks (space : Nat) (s : State) :
    firstRefusal (clearChecks space s) =
      if s.startup.mode = .mounting then some (.notReady, .none)
      else if s.startup.mode = .unformatted then some (.unformatted, .none)
      else if s.startup.mode = .readOnly then some (.readOnlyMode, .none)
      else if s.pfw then some (.powerLow, .none)
      else if 16 ≤ space then some (.badRequest, .none)
      else if (spaceAt space s).frozen then some (.frozen, .none)
      else if (spaceAt space s).policy = .readOnly then some (.readOnlySpace, .none)
      else if (spaceAt space s).pinGuard ∧ s.wp then some (.writeProtected, .none)
      else if (spaceAt space s).policy = .writeOnce then some (.exists, .none)
      else none := by
  simp only [clearChecks, firstRefusal_modeCheck, firstRefusal_failIf, pinBlocks, Bool.and_eq_true, decide_eq_true_eq,
    beq_iff_eq]
  rfl

/-- With the pin guard off or WP deasserted the check of R127 passes. -/
theorem not_pinned {r : SpaceRec} {wp : Bool} (h : r.pinGuard = false ∨ wp = false) :
    ¬ (r.pinGuard = true ∧ wp = true) := by
  rintro ⟨hpin, hwp⟩
  simp [hpin, hwp] at h

/-! ## The wait for the catalogue (R136, R145) -/

/-- The slot just taken waits for the snapshot that carries a change of the Space Table. -/
theorem awaitCatalogue_takenSlot (n : Nat) (spaces : List (Nat × SpaceRec)) (s : State) :
    awaitCatalogue n { takenSlot n s with spaces := spaces } =
      { modSlot n (fun sl => { sl with state := .awaitingCatalogue }) { s with spaces := spaces } with
        engine := { s.engine with active := some n }
        cat := { s.cat with dirty := true, waiters := s.cat.waiters ++ [⟨.slot n, s.cat.begun + 1⟩] } } := by
  have hslots : Store.modify n (fun sl : Slot => { sl with state := .awaitingCatalogue }) (takenSlot n s).link.slots =
      Store.modify n (fun sl => { sl with state := .awaitingCatalogue }) s.link.slots := Store.modify_modify ..
  simp only [awaitCatalogue, addWaiter, modCat, setSlotState, modSlot, hslots]
  rfl

namespace Takes

variable {n space : Nat} {s : State}

/-- A SET_POLICY that passes its checks changes its space and waits for the catalogue (R134, R136). -/
theorem setPolicy_carried {policy pin : Nat} (h : Takes n (.setPolicy space policy pin) s)
    (hpass : firstRefusal (setPolicyChecks space policy pin s) = none) {named : Policy}
    (hnamed : policyOf policy = some named) :
    exec .setPolicy s = .next (settle (awaitCatalogue n { takenSlot n s with
      spaces := Store.modify space (fun r => { r with policy := named, pinGuard := pin == 1 }) s.spaces })) := by
  rw [h.exec_setPolicy, carrySetPolicy, afterChecks_passed (by exact hpass), setPolicy, hnamed]
  rfl

/-- A SET_QUOTA that passes its checks changes its space and waits for the catalogue (R135, R136). -/
theorem setQuota_carried {quota : Nat} (h : Takes n (.setQuota space quota) s)
    (hpass : firstRefusal (setQuotaChecks space quota s) = none) :
    exec .setQuota s = .next (settle (awaitCatalogue n { takenSlot n s with
      spaces := Store.modify space (fun r => { r with quota := if quota = 0 then none else some quota })
        s.spaces })) := by
  rw [h.exec_setQuota, carrySetQuota, afterChecks_passed (by exact hpass), setQuota]
  rfl

/-- A FREEZE of a space of the part sets its frozen mark and is answered OK (R128). -/
theorem freeze_carried (h : Takes n (.freeze space) s) (hserves : Serves s) (hspace : space < 16) :
    exec .freeze s = .next (settle (answeredIn n .ok .none
      { s with spaces := Store.modify space (fun r => { r with frozen := true }) s.spaces })) := by
  have hidle : (modSpace space (fun r => { r with frozen := true }) s).engine.active = none := h.engine_idle
  have hfrozen : freezeSpace n space (takenSlot n s) = answeredIn n .ok .none (modSpace space _ s) :=
    answer_takenSlot hidle .ok .none
  rw [h.exec_freeze, carryFreeze, afterChecks_passed (readChecks_pass (takenSlot n s) hserves hspace), hfrozen]
  rfl

end Takes

/-- Settles O32: the mode of each request, FREEZE in the modes that serve, SET_POLICY and SET_QUOTA by their checks. -/
theorem freezePolicyAndQuotaChangeTheSpace : Obligations.FreezePolicyAndQuotaChangeTheSpace := by
  refine ⟨fun s n sp h hmode => h.freeze_refused (readChecks_unformatted s hmode sp),
    fun s n sp pol pin h => ⟨fun hmode => h.setPolicy_refused ?_, fun hmode => h.setPolicy_refused ?_⟩,
    fun s n sp quota h => ⟨fun hmode => h.setQuota_refused ?_, fun hmode => h.setQuota_refused ?_⟩,
    fun s n sp h hserves => ⟨fun hsp => h.freeze_refused (readChecks_badSpace s hserves hsp),
      h.freeze_carried hserves⟩, ?_⟩
  · simp [firstRefusal_setPolicyChecks, hmode]
  · simp [firstRefusal_setPolicyChecks, hmode]
  · simp [firstRefusal_setQuotaChecks, hmode]
  · simp [firstRefusal_setQuotaChecks, hmode]
  intro waits
  constructor
  · intro s n sp pol pin h hmode r
    have hchecks := firstRefusal_setPolicyChecks sp pol pin s
    refine ⟨fun hpfw => h.setPolicy_refused ?_, fun hpfw hbad => h.setPolicy_refused ?_,
      fun hpfw hsp hpin named hnamed => ?_⟩
    · simp [hchecks, hmode, hpfw]
    · simp [hchecks, hmode, hpfw, or_assoc, hbad]
    · have hpol : ¬ 2 < pol := by rw [← policyOf_isNone_iff, hnamed]; exact Bool.false_ne_true
      have hwell : ¬ ((16 ≤ sp ∨ 2 < pol) ∨ 1 < pin) := by omega
      have hdown : isDowngrade (policyOf pol) (spaceAt sp s).policy = true ↔
          Policy.code named < Policy.code r.policy := by
        simp [hnamed, isDowngrade, r]
      refine ⟨fun hlow => h.setPolicy_refused ?_, fun hrise hguard => h.setPolicy_refused ?_, fun hrise hguard => ?_⟩
      · simp [hchecks, hmode, hpfw, hwell, hdown, hlow]
      · simp [hchecks, hmode, hpfw, hwell, hdown, Nat.not_lt.mpr hrise, r, hguard]
      · have hopen : ¬ ((spaceAt sp s).pinGuard = true ∧ s.wp = true) := not_pinned hguard
        rw [h.setPolicy_carried _ hnamed, awaitCatalogue_takenSlot]
        simp [hchecks, hmode, hpfw, hwell, hdown, Nat.not_lt.mpr hrise, hopen]
  · intro s n sp quota h hmode r
    have hchecks := firstRefusal_setQuotaChecks sp quota s
    refine ⟨fun hpfw => h.setQuota_refused ?_, fun hpfw hbad => h.setQuota_refused ?_, fun hpfw hsp hquota => ?_⟩
    · simp [hchecks, hmode, hpfw]
    · simp [hchecks, hmode, hpfw, hbad]
    · have hwell : ¬ (16 ≤ sp ∨ 768544 < quota) := by omega
      have hopen (hguard : r.pinGuard = false ∨ s.wp = false) : ¬ ((spaceAt sp s).pinGuard = true ∧ s.wp = true) :=
        not_pinned hguard
      refine ⟨fun hguard => h.setQuota_refused ?_, fun hguard hne hlow => h.setQuota_refused ?_, fun hguard hfits => ?_⟩
      · simp [hchecks, hmode, hpfw, hwell, r, hguard]
      · simp [hchecks, hmode, hpfw, hwell, hopen hguard, hne, r, hlow]
      · have hcovers : ¬ (quota ≠ 0 ∧ quota < (spaceAt sp s).usage) := fun ⟨hne, hlow⟩ =>
          hfits.elim hne (Nat.not_le.mpr hlow)
        rw [h.setQuota_carried, awaitCatalogue_takenSlot]
        simp [hchecks, hmode, hpfw, hwell, hopen hguard, hcovers]

end Sys2Proof.Machine


/-! # CLEAR_SPACE (R15, R137, R138) -/

namespace Sys2Proof.Machine

/-! ## Entries removed one after the other -/

/-- The entries of a list of keys are removed, with the adjustments of each (R4). -/
def removeKeys (ks : List Key) (s : State) : State := ks.foldl (fun t k => changeEntry k none t) s

theorem removeSpace_eq (space : Nat) (s : State) : removeSpace space s = removeKeys (keysOf space s) s := rfl

theorem removeKeys_cons (k : Key) (ks : List Key) (s : State) :
    removeKeys (k :: ks) s = removeKeys ks (changeEntry k none s) := rfl

theorem removeKeys_frame (ks : List Key) (s : State) :
    removeKeys ks s = { s with
      index := (removeKeys ks s).index, segs := (removeKeys ks s).segs
      spaces := (removeKeys ks s).spaces, comp := (removeKeys ks s).comp } := by
  induction ks generalizing s with
  | nil => rfl
  | cons k ks ih => rw [removeKeys_cons, ih, changeEntry_frame]

section
variable (ks : List Key) (s : State)

@[simp] theorem removeKeys_nextSeq : (removeKeys ks s).nextSeq = s.nextSeq := by rw [removeKeys_frame]
@[simp] theorem removeKeys_host : (removeKeys ks s).host = s.host := by rw [removeKeys_frame]
@[simp] theorem removeKeys_reloc : (removeKeys ks s).reloc = s.reloc := by rw [removeKeys_frame]
@[simp] theorem removeKeys_flash : (removeKeys ks s).flash = s.flash := by rw [removeKeys_frame]
@[simp] theorem removeKeys_link : (removeKeys ks s).link = s.link := by rw [removeKeys_frame]
@[simp] theorem removeKeys_engine : (removeKeys ks s).engine = s.engine := by rw [removeKeys_frame]
@[simp] theorem removeKeys_cat : (removeKeys ks s).cat = s.cat := by rw [removeKeys_frame]

end

theorem get_removeKeys (c : Nat) (ks : List Key) {s : State} (hs : Store.Canonical s.index) :
    Store.get c (removeKeys ks s).index = if c ∈ ks.map Key.code then none else Store.get c s.index := by
  induction ks generalizing s with
  | nil => rfl
  | cons k ks ih =>
    have hnext : Store.Canonical (changeEntry k none s).index := by
      rw [changeEntry_index]; exact canonical_setEntry k none hs
    rw [removeKeys_cons, ih hnext]
    by_cases hk : c = Key.code k
    · simp [hk, get_setEntry_same k none hs]
    · simp [hk, get_setEntry_other hk]

theorem total_cons (n : Nat) (l : List Nat) : total (n :: l) = n + total l := by
  simp only [total, ← List.sum_eq_foldl, List.sum_cons]

/-- The cells of the removed entries leave their segments (R15). -/
theorem segAt_removeKeys (g : Nat) {ks : List Key} (hks : (ks.map Key.code).Nodup) (s : State) :
    segAt g (removeKeys ks s) =
      (segAt g s).map (fun r => { r with live := r.live - total (ks.map (fun k => cellsIn g (lookup k s))) }) := by
  induction ks generalizing s with
  | nil => simp [removeKeys, total]
  | cons k ks ih =>
    obtain ⟨hk, hks⟩ := List.nodup_cons.mp hks
    have hrest : ks.map (fun j => cellsIn g (lookup j (changeEntry k none s))) =
        ks.map (fun j => cellsIn g (lookup j s)) := by
      refine List.map_congr_left fun j hj => ?_
      have hne : Key.code j ≠ Key.code k := fun e => hk (e ▸ List.mem_map_of_mem hj)
      rw [lookup, get_changeEntry_other hne, ← lookup]
    rw [removeKeys_cons, ih hks, hrest, segAt_changeEntry, Option.map_map, List.map_cons, total_cons]
    simp only [Function.comp_def, cellsIn, Nat.add_zero, Nat.sub_sub]

/-- Only the space of the removed keys changes its counts. -/
theorem get_spaces_removeKeys_other {space m : Nat} (hm : m ≠ space) {ks : List Key}
    (hks : ∀ k ∈ ks, k.space = space) (s : State) : Store.get m (removeKeys ks s).spaces = Store.get m s.spaces := by
  induction ks generalizing s with
  | nil => rfl
  | cons k ks ih =>
    obtain ⟨hk, hks⟩ := List.forall_mem_cons.mp hks
    rw [removeKeys_cons, ih hks, changeEntry_spaces, hk, Store.get_modify_other hm]

/-- What does not see the counts of a record sees no removal. -/
theorem get_spaces_removeKeys {f : SpaceRec → SpaceRec} (hf : ∀ old new r, f (SpaceRec.recount old new r) = f r)
    (m : Nat) (ks : List Key) (s : State) :
    (Store.get m (removeKeys ks s).spaces).map f = (Store.get m s.spaces).map f := by
  induction ks generalizing s with
  | nil => rfl
  | cons k ks ih =>
    rw [removeKeys_cons, ih, space_changeEntry, Option.map_map]
    congr 1
    funext r
    simp only [Function.comp_apply]
    split
    · exact hf _ _ r
    · rfl

/-! ## The entries of a space -/

/-- The numbers of a space's keys are those of its index entries. -/
theorem codes_keysOf (space : Nat) (s : State) :
    (keysOf space s).map Key.code = (s.index.filter (fun p => (Key.ofCode p.1).space == space)).map Prod.fst := by
  simp only [keysOf, List.filter_map, List.map_map, Function.comp_def, Key.code_ofCode]

theorem space_of_mem_keysOf {space : Nat} {s : State} : ∀ k ∈ keysOf space s, k.space = space := by
  intro k hk
  simpa using (List.mem_filter.mp hk).2

theorem nodup_codes_keysOf (space : Nat) {s : State} (hs : Store.Canonical s.index) :
    ((keysOf space s).map Key.code).Nodup := by
  rw [codes_keysOf]
  exact (Store.canonical_filter hs).imp Nat.ne_of_lt

/-- The entries of a space are gone and all others stay (R15). -/
theorem get_removeSpace (c space : Nat) {s : State} (hs : Store.Canonical s.index) :
    Store.get c (removeSpace space s).index =
      if (Key.ofCode c).space = space then none else Store.get c s.index := by
  rw [removeSpace_eq, get_removeKeys c _ hs, codes_keysOf]
  by_cases hspace : (Key.ofCode c).space = space
  · rw [if_pos hspace]
    split
    · rfl
    · next hnot =>
      by_contra hget
      obtain ⟨e, he⟩ := Option.ne_none_iff_exists'.mp hget
      exact hnot (List.mem_map_of_mem (f := Prod.fst) (List.mem_filter.mpr ⟨Store.mem_of_get he, by simp [hspace]⟩))
  · rw [if_neg hspace, if_neg]
    intro hmem
    obtain ⟨p, hp, rfl⟩ := List.mem_map.mp hmem
    exact hspace (by simpa using (List.mem_filter.mp hp).2)

/-- The cells of the keys of a space are those of its index entries. -/
theorem cells_keysOf (g space : Nat) {s : State} (hs : Store.Canonical s.index) :
    (keysOf space s).map (fun k => cellsIn g (lookup k s)) =
      (s.index.filter (fun p => (Key.ofCode p.1).space == space)).map (fun p => cellsIn g (some p.2)) := by
  simp only [keysOf, List.filter_map, List.map_map, Function.comp_def]
  refine List.map_congr_left fun p hp => ?_
  rw [lookup, Key.code_ofCode, Store.get_of_mem hs (List.mem_of_mem_filter hp)]

/-! ## The clear (R138) -/

theorem Takes.clearSpace_carried {n space : Nat} {s : State} (h : Takes n (.clearSpace space) s)
    (hpass : firstRefusal (clearChecks space s) = none) :
    exec .clearSpace s = .next (settle (clearSpace n space (takenSlot n s))) := by
  rw [h.exec_clearSpace, carryClearSpace, afterChecks_passed (by exact hpass)]

section
variable (n space : Nat) (s : State)

theorem lookup_clearSpace (k : Key) (hk : k.item < 65536) (hs : Store.Canonical s.index) :
    lookup k (clearSpace n space s) = if k.space = space then none else lookup k s := by
  obtain ⟨hspace, _⟩ := (code_eq_iff k.space hk).mp rfl
  have hget := get_removeSpace (Key.code k) space hs
  rw [hspace] at hget
  exact hget

theorem space_clearSpace :
    Store.get space (clearSpace n space s).spaces =
      (Store.get space s.spaces).map (fun r => { r with clearSeq := nextSeqOf s, usage := 0, keyCount := 0 }) :=
  (Store.get_modify_same ..).trans (get_spaces_removeKeys (fun _ _ _ => rfl) space (keysOf space s) s)

theorem space_clearSpace_other {m : Nat} (hm : m ≠ space) :
    Store.get m (clearSpace n space s).spaces = Store.get m s.spaces :=
  (Store.get_modify_other hm ..).trans (get_spaces_removeKeys_other hm space_of_mem_keysOf s)

theorem segAt_clearSpace (g : Nat) (hs : Store.Canonical s.index) :
    segAt g (clearSpace n space s) =
      let gone := total ((s.index.filter (fun p => (Key.ofCode p.1).space == space)).map (fun p => cellsIn g (some p.2)))
      (segAt g s).map (fun r => { r with live := r.live - gone }) := by
  rw [← cells_keysOf g space hs]
  exact segAt_removeKeys g (nodup_codes_keysOf space hs) s

/-- The clear of a space touches none of the streams, the array and the next sequence. -/
theorem clearSpace_frame : (clearSpace n space s).nextSeq = s.nextSeq ∧ (clearSpace n space s).host = s.host ∧
    (clearSpace n space s).reloc = s.reloc ∧ (clearSpace n space s).flash = s.flash :=
  ⟨removeKeys_nextSeq .., removeKeys_host .., removeKeys_reloc .., removeKeys_flash ..⟩

theorem slotAt_clearSpace :
    slotAt n (clearSpace n space s) = (slotAt n s).map (fun sl => { sl with state := .awaitingCatalogue }) := by
  rw [slotAt, slotAt, ← removeKeys_link (keysOf space s) s]
  exact Store.get_modify_same ..

theorem engine_clearSpace : (clearSpace n space s).engine = s.engine := removeKeys_engine ..

theorem cat_clearSpace : (clearSpace n space s).cat =
    { s.cat with dirty := true, waiters := s.cat.waiters ++ [⟨.slot n, s.cat.begun + 1⟩] } := by
  rw [← removeKeys_cat (keysOf space s) s]
  rfl

end

/-- Settles O33: the checks in order, and the clear as the removal of every entry of the space. -/
theorem clearSpaceRemovesEveryEntry : Obligations.ClearSpaceRemovesEveryEntry := by
  refine ⟨firstRefusal_clearChecks, fun s n sp st data h hr => h.clearSpace_refused hr,
    fun s n sp r h hpass htables hr => ⟨_, h.clearSpace_carried hpass, ?_⟩⟩
  obtain ⟨_, hindex, _⟩ := htables
  obtain ⟨hseq, hhost, hreloc, hflash⟩ := clearSpace_frame n sp (takenSlot n s)
  refine ⟨fun i hi => ?_, fun k hk hitem => ?_, ?_, fun m hm => space_clearSpace_other n sp (takenSlot n s) hm,
    fun g => segAt_clearSpace n sp (takenSlot n s) g hindex, hseq, hhost, hreloc, hflash, ?_, ?_,
    cat_clearSpace n sp (takenSlot n s)⟩
  · rw [lookup_clearSpace n sp (takenSlot n s) ⟨sp, i⟩ hi hindex, if_pos rfl]
  · rw [lookup_clearSpace n sp (takenSlot n s) k hitem hindex, if_neg hk]; rfl
  · rw [space_clearSpace, takenSlot_spaces, hr]; rfl
  · obtain ⟨sl, hsl, _⟩ := h.slot
    rw [slotAt_clearSpace, slotAt_takenSlot hsl, hsl]
    rfl
  · rw [engine_clearSpace, takenSlot_engine]

end Sys2Proof.Machine


/-! # Policies and frozen marks never fall (R126, R128) -/

namespace Sys2Proof.Machine

/-! ## A list of checks that refuses nothing (R131) -/

theorem firstRefusal_eq_none {checks : List (Option (Status × ReplyData))} :
    firstRefusal checks = none ↔ ∀ check ∈ checks, check = none := by
  induction checks with
  | nil => simp [firstRefusal]
  | cons check rest ih => cases check <;> simp [firstRefusal, ih]

theorem failIf_eq_none {c : Bool} {st : Status} : failIf c st = none ↔ c = false := by cases c <;> simp [failIf]

/-! ## The Space Table after a change -/

theorem SpacesRise.refl (s : State) : SpacesRise s s := fun _ => ⟨Nat.le_refl _, id⟩

theorem SpacesRise.trans {s t u : State} (h : SpacesRise s t) (h' : SpacesRise t u) : SpacesRise s u := fun n =>
  have ⟨hpolicy, hfrozen⟩ := h n
  have ⟨hpolicy', hfrozen'⟩ := h' n
  ⟨Nat.le_trans hpolicy hpolicy', hfrozen' ∘ hfrozen⟩

/-- The marks of every space that a change of its counts leaves alone are found under the same number. -/
theorem get_of_spaceIds {l m : List (Nat × SpaceRec)} (h : l.map spaceId = m.map spaceId) (n : Nat) :
    (Store.get n l).map (fun r => (SpaceRec.fields r, r.frozen)) =
      (Store.get n m).map (fun r => (SpaceRec.fields r, r.frozen)) := by
  have hids (x : List (Nat × SpaceRec)) :
      (Store.get n x).map (fun r => (SpaceRec.fields r, r.frozen)) = Store.get n (x.map spaceId) :=
    (Store.get_mapVals n (fun _ r => (SpaceRec.fields r, r.frozen)) x).symm
  rw [hids, hids, h]

/-- A change of the counts leaves every policy and frozen mark as it is (R4). -/
theorem spacesRise_of_spaceIds {s t : State} (h : t.spaces.map spaceId = s.spaces.map spaceId) : SpacesRise s t := by
  intro n
  have hget := get_of_spaceIds h n
  unfold spaceAt
  cases hs : Store.get n s.spaces with
  | none =>
    rw [hs, Option.map_none, Option.map_eq_none_iff] at hget
    rw [hget]
    exact ⟨Nat.le_refl _, id⟩
  | some r =>
    rw [hs, Option.map_some, Option.map_eq_some_iff] at hget
    obtain ⟨r', hr', hids⟩ := hget
    obtain ⟨hfields, hfrozen⟩ := Prod.mk.inj hids
    have hpolicy : r'.policy = r.policy := congrArg SpaceFields.policy hfields
    rw [hr', Option.getD_some, Option.getD_some, hpolicy, hfrozen]
    exact ⟨Nat.le_refl _, id⟩

/-- A record changed so that neither its policy nor its frozen mark falls. -/
theorem spacesRise_modSpace {m : Nat} {f : SpaceRec → SpaceRec} (s : State)
    (hf : ∀ r, Store.get m s.spaces = some r →
      Policy.atMost r.policy (f r).policy ∧ (r.frozen = true → (f r).frozen = true)) :
    SpacesRise s (modSpace m f s) := by
  intro n
  by_cases e : n = m
  · subst e
    simp only [spaceAt, modSpace, Store.get_modify_same]
    cases h : Store.get n s.spaces with
    | none => exact ⟨Nat.le_refl _, id⟩
    | some r => exact hf r h
  · simp only [spaceAt, modSpace, Store.get_modify_other e]
    exact ⟨Nat.le_refl _, id⟩

/-- No operation of the part outside mount and FORMAT lowers a policy or clears a frozen mark: of the Space Table they
change the counts alone. -/
theorem spacesRise_placing (s : State) : Placing (SpacesRise s) where
  work _ t h _ x := by unfold SameButWork at h; rw [h]; exact x
  slots _ _ _ x := x
  notice _ _ x := x
  segs _ _ _ x := x
  index _ _ _ x := x
  counts t l h x := x.trans (spacesRise_of_spaceIds (t := { t with spaces := l }) h)
  readOnly _ _ _ x := x
  pendingCause _ _ _ x := x
  formatFails _ _ _ x := x
  sequence _ _ _ x := x
  marks _ _ x := x

/-- No operation outside mount and FORMAT begins either. -/
theorem settled_stable : Stable Settled where
  work _ t h _ x := by unfold SameButWork at h; rw [h]; exact x
  slots _ _ _ x := x
  notice _ _ x := x
  segs _ _ _ x := x
  index _ _ _ x := x
  counts _ _ _ x := x
  readOnly _ _ _ x := x
  pendingCause _ _ _ x := x
  formatFails _ _ h x := by rw [x.2] at h; cases h

/-- An erase that ends leaves its traces in the array's pages alone (R74). -/
theorem eraseLeaves_frame (ok : Bool) (g : Nat) (t : State) :
    eraseLeaves ok g t = { t with flash := (eraseLeaves ok g t).flash } := by
  cases ok <;> simp only [eraseLeaves, spoilSegment, blankSegment, if_true, Bool.false_eq_true, if_false]

/-! ### No work of the Start-up Controller -/

section
variable {t : State} (ht : Settled t)
include ht

theorem startupReadEnded_of_settled (g p : Nat) (o : ReadOutcome) : startupReadEnded g p o t = t := by
  simp [startupReadEnded, ht.1, ht.2]

theorem startupErased_of_settled (ok : Bool) : startupErased ok t = t := by simp [startupErased, ht.1, ht.2]

theorem startupHeader_of_settled (ok : Bool) : startupHeader ok t = t := by simp [startupHeader, ht.1, ht.2]

/-- The store is emptied by a FORMAT in progress only (R170). -/
theorem formatEmptyingStep_of_settled : formatEmptyingStep t = t := by
  simp [formatEmptyingStep, formatAtRest, ht.2]

end

namespace SpacesRise

variable {s t : State}

/-! ## The end of a change -/

theorem finish (h : SpacesRise s t) : SpacesRise s (finish t) := by
  have hsent := finish_sendsOnly t
  unfold SendsOnly at hsent
  rw [hsent]
  exact h

theorem settleWith (ended : Bool) (h : SpacesRise s t) : SpacesRise s (settleWith ended t) :=
  have hP := spacesRise_placing s
  (hP.keeps_settleRound ended (hP.keeps_settleRound ended h)).finish

theorem settle (h : SpacesRise s t) : SpacesRise s (settle t) := h.settleWith false

theorem settleAfterOp (h : SpacesRise s t) : SpacesRise s (settleAfterOp t) := h.settleWith true

theorem calm (h : SpacesRise s t) : SpacesRise s (calm t) := by
  unfold Machine.calm
  split
  · exact h.settle
  · exact h.finish

/-! ## The Host Link -/

theorem refuseFrame (f : RxFrame) (st : Status) (h : SpacesRise s t) : SpacesRise s (refuseFrame f st t) := by
  unfold Machine.refuseFrame; split <;> exact h

theorem queueFrame (f : RxFrame) (r : Request) (h : SpacesRise s t) : SpacesRise s (queueFrame f r t) := by
  unfold Machine.queueFrame takeSlot
  split
  · exact h.refuseFrame _ _
  · split
    · exact h.refuseFrame _ _
    · split
      · exact h.refuseFrame _ _
      · exact h

theorem cancelEffect (target : Byte) (h : SpacesRise s t) : SpacesRise s (cancelEffect target t).2 := by
  unfold Machine.cancelEffect
  split
  · exact h
  · split
    case h_3 => split <;> exact h
    all_goals exact h

theorem doImmediate (f : RxFrame) (i : Immediate) (h : SpacesRise s t) : SpacesRise s (doImmediate f i t) := by
  cases i with
  | reset =>
    refine SpacesRise.settle ((spacesRise_placing s).keeps_commitCause .host ?_)
    exact h
  | identify => refine SpacesRise.calm ?_; split <;> exact h
  | status => refine SpacesRise.calm ?_; split <;> exact h
  | cancel target =>
    refine SpacesRise.calm ?_
    split
    · exact h.cancelEffect target
    · exact h

theorem dispose (f : RxFrame) (h : SpacesRise s t) : SpacesRise s (dispose f t) := by
  unfold Machine.dispose
  split
  · exact h
  · split
    · exact (h.refuseFrame _ _).calm
    · split
      · exact h.doImmediate _ _
      · exact (h.queueFrame _ _).calm
      · exact (h.refuseFrame _ _).calm

theorem receive (f : RxFrame) (h : SpacesRise s t) : SpacesRise s (receive f t) := by
  refine Whole.keeps_whileRunning (Whole.keeps_insideFrame fun h => ?_) h
  unfold frameEnds
  split
  · exact h
  · split
    · exact h
    · split
      · exact dispose f (t := hunt t) h
      · exact h

theorem resetReplyStep (h : SpacesRise s t) : SpacesRise s (resetReplyStep t) := by
  unfold Machine.resetReplyStep
  split
  · exact h
  · split
    · exact finish h
    · exact h

theorem frameSentStep (h : SpacesRise s t) : SpacesRise s (frameSentStep t) := by
  unfold Machine.frameSentStep
  split
  · exact h
  · exact calm h

/-! ## The Request Engine -/

/-- A request is answered with a refusal, or carried out when it has none (R131). -/
theorem afterChecks (n : Nat) {checks : List (Option (Status × ReplyData))} {go : State → State}
    (hgo : firstRefusal checks = none → SpacesRise s t → SpacesRise s (go t)) (h : SpacesRise s t) :
    SpacesRise s (afterChecks n checks go t) := by
  cases hr : firstRefusal checks with
  | some refusal =>
    obtain ⟨st, d⟩ := refusal
    rw [afterChecks_refused hr]
    exact ((spacesRise_placing s).keeps_answer n st d h).settle
  | none =>
    rw [afterChecks_passed hr]
    exact (hgo hr h).settle

theorem deleteKey (n : Nat) (k : Key) (h : SpacesRise s t) : SpacesRise s (deleteKey n k t) := by
  unfold Machine.deleteKey
  split
  · exact (spacesRise_placing s).keeps_storeFor _ _ _ h
  · exact h

theorem syncSlot (n : Nat) (h : SpacesRise s t) : SpacesRise s (syncSlot n t) := by
  unfold Machine.syncSlot
  split
  · exact h
  · split
    · refine (spacesRise_placing s).keeps_commitCause .host ?_
      exact h
    · exact h

theorem getKey (n : Nat) (k : Key) (h : SpacesRise s t) : SpacesRise s (getKey n k t) := by
  unfold Machine.getKey; split <;> exact h

theorem setParam (n code value : Nat) (h : SpacesRise s t) : SpacesRise s (setParam n code value t) := by
  unfold Machine.setParam
  split
  · unfold paramTakesEffect
    refine (spacesRise_placing s).keeps_answer _ _ _ ?_
    split
    · exact h
    · split
      · exact (spacesRise_placing s).keeps_thresholdLowered (s := { t with params := _ }) value h
      · exact h
    · exact h
  · exact h

theorem compactSlot (n : Nat) (target : Option Nat) (h : SpacesRise s t) : SpacesRise s (compactSlot n target t) := by
  unfold Machine.compactSlot; dsimp only; split <;> exact h

/-- FREEZE sets a frozen mark and no more (R128). -/
theorem freezeSpace (n space : Nat) (h : SpacesRise s t) : SpacesRise s (freezeSpace n space t) :=
  h.trans (spacesRise_modSpace (f := fun r => { r with frozen := true }) t fun _ _ => ⟨Nat.le_refl _, fun _ => rfl⟩)

/-- A SET_POLICY that names a lower policy is refused DOWNGRADE, so one that passes its checks lowers none (R126,
R134(4)). -/
theorem setPolicy (n : Nat) {space policy pin : Nat} (hpass : firstRefusal (setPolicyChecks space policy pin t) = none)
    (h : SpacesRise s t) : SpacesRise s (setPolicy n space policy pin t) := by
  refine h.trans (spacesRise_modSpace t fun r hr => ⟨?_, id⟩)
  have hnot : isDowngrade (policyOf policy) (spaceAt space t).policy = false :=
    failIf_eq_none.mp (firstRefusal_eq_none.mp hpass (failIf _ .downgrade) (by simp [setPolicyChecks]))
  cases hnamed : policyOf policy with
  | none => exact Nat.le_refl _
  | some named =>
    rw [hnamed, spaceAt, hr] at hnot
    simpa [isDowngrade, Policy.atMost] using hnot

theorem setQuota (n space quota : Nat) (h : SpacesRise s t) : SpacesRise s (setQuota n space quota t) :=
  h.trans (spacesRise_modSpace (f := fun r => { r with quota := if quota = 0 then none else some quota }) t
    fun _ _ => ⟨Nat.le_refl _, id⟩)

/-- The clear of a space empties it and keeps its policy and frozen mark (R138). -/
theorem clearSpace (n space : Nat) (h : SpacesRise s t) : SpacesRise s (clearSpace n space t) := by
  have hremoved : SpacesRise s (removeSpace space t) :=
    foldl_keeps (fun _ k => (spacesRise_placing s).keeps_changeEntry k none) _ h
  exact hremoved.trans (spacesRise_modSpace (f := fun r => { r with clearSeq := nextSeqOf t, usage := 0, keyCount := 0 })
    _ fun _ _ => ⟨Nat.le_refl _, id⟩)

/-- The beginning of a FORMAT leaves the Space Table to its last act (R170, R140). -/
theorem formatBegins (n : Nat) (h : SpacesRise s t) : SpacesRise s (formatBegins n t) := by
  have hP := spacesRise_placing s
  refine hP.keeps_withdrawPatrol (hP.keeps_abandonEvacuation (hP.keeps_commitCause .host ?_))
  exact h

/-- No request that the engine takes lowers a policy or clears a frozen mark (R181). -/
theorem taking {c : Instr} (hc : isTaking c = true) (e : exec c s = .next t) : SpacesRise s t := by
  have hP := spacesRise_placing s
  have hs := SpacesRise.refl s
  have htaken (step : State → State) (hexec : exec c s = .next (whileRunning step s))
      (hstep : SpacesRise s (step s)) : SpacesRise s t := by
    rw [hexec] at e; exact next_of (Whole.keeps_whileRunning (fun _ => hstep) hs) e
  cases c <;> cases hc
  case put =>
    refine htaken putStep rfl ?_
    unfold putStep
    split
    exacts [hs.afterChecks _ (fun _ => hP.keeps_storeFor _ _ _), hs]
  case delete =>
    refine htaken deleteStep rfl ?_
    unfold deleteStep
    split
    exacts [hs.afterChecks _ (fun _ => deleteKey _ _), hs]
  case get =>
    refine htaken getStep rfl ?_
    unfold getStep
    split
    exacts [hs.afterChecks _ (fun _ => getKey _ _), hs]
  case list =>
    refine htaken listStep rfl ?_
    unfold listStep
    split
    exacts [hs.afterChecks _ (fun _ => hP.keeps_answer _ _ _), hs]
  case sync =>
    refine htaken syncStep rfl ?_
    unfold syncStep
    split
    exacts [hs.afterChecks _ (fun _ => syncSlot _), hs]
  case compact =>
    refine htaken compactStep rfl ?_
    unfold compactStep
    split
    exacts [hs.afterChecks _ (fun _ => compactSlot _ _), hs]
  case segmentInfo =>
    refine htaken segmentInfoStep rfl ?_
    unfold segmentInfoStep
    split
    exacts [hs.afterChecks _ (fun _ => hP.keeps_answer _ _ _), hs]
  case spaceInfo =>
    refine htaken spaceInfoStep rfl ?_
    unfold spaceInfoStep
    split
    exacts [hs.afterChecks _ (fun _ => hP.keeps_answer _ _ _), hs]
  case setParam =>
    refine htaken setParamStep rfl ?_
    unfold setParamStep
    split
    exacts [hs.afterChecks _ (fun _ => setParam _ _ _), hs]
  case freeze =>
    refine htaken freezeStep rfl ?_
    unfold freezeStep
    split
    exacts [hs.afterChecks _ (fun _ => freezeSpace _ _), hs]
  case setPolicy =>
    refine htaken setPolicyStep rfl ?_
    unfold setPolicyStep
    split
    exacts [hs.afterChecks _ (setPolicy _), hs]
  case setQuota =>
    refine htaken setQuotaStep rfl ?_
    unfold setQuotaStep
    split
    exacts [hs.afterChecks _ (fun _ => setQuota _ _ _), hs]
  case clearSpace =>
    refine htaken clearSpaceStep rfl ?_
    unfold clearSpaceStep
    split
    exacts [hs.afterChecks _ (fun _ => clearSpace _ _), hs]
  case format =>
    refine htaken formatStep rfl ?_
    unfold formatStep
    split
    exacts [hs.afterChecks _ (fun _ => formatBegins _), hs]

/-! ## Array operations that end -/

/-- With no FORMAT in progress, a catalogue program that ends does not end one (R149, R150, R171). -/
theorem writerProgrammed (ok : Bool) (ht : Settled t) (h : SpacesRise s t) : SpacesRise s (writerProgrammed ok t) := by
  have hP := spacesRise_placing s
  unfold Machine.writerProgrammed
  split
  · exact h
  · split
    · split
      · exact hP.keeps_claimSnapshot _ _ (hP.keeps_modCat _ h)
      · exact hP.keeps_countFailure (fun _ => hP.keeps_claimSnapshot _ _) h
    · split
      · have hno : formatAwaitsSnapshot t = false := by rw [formatAwaitsSnapshot, ht.2]
        rw [snapshotCompleted, hno, if_neg Bool.false_ne_true]
        exact foldl_keeps (fun _ w => hP.keeps_releaseWaiter _ w) _ (hP.keeps_modCat _ h)
      · exact hP.keeps_countFailure (fun _ => hP.keeps_writeSnapshot _) h
    · exact h

theorem readEnds (run : ReadRun) (o : ReadOutcome) (ht : Settled t) (h : SpacesRise s t) :
    SpacesRise s (readEnds run o t) := by
  have hP := spacesRise_placing s
  have hjudged := hP.keeps_healthHandles run o (hP.keeps_startOp none h)
  have hsettled := settled_stable.keeps_healthHandles run o (settled_stable.keeps_startOp none ht)
  refine (hP.keeps_suspendNext 2 ?_).settleAfterOp
  unfold readOriginator
  split
  · split
    · exact hP.keeps_answerGet _ _ hjudged
    · exact hjudged
  · rw [startupReadEnded_of_settled hsettled]; exact hjudged
  · exact hP.keeps_engineRead _ _ _ hjudged
  all_goals exact hjudged

theorem programEnds (o : Originator) (g p : Nat) (d : PageData) (ok : Bool) (ht : Settled t) (h : SpacesRise s t) :
    SpacesRise s (programEnds o g p d ok t) := by
  have hP := spacesRise_placing s
  have hprogrammed : SpacesRise s (setPage g p d (programQuality ok) (startOp none t)) := h
  have hsettled : Settled (setPage g p d (programQuality ok) (startOp none t)) := ht
  refine SpacesRise.settleAfterOp ?_
  unfold programOriginator
  split
  · split
    · exact hP.keeps_pageProgrammed _ hprogrammed
    · exact hP.keeps_pageFailed _ hprogrammed
  · split
    · exact hP.keeps_pageProgrammed _ hprogrammed
    · exact hP.keeps_pageFailed _ hprogrammed
  · exact hP.keeps_engineHeader _ hprogrammed
  · exact hprogrammed.writerProgrammed ok hsettled
  · rw [startupHeader_of_settled hsettled]; exact hprogrammed
  all_goals exact hprogrammed

theorem eraseEnds (e : EraseRun) (ok : Bool) (ht : Settled t) (h : SpacesRise s t) :
    SpacesRise s (eraseEnds e ok t) := by
  have hP := spacesRise_placing s
  have herased : SpacesRise s (eraseLeaves ok e.seg (startOp none t)) := by
    rw [eraseLeaves_frame]; exact h
  have hsettled : Settled (eraseLeaves ok e.seg (startOp none t)) := by
    rw [eraseLeaves_frame]; exact ht
  refine SpacesRise.settleAfterOp ?_
  unfold eraseOriginator
  split
  · exact hP.keeps_engineErased _ herased
  · exact hP.keeps_writerErased _ herased
  · rw [startupErased_of_settled hsettled]; exact herased
  all_goals exact herased

theorem readCompletionStep (report : ReadReport) (ht : Settled t) (h : SpacesRise s t) :
    SpacesRise s (readCompletionStep report t) := by
  unfold Machine.readCompletionStep
  split
  · split
    · exact h.readEnds _ _ ht
    · exact h
  · exact h

theorem programCompletionStep (ok : Bool) (ht : Settled t) (h : SpacesRise s t) :
    SpacesRise s (programCompletionStep ok t) := by
  unfold Machine.programCompletionStep
  split
  · exact h.programEnds _ _ _ _ _ ht
  · exact h

theorem eraseCompletionStep (ok : Bool) (ht : Settled t) (h : SpacesRise s t) :
    SpacesRise s (eraseCompletionStep ok t) := by
  unfold Machine.eraseCompletionStep
  split
  · exact h.eraseEnds _ _ ht
  · exact h

theorem timeoutStep (ht : Settled t) (h : SpacesRise s t) : SpacesRise s (timeoutStep t) := by
  unfold Machine.timeoutStep
  split
  · exact h.readEnds _ _ ht
  · exact h.programEnds _ _ _ _ _ ht
  · exact h.eraseEnds _ _ ht
  · exact h

theorem suspendTimeoutStep (ht : Settled t) (h : SpacesRise s t) : SpacesRise s (suspendTimeoutStep t) := by
  unfold Machine.suspendTimeoutStep
  split
  · split
    · exact h.eraseEnds _ _ ht
    · exact h
  · exact h

theorem eraseSuspendedStep (h : SpacesRise s t) : SpacesRise s (eraseSuspendedStep t) := by
  unfold Machine.eraseSuspendedStep
  split
  · split
    · refine ((spacesRise_placing s).keeps_suspendNext 2 ?_).settle
      exact h
    · exact h
  · exact h

/-! ## PFW, the timers and the part's own steps -/

theorem pfwAssertedStep (h : SpacesRise s t) : SpacesRise s (pfwAssertedStep t) := by
  have hP := spacesRise_placing s
  unfold Machine.pfwAssertedStep
  split
  · exact h
  · split
    · exact h
    · refine (hP.keeps_withdrawPatrol (hP.keeps_withdrawEngineWork (hP.keeps_commitCause .host ?_))).settle
      exact h

theorem pfwDeassertedStep (h : SpacesRise s t) : SpacesRise s (pfwDeassertedStep t) := by
  unfold Machine.pfwDeassertedStep
  split
  · split
    · exact h
    · exact settle (t := setPfw false t) h
  · exact h

theorem commitWindowStep (h : SpacesRise s t) : SpacesRise s (commitWindowStep t) := by
  unfold Machine.commitWindowStep
  split
  · refine ((spacesRise_placing s).keeps_commitCause .host ?_).settle
    exact h
  · exact h

theorem patrolStep (h : SpacesRise s t) : SpacesRise s (patrolStep t) := by
  have hclaim : SpacesRise s (patrolClaim t) := by unfold patrolClaim; split <;> exact h
  unfold Machine.patrolStep
  split
  · exact hclaim.settle
  · exact h

theorem resumeCopying (x : Handled) (h : SpacesRise s x.state) : SpacesRise s (resumeCopying x t) := by
  cases x with
  | done u => exact (spacesRise_placing s).keeps_copyLoop _ h
  | waits u => exact h
  | stopped u => exact h

theorem waitingPlacedStep (id : StreamId) (h : SpacesRise s t) : SpacesRise s (waitingPlacedStep id t) := by
  have hP := spacesRise_placing s
  unfold Machine.waitingPlacedStep
  split
  · exact h
  · split
    · refine SpacesRise.settle ?_
      unfold placeWaiting
      split
      · exact hP.keeps_storeFor _ _ _ (hP.keeps_modStream _ _ h)
      · exact resumeCopying _ (hP.keeps_handCopy _ _ (hP.keeps_modStream _ _ h))
    · exact h

theorem heldProceedsStep (h : SpacesRise s t) : SpacesRise s (heldProceedsStep t) := by
  have hP := spacesRise_placing s
  unfold Machine.heldProceedsStep
  split
  · exact h
  · split
    · exact h
    · split
      · refine SpacesRise.settle ?_
        unfold proceed
        split
        · exact hP.keeps_storeFor _ _ _ h
        · exact hP.keeps_storeFor _ _ _ h
        · exact h
      · exact h

theorem evacuationEndStep (h : SpacesRise s t) : SpacesRise s (evacuationEndStep t) := by
  unfold Machine.evacuationEndStep
  split
  · exact h
  · split
    · exact ((spacesRise_placing s).keeps_decideFate _ h).settle
    · exact h

end SpacesRise

/-! ## The obligation -/

/-- Settles O56, by the command: with neither mount nor FORMAT in progress only FREEZE and a SET_POLICY that is no
downgrade touch a policy or a frozen mark. -/
theorem policiesAndFrozenMarksNeverFall : Obligations.PoliciesAndFrozenMarksNeverFall := by
  intro c s t hsettled hreset e
  have hs := SpacesRise.refl s
  have running {f : State → State} (hf : SpacesRise s (f s)) : SpacesRise s (whileRunning f s) :=
    Whole.keeps_whileRunning (fun _ => hf) hs
  cases c
  case powerOn | powerLoss | rstAsserted | rstDeasserted => cases hreset
  case put | delete | get | list | sync | compact | segmentInfo | spaceInfo | setParam | freeze | setPolicy | setQuota |
    clearSpace | format => exact SpacesRise.taking rfl e
  case frameReceived | identify | status | cancel | reset => exact next_of (hs.receive _) e
  case lengthError | frameCheckFailed | receiverTimeout =>
    exact next_of (running (Whole.keeps_insideFrame (P := SpacesRise s) (fun h => h) hs)) e
  case wpChanged b => exact next_of (a := { s with wp := b }) hs e
  case frameStartMarker => exact next_of (running hs) e
  case pfwAsserted => exact next_of hs.pfwAssertedStep e
  case pfwDeasserted => exact next_of hs.pfwDeassertedStep e
  case resetReplyBuilt => exact next_of (running hs.resetReplyStep) e
  case formatEmptying =>
    exact next_of (running (by rw [formatEmptyingStep_of_settled hsettled]; exact hs)) e
  case frameSent => exact next_of (running hs.frameSentStep) e
  case commitWindowExpiry => exact next_of (running hs.commitWindowStep) e
  case patrolTimerExpiry => exact next_of (running hs.patrolStep) e
  case arrayOperationTimeout => exact next_of (running (hs.timeoutStep hsettled)) e
  case eraseSuspendTimeout => exact next_of (running (hs.suspendTimeoutStep hsettled)) e
  case readCompletion report => exact next_of (running (hs.readCompletionStep report hsettled)) e
  case programCompletion ok => exact next_of (running (hs.programCompletionStep ok hsettled)) e
  case eraseCompletion ok => exact next_of (running (hs.eraseCompletionStep ok hsettled)) e
  case eraseSuspended => exact next_of (running hs.eraseSuspendedStep) e
  case waitingEntryPlaced id => exact next_of (running (hs.waitingPlacedStep id)) e
  case heldRequestProceeds => exact next_of (running hs.heldProceedsStep) e
  case evacuationEnd => exact next_of (running hs.evacuationEndStep) e

end Sys2Proof.Machine


/-! # The newest snapshot found at mount, and a snapshot that is begun (R140 to R143, R147, R148, R153, R160) -/

namespace Sys2Proof.Machine

/-! ## What a mirror page shows (R143, R153(4)) -/

theorem ascending_iff (l : List Nat) : ascending l = true ↔ l.Pairwise (· < ·) := by
  rw [← List.isChain_iff_pairwise]
  induction l with
  | nil => simp [ascending]
  | cons a l ih =>
    cases l with
    | nil => simp [ascending]
    | cons b l => rw [ascending, Bool.and_eq_true, ih, decide_eq_true_iff, List.isChain_cons_cons]

theorem Snapshot.wellFormed_iff (n : Snapshot) : Snapshot.wellFormed n = true ↔
    1 ≤ n.gen ∧ n.retired.Pairwise (· < ·) ∧ n.retired.length ≤ 96 ∧ ∀ g ∈ n.retired, 2 ≤ g ∧ g < 1024 := by
  simp only [Snapshot.wellFormed, Bool.and_eq_true, List.all_eq_true, decide_eq_true_iff, ascending_iff, and_assoc]
  rfl

theorem validSnapshot_written_iff (w : Written) (n : Snapshot) : validSnapshot (.written w) = some n ↔
    w.ownCheck = true ∧ w.data = some (.snapshot n) ∧ Snapshot.wellFormed n = true := by
  unfold validSnapshot
  dsimp only
  split
  · next hcheck =>
    split
    · next x hdata =>
      cases hx : Snapshot.wellFormed x with
      | true => simpa [hcheck, hdata, hx] using fun e : x = n => e ▸ hx
      | false => simpa [hcheck, hdata, hx] using fun e : x = n => e ▸ hx
    · next hother => simpa [hcheck] using fun hdata => absurd hdata (hother n)
  · next hcheck => simp [hcheck]

theorem mirrorHeaderCount_written_iff (w : Written) (n : Nat) : mirrorHeaderCount (.written w) = some n ↔
    w.ownCheck = true ∧ ∃ k chk, w.data = some (.mirrorHeader k n chk) := by
  unfold mirrorHeaderCount
  dsimp only
  split
  · next hcheck =>
    split
    · next k x chk hdata => simp [hcheck, hdata, eq_comm]
    · next hother => simpa [hcheck] using fun k chk hdata => hother k n chk hdata
  · next hcheck => simp [hcheck]

/-- A header that cannot be read gives no erase count, nor does a blank page (R153(4)). -/
theorem mirrorHeaderCount_unreadable {o : ReadOutcome}
    (h : ∀ w k n chk, o = .written w → w.ownCheck = true → w.data ≠ some (.mirrorHeader k n chk)) :
    mirrorHeaderCount o = none := by
  cases o with
  | blank => rfl
  | written w =>
    refine Option.eq_none_iff_forall_ne_some.mpr fun n hn => ?_
    obtain ⟨hcheck, k, chk, hdata⟩ := (mirrorHeaderCount_written_iff w n).mp hn
    exact h w k n chk rfl hcheck hdata

theorem MirrorScan.take_header (t : Nat) (o : ReadOutcome) (m : MirrorScan) :
    m.take t 0 o = { m with eraseCount := mirrorHeaderCount o } := if_pos rfl

theorem MirrorScan.take_page {page : Nat} (h : page ≠ 0) (t : Nat) (o : ReadOutcome) (m : MirrorScan) :
    m.take t page o = { m with
      top := if o = .blank then m.top else page
      found := match validSnapshot o with
        | some n => ⟨n, o.marginal t⟩ :: m.found
        | none => m.found } := if_neg h

theorem MirrorScan.take_found_valid {page : Nat} (h : page ≠ 0) (t : Nat) {w : Written} {n : Snapshot} (m : MirrorScan)
    (hvalid : validSnapshot (.written w) = some n) :
    (m.take t page (.written w)).found = ⟨n, w.hasMarginal t⟩ :: m.found := by
  rw [take_page h, hvalid]; rfl

theorem MirrorScan.take_found_invalid {page : Nat} (h : page ≠ 0) (t : Nat) {o : ReadOutcome} (m : MirrorScan)
    (hinvalid : ∀ w n, o = .written w → validSnapshot (.written w) ≠ some n) : (m.take t page o).found = m.found := by
  have hnone : validSnapshot o = none := by
    cases o with
    | blank => rfl
    | written w => exact Option.eq_none_iff_forall_ne_some.mpr fun n => hinvalid w n rfl
  rw [take_page h, hnone]

/-! ## The pages of the two mirrors in order (R160) -/

/-- The state with a mount progress. -/
def State.withMount (s : State) (m : Mount) : State := { s with startup := { s.startup with mount := some m } }

/-- The mount progress with the scan of a mirror. -/
def Mount.withScan (m : Mount) (which : Mirror) (x : MirrorScan) : Mount :=
  match which with
  | .a => { m with scanA := x }
  | .b => { m with scanB := x }

theorem modMount_of_mount {s : State} {m : Mount} (h : s.startup.mount = some m) (f : Mount → Mount) :
    modMount f s = s.withMount (f m) := by
  simp [modMount, State.withMount, h]

/-- A page read in the catalogue phase is kept in the scan of its mirror, and the phase goes on (R160). -/
theorem startupReadEnded_catalogue {s : State} {m : Mount} (hm : s.startup.mount = some m) (hphase : m.phase = .catalogue)
    (which : Mirror) (page : Nat) (o : ReadOutcome) : startupReadEnded (Mirror.seg which) page o s =
      catalogueNext (Mirror.seg which) page o
        (s.withMount (m.withScan which ((m.scanOf which).take s.params.threshold page o))) := by
  have hread : startupReadEnded (Mirror.seg which) page o s = mountRead (Mirror.seg which) page o m s := by
    simp only [startupReadEnded, hm]
  rw [hread, mountRead, hphase]
  dsimp only
  rw [takeMirrorPage, modMount_of_mount hm]
  cases which <;> rfl

theorem catalogueNext_page {page : Nat} {o : ReadOutcome} (h : page = 0 ∨ (o ≠ .blank ∧ page < 47)) (seg : Nat)
    (s : State) (m : Mount) : catalogueNext seg page o (s.withMount m) =
      makeClaim .catalogue .startup (.read seg (page + 1)) (s.withMount { m with seg := seg, page := page + 1 }) :=
  if_pos h

theorem catalogueNext_mirror {page : Nat} {o : ReadOutcome} (hpage : page ≠ 0) (h : o = .blank ∨ 47 ≤ page)
    (which : Mirror) (s : State) (m : Mount) : catalogueNext (Mirror.seg which) page o (s.withMount m) =
      match which with
      | .a => makeClaim .catalogue .startup (.read 1 0) (s.withMount { m with seg := 1, page := 0 })
      | .b => catalogueRead (s.withMount m) := by
  have hend : ¬ (page = 0 ∨ (o ≠ .blank ∧ page < Config.lastPage)) := by
    rintro (hzero | ⟨hwritten, hlt⟩)
    · exact hpage hzero
    · exact h.elim hwritten (fun hle => absurd hlt (Nat.not_lt.mpr hle))
  rw [catalogueNext, if_neg hend]
  cases which <;> rfl

/-! ## The newest valid snapshot (R153, R160(1)) -/

theorem highestOf_eq_some {l : List Nat} {n : Nat} (hmem : n ∈ l) (hle : ∀ m ∈ l, m ≤ n) : highestOf l = some n := by
  induction l with
  | nil => cases hmem
  | cons a l ih =>
    have ha : a ≤ n := hle a List.mem_cons_self
    have hrest : ∀ m ∈ l, m ≤ n := fun m hm => hle m (List.mem_cons_of_mem a hm)
    unfold highestOf
    split
    · next hnone =>
      rcases List.mem_cons.mp hmem with rfl | hn
      · rfl
      · rw [ih hn hrest] at hnone; cases hnone
    · next b hb =>
      by_cases hn : n ∈ l
      · rw [ih hn hrest] at hb
        cases hb
        rw [Nat.max_eq_right ha]
      · obtain rfl : n = a := (List.mem_cons.mp hmem).resolve_right hn
        have hbn : ¬ n < b := fun hlt => by
          obtain ⟨x, hx, hnx⟩ := lt_highestOf_iff.mp (by rw [hb]; exact hlt : n < (highestOf l).getD 0)
          exact absurd (hrest x hx) (Nat.not_le.mpr hnx)
        rw [Nat.max_eq_left (Nat.le_of_not_lt hbn)]

theorem Mount.mem_found (m : Mount) (which : Mirror) {f : FoundSnapshot} (h : f ∈ (m.scanOf which).found) :
    f ∈ m.scanA.found ++ m.scanB.found := by
  cases which
  · exact List.mem_append_left _ h
  · exact List.mem_append_right _ h

theorem newestGen_eq {m : Mount} {f : FoundSnapshot} (hmem : f ∈ m.scanA.found ++ m.scanB.found)
    (hle : ∀ x ∈ m.scanA.found ++ m.scanB.found, x.snap.gen ≤ f.snap.gen) : newestGen m = some f.snap.gen := by
  refine highestOf_eq_some (List.mem_map_of_mem hmem) fun n hn => ?_
  obtain ⟨x, hx, rfl⟩ := List.mem_map.mp hn
  exact hle x hx

/-- The copy of a generation at the highest page is the first of those found (assumption 28). -/
theorem MirrorScan.copyOf_of_found {x : MirrorScan} {front back : List FoundSnapshot} {copy : FoundSnapshot}
    (h : x.found = front ++ copy :: back) (hfront : ∀ f ∈ front, f.snap.gen ≠ copy.snap.gen) :
    x.copyOf copy.snap.gen = some copy := by
  have hnone : front.find? (fun f => f.snap.gen == copy.snap.gen) = none :=
    List.find?_eq_none.mpr fun f hf => by simpa using hfront f hf
  simp [copyOf, h, hnone]

theorem MirrorScan.copyOf_eq_none_iff {x : MirrorScan} {gen : Nat} :
    x.copyOf gen = none ↔ ∀ f ∈ x.found, f.snap.gen ≠ gen := by
  simp [copyOf]

/-- The mirror that holds the newest generation is current; when both do, the one whose highest page is the lower
(R153(2)). -/
theorem currentMirror_eq {m : Mount} {gen : Nat} {which : Mirror} {copy : FoundSnapshot}
    (hcopy : (m.scanOf which).copyOf gen = some copy)
    (h : (m.scanOf (Mirror.other which)).copyOf gen = none ∨ (m.scanOf which).top < (m.scanOf (Mirror.other which)).top) :
    currentMirror gen m = which := by
  cases which with
  | a =>
    simp only [Mount.scanOf, Mirror.other] at hcopy h
    unfold currentMirror
    rw [hcopy]
    cases hb : m.scanB.copyOf gen with
    | none => rfl
    | some c => exact if_pos (h.resolve_left (by simp [hb]))
  | b =>
    simp only [Mount.scanOf, Mirror.other] at hcopy h
    unfold currentMirror
    rw [hcopy]
    cases ha : m.scanA.copyOf gen with
    | none => rfl
    | some c =>
      have htop := h.resolve_left (by simp [ha])
      exact (if_neg (Nat.lt_asymm htop)).trans (if_pos htop)

theorem catalogueRead_unformatted {s : State} {m : Mount} (hm : s.startup.mount = some m) (ha : m.scanA.found = [])
    (hb : m.scanB.found = []) : catalogueRead s = mountUnformatted m s := by
  have hnone : newestGen m = none := by rw [newestGen, ha, hb]; rfl
  simp only [catalogueRead, hm, hnone]

theorem catalogueRead_found {s : State} {m : Mount} {gen : Nat} {copy : FoundSnapshot} (hm : s.startup.mount = some m)
    (hgen : newestGen m = some gen) (hcopy : (m.scanOf (currentMirror gen m)).copyOf gen = some copy) :
    catalogueRead s = scanFrom 2 { s with
      cat := writerFrom m gen copy, spaces := numbered (copy.snap.spaces.map SpaceFields.record) } := by
  simp only [catalogueRead, hm, hgen, hcopy, Config.firstData]

/-! ## A snapshot that is begun (R142, R146 to R148) -/

theorem Store.mem_insertNat {g n : Nat} {l : List Nat} : g ∈ Store.insertNat n l ↔ g = n ∨ g ∈ l := by
  induction l with
  | nil => simp [Store.insertNat]
  | cons m l ih =>
    unfold Store.insertNat
    split
    · simp
    · split
      · next h => subst h; simp
      · rw [List.mem_cons, ih, List.mem_cons]; exact or_left_comm

theorem Catalogue.mem_condemnedWaiters {c : Catalogue} {g : Nat} :
    g ∈ c.condemnedWaiters ↔ WaiterWho.segment g ∈ c.waiters.map Waiter.who := by
  simp only [condemnedWaiters, List.mem_filterMap, List.mem_map]
  refine exists_congr fun w => and_congr_right fun _ => ?_
  cases w.who <;> simp

/-- The retired list and the condemned waiters are what a snapshot retires (R146). -/
theorem Catalogue.mem_unionRetired {c : Catalogue} {g : Nat} :
    g ∈ c.unionRetired ↔ g ∈ c.retired ∨ WaiterWho.segment g ∈ c.waiters.map Waiter.who := by
  have hfold (ns l : List Nat) : g ∈ ns.foldl (fun l n => Store.insertNat n l) l ↔ g ∈ l ∨ g ∈ ns := by
    induction ns generalizing l with
    | nil => simp
    | cons n ns ih => rw [List.foldl_cons, ih, Store.mem_insertNat, List.mem_cons, or_comm (a := g = n), or_assoc]
  rw [unionRetired, hfold, mem_condemnedWaiters]

theorem spaceFields_length (s : State) : (spaceFields s).length = 16 := by simp [spaceFields, Config.spaces]

theorem spaceFields_getElem? {n : Nat} (h : n < 16) (s : State) :
    (spaceFields s)[n]? = some (SpaceRec.fields (spaceAt n s)) := by
  simp [spaceFields, Config.spaces, h]

/-- The state in which the contents of a snapshot have been captured (R147). -/
def captured (forFormat : Bool) (s : State) : State :=
  modCat (fun c => { c with
    begun := (capture forFormat s).gen, dirty := false, formatStamp := (capture forFormat s).stamp }) s

theorem beginSnapshot_begins {s : State} (h : s.cat.begun + 1 < 2 ^ 32) (forFormat : Bool) :
    beginSnapshot forFormat s = writeSnapshot (capture forFormat s) (captured forFormat s) :=
  if_neg (Nat.not_le.mpr h)

theorem writeSnapshot_of_page {s : State} {p : Nat} (h : s.cat.nextPage = some p) (snap : Snapshot) :
    writeSnapshot snap s = claimSnapshot snap p s := by simp only [writeSnapshot, h]

theorem writeSnapshot_of_none {s : State} (h : s.cat.nextPage = none) (snap : Snapshot) :
    writeSnapshot snap s = beginSwitch snap s := by simp only [writeSnapshot, h]

/-- The writing of a snapshot changes the write in flight, the next page and the claims (R147, R148(1)). -/
theorem writeSnapshot_frame (snap : Snapshot) (s : State) : writeSnapshot snap s = { s with
    arr := (writeSnapshot snap s).arr
    cat := { s.cat with write := (writeSnapshot snap s).cat.write, nextPage := (writeSnapshot snap s).cat.nextPage } } := by
  unfold writeSnapshot; split <;> rfl

/-- A snapshot goes to the next page of the current mirror, or the switch to the other mirror begins (R147(a), R148(1)). -/
theorem writeSnapshot_write (snap : Snapshot) (s : State) : ∃ w, (writeSnapshot snap s).cat.write = some w ∧
    w.snap = snap ∧
    (∀ p, s.cat.nextPage = some p → w.step = .program ∧ w.page = p ∧
      (⟨.catalogue, .writer, .program (Mirror.seg s.cat.current) p (.snapshot snap)⟩ : Claim) ∈
        (writeSnapshot snap s).arr.catPlace.toList ++ (writeSnapshot snap s).arr.outside) ∧
    (s.cat.nextPage = none → w.step = .erase ∧
      (⟨.catalogue, .writer, .erase (Mirror.seg (Mirror.other s.cat.current))⟩ : Claim) ∈
        (writeSnapshot snap s).arr.catPlace.toList ++ (writeSnapshot snap s).arr.outside) := by
  cases hpage : s.cat.nextPage with
  | some p =>
    rw [writeSnapshot_of_page hpage]
    refine ⟨⟨snap, p, .program⟩, rfl, rfl, fun q hq => ?_, nofun⟩
    cases hq
    exact ⟨rfl, rfl, ArrayCtl.mem_claim ..⟩
  | none =>
    rw [writeSnapshot_of_none hpage]
    exact ⟨⟨snap, 0, .erase⟩, rfl, rfl, nofun, fun _ => ⟨rfl, ArrayCtl.mem_claim ..⟩⟩

/-! ## The obligation -/

/-- Settles O47: what a mirror page adds to its mirror's scan, what the two scans come to, and what a snapshot that is
begun captures. -/
theorem snapshotCapturesTheSpaces : Obligations.SnapshotCapturesTheSpaces := by
  unfold Obligations.SnapshotCapturesTheSpaces
  refine ⟨?pageRead, fun s m hm => ⟨?noneFound, ?newestFound⟩, ?begun⟩
  case pageRead =>
    intro s m which page o hm hphase
    refine ⟨(m.scanOf which).take s.params.threshold page o, ?_⟩
    have hended := startupReadEnded_catalogue hm hphase which page o
    refine ⟨fun hgo => ?_, fun hpage hstop => ⟨?_, ?_⟩, ?_, fun hpage => ?_⟩
    · exact hended.trans ((catalogueNext_page hgo ..).trans (by cases which <;> rfl))
    · rintro rfl
      exact hended.trans (catalogueNext_mirror hpage hstop ..)
    · rintro rfl
      exact hended.trans (catalogueNext_mirror hpage hstop ..)
    · rintro rfl
      rw [MirrorScan.take_header]
      refine ⟨rfl, rfl, ?_, mirrorHeaderCount_unreadable⟩
      rintro w k n chk rfl hcheck hdata
      exact (mirrorHeaderCount_written_iff w n).mpr ⟨hcheck, k, chk, hdata⟩
    · refine ⟨by rw [MirrorScan.take_page hpage], by rw [MirrorScan.take_page hpage], ?_, fun hinvalid => ?_⟩
      · rintro w n rfl ⟨hcheck, hdata, hformed⟩
        exact MirrorScan.take_found_valid hpage _ _
          ((validSnapshot_written_iff w n).mpr ⟨hcheck, hdata, (Snapshot.wellFormed_iff n).mpr hformed⟩)
      · refine MirrorScan.take_found_invalid hpage _ _ fun w n ho hvalid => hinvalid w n ho ?_
        obtain ⟨hcheck, hdata, hformed⟩ := (validSnapshot_written_iff w n).mp hvalid
        exact ⟨hcheck, hdata, (Snapshot.wellFormed_iff n).mp hformed⟩
  case noneFound => exact catalogueRead_unformatted hm
  case newestFound =>
    intro which front copy back hfound hfront hnewest hother
    have hmem : copy ∈ (m.scanOf which).found := by rw [hfound]; simp
    have hcopy := MirrorScan.copyOf_of_found hfound hfront
    have hcurrent : currentMirror copy.snap.gen m = which :=
      currentMirror_eq hcopy (hother.imp_left MirrorScan.copyOf_eq_none_iff.mpr)
    have hread := catalogueRead_found hm (newestGen_eq (m.mem_found which hmem) hnewest) (by rw [hcurrent]; exact hcopy)
    rw [hread, writerFrom, hcurrent]
    rfl
  case begun =>
    intro s hgen u
    have hu : u = writeSnapshot (capture false s) (captured false s) := beginSnapshot_begins hgen false
    obtain ⟨w, hwrite, hsnap, hplace⟩ := writeSnapshot_write (capture false s) (captured false s)
    have hframe := writeSnapshot_frame (capture false s) (captured false s)
    rw [hu]
    refine ⟨by rw [hframe]; rfl, by rw [hframe]; rfl, by rw [hframe]; rfl, by rw [hframe]; rfl, w, hwrite, ?_⟩
    rw [hsnap]
    exact ⟨rfl, rfl, spaceFields_length s, fun n hn => spaceFields_getElem? hn s, fun g => Catalogue.mem_unionRetired,
      hplace⟩

end Sys2Proof.Machine


/-! # The catalogue fails (R151, R156, R171) -/

namespace Sys2Proof.Machine

/-! ## The waiters of a catalogue that fails -/

theorem faultWaiters_of_format {s : State} (h : s.startup.format.isSome = true) (ws : List Waiter) :
    ws.foldl faultWaiter s = s := by
  have hw (w : Waiter) : faultWaiter s w = s := by
    unfold faultWaiter
    split
    · exact if_pos h
    · rfl
  induction ws with
  | nil => rfl
  | cons w ws ih => rw [List.foldl_cons, hw, ih]

theorem faultWaiter_frame (s : State) (w : Waiter) : faultWaiter s w = { s with
    link := { s.link with slots := (faultWaiter s w).link.slots }, engine := (faultWaiter s w).engine } := by
  unfold faultWaiter
  split
  · split <;> rfl
  · rfl

theorem faultWaiters_frame (ws : List Waiter) (s : State) : ws.foldl faultWaiter s = { s with
    link := { s.link with slots := (ws.foldl faultWaiter s).link.slots }
    engine := (ws.foldl faultWaiter s).engine } := by
  induction ws generalizing s with
  | nil => rfl
  | cons w ws ih => rw [List.foldl_cons, ih, faultWaiter_frame]

/-- A table entry that each waiter of a kind changes alike is changed once by a list of them. -/
theorem read_foldl_waiters {α : Type} {P : State → Prop} {step : State → Waiter → State} {read : State → Option α}
    {change : α → α} {who : WaiterWho} (htwice : change ∘ change = change) (hP : ∀ t w, P t → P (step t w))
    (hstep : ∀ t w, P t → read (step t w) = if who = w.who then (read t).map change else read t)
    (ws : List Waiter) {s : State} (hs : P s) :
    read (ws.foldl step s) = if who ∈ ws.map Waiter.who then (read s).map change else read s := by
  induction ws generalizing s with
  | nil => rfl
  | cons w ws ih =>
    rw [List.foldl_cons, ih (hP s w hs), hstep s w hs]
    by_cases hhead : who = w.who <;> by_cases htail : who ∈ ws.map Waiter.who <;> simp [hhead, htail, htwice]

/-- Outside a FORMAT every slot among the waiters is answered MEDIA_FAULT, and no other (R151). -/
theorem slotAt_faultWaiters {s : State} (h : s.startup.format = none) (n : Nat) (ws : List Waiter) :
    slotAt n (ws.foldl faultWaiter s) =
      if WaiterWho.slot n ∈ ws.map Waiter.who then (slotAt n s).map (Slot.answered .mediaFault .none)
      else slotAt n s := by
  refine read_foldl_waiters (P := fun t => t.startup.format = none) rfl (fun t w ht => ?_) (fun t w ht => ?_) ws h
  · rw [faultWaiter_frame]; exact ht
  · unfold faultWaiter
    split
    · next m hm => rw [ht, hm]; simpa using slotAt_answer n m .mediaFault .none t
    · next g hg => rw [hg]; rfl

theorem canonical_faultWaiters {s : State} (hs : Store.Canonical s.link.slots) (ws : List Waiter) :
    Store.Canonical (ws.foldl faultWaiter s).link.slots := by
  refine foldl_keeps (P := fun t : State => Store.Canonical t.link.slots) (fun t w ht => ?_) ws hs
  unfold faultWaiter
  split
  · split
    · exact ht
    · exact slotsCanonical_stable.keeps_answer _ _ _ ht
  · exact ht

/-! ## The writer that has failed -/

/-- The state in which the writer has failed and its waiters are answered, before the cause is reported (R151). -/
def writerFailed (s : State) : State :=
  modCat (fun c => { c with failed := true, write := none, waiters := [], formatStamp := c.completedStamp })
    (s.cat.waiters.foldl faultWaiter s)

theorem catalogueFails_eq (s : State) : catalogueFails s = reportEnding .catalogueFailed (writerFailed s) := rfl

theorem writerFailed_frame (s : State) : writerFailed s = { s with
    cat := { s.cat with failed := true, write := none, waiters := [], formatStamp := s.cat.completedStamp }
    link := { s.link with slots := (writerFailed s).link.slots }
    engine := (writerFailed s).engine } := by
  unfold writerFailed
  rw [faultWaiters_frame]
  rfl

/-- What a failed catalogue leaves unchanged, and what its writer is (R151). -/
theorem catalogueFails_frame (s : State) :
    (catalogueFails s).cat = { s.cat with
      failed := true, write := none, waiters := [], formatStamp := s.cat.completedStamp } ∧
    (catalogueFails s).spaces = s.spaces ∧ (catalogueFails s).index = s.index ∧ (catalogueFails s).flash = s.flash := by
  rw [catalogueFails_eq, (reportEnding_touches .catalogueFailed (writerFailed s)).frame, writerFailed_frame]
  exact ⟨rfl, rfl, rfl, rfl⟩

theorem reportEnding_uninvolved {h : Nat} {s : State} (c : Cause) (hs : Uninvolved h s) :
    segAt h (reportEnding c s) = segAt h s ∧ Uninvolved h (reportEnding c s) := by
  cases hx : s.startup.format with
  | none => rw [reportEnding_of_no_format hx]; exact reportCause_uninvolved c hs
  | some x =>
    have hframe : formatDropped x s = { s with
        startup := (formatDropped x s).startup
        link := { s.link with slots := (formatDropped x s).link.slots }, engine := (formatDropped x s).engine } := by
      unfold formatDropped; rw [answerOpt_frame]
    have hdropped : Uninvolved h (formatDropped x s) := by rw [hframe]; exact ⟨hs.openSeg, hs.victim⟩
    obtain ⟨hseg, hrest⟩ := enterReadOnly_uninvolved c hdropped
    rw [reportEnding_of_format hx]
    exact ⟨hseg.trans (by rw [hframe]; rfl), hrest⟩

/-- Condemned segments stay CONDEMNED, as every segment that is neither the victim nor open for copies (R151). -/
theorem segAt_catalogueFails {g : Nat} {s : State} (h : Uninvolved g s) : segAt g (catalogueFails s) = segAt g s := by
  have hfailed : Uninvolved g (writerFailed s) := by rw [writerFailed_frame]; exact ⟨h.openSeg, h.victim⟩
  rw [catalogueFails_eq, (reportEnding_uninvolved _ hfailed).1, writerFailed_frame]
  rfl

/-- A cause that is reported in READY or ends a FORMAT makes the part READ_ONLY with no FORMAT (R156, R171). -/
theorem reportEnding_startup {s : State} (h : s.startup.mode = .ready ∨ s.startup.format.isSome) (c : Cause) :
    (reportEnding c s).startup.mode = .readOnly ∧ (reportEnding c s).startup.cause = some c ∧
      (reportEnding c s).startup.format = none := by
  cases hx : s.startup.format with
  | none =>
    have hmode : s.startup.mode = .ready := h.resolve_right (by simp [hx])
    have hreport : reportEnding c s = enterReadOnly c s := by
      rw [reportEnding_of_no_format hx, reportCause, hmode]
    rw [hreport, enterReadOnly_startup]
    exact ⟨rfl, rfl, hx⟩
  | some x =>
    rw [reportEnding_of_format hx, enterReadOnly_startup]
    exact ⟨rfl, rfl, rfl⟩

/-- No other request than the held one, the waiting entry's and the COMPACTs is answered at an entry into READ_ONLY. -/
theorem slotAt_enterReadOnly_other {n : Nat} {sl : Slot} {s : State} (c : Cause) (hs : Store.Canonical s.link.slots)
    (hsl : slotAt n s = some sl) (hcompacts : ∀ x ∈ s.comp.compacts, x.slot ≠ n)
    (hwaiting : ∀ k v, s.host.waiting ≠ some (.host n k v)) (hheld : sl.state ≠ .held) :
    slotAt n (enterReadOnly c s) = some sl :=
  slotAt_readOnlyEffects_other (s := changeMode .readOnly (some c) s) hs hsl
    (fun hmem => by obtain ⟨x, hx, e⟩ := List.mem_map.mp hmem; exact hcompacts x hx e) hwaiting hheld

section
variable {n : Nat} {sl : Slot} {s : State}

/-- Outside a FORMAT a slot among the waiters is answered MEDIA_FAULT (R151). -/
theorem slotAt_catalogueFails_waiter (hs : Store.Canonical s.link.slots) (hsl : slotAt n s = some sl)
    (hcompacts : ∀ c ∈ s.comp.compacts, c.slot ≠ n) (hwaiting : ∀ k v, s.host.waiting ≠ some (.host n k v))
    (hformat : s.startup.format = none) {x : Waiter} (hx : x ∈ s.cat.waiters) (hwho : x.who = .slot n) :
    slotAt n (catalogueFails s) = some (Slot.answered .mediaFault .none sl) := by
  have hmem : WaiterWho.slot n ∈ s.cat.waiters.map Waiter.who := hwho ▸ List.mem_map_of_mem hx
  have hanswered : slotAt n (writerFailed s) = some (Slot.answered .mediaFault .none sl) := by
    refine (slotAt_faultWaiters hformat n s.cat.waiters).trans ?_
    rw [if_pos hmem, hsl]; rfl
  have hcanonical : Store.Canonical (writerFailed s).link.slots := canonical_faultWaiters hs s.cat.waiters
  refine slotAt_reportEnding hcanonical ⟨hanswered, nofun, ?_, ?_, ?_⟩ _
  · rw [writerFailed_frame, List.mem_map]
    rintro ⟨c, hc, e⟩
    exact hcompacts c hc e
  · rw [writerFailed_frame]; exact hwaiting
  · rw [writerFailed_frame]; intro f hf; rw [hformat] at hf; cases hf

/-- A FORMAT's own slot is answered MEDIA_FAULT (R151, R171). -/
theorem slotAt_catalogueFails_format (hs : Store.Canonical s.link.slots) (hsl : slotAt n s = some sl)
    (hcompacts : ∀ c ∈ s.comp.compacts, c.slot ≠ n) (hwaiting : ∀ k v, s.host.waiting ≠ some (.host n k v))
    {f : Format} (hformat : s.startup.format = some f) (hslot : f.slot = some n) :
    slotAt n (catalogueFails s) = some (Slot.answered .mediaFault .none sl) := by
  have hsame : s.cat.waiters.foldl faultWaiter s = s := faultWaiters_of_format (by rw [hformat]; rfl) _
  have hfailed : (writerFailed s).startup.format = some f := by rw [writerFailed_frame]; exact hformat
  have hdropped : formatDropped f (writerFailed s) = { answer n .mediaFault .none (writerFailed s) with
      startup := { s.startup with format := none, pendingCause := none } } := by
    rw [formatDropped, hslot, writerFailed, hsame]; rfl
  rw [catalogueFails_eq, reportEnding_of_format hfailed, hdropped, writerFailed, hsame]
  refine slotAt_enterReadOnly_other .catalogueFailed ?_ ?_ hcompacts hwaiting nofun
  · exact slotsCanonical_stable.keeps_answer _ _ _ hs
  · refine (slotAt_answer n n .mediaFault .none (modCat _ s)).trans ?_
    rw [if_pos rfl]
    exact congrArg (Option.map _) hsl

end

end Sys2Proof.Machine


/-! # Waiters are released (R41, R136(1), R149(3), R171(1), R194) -/

namespace Sys2Proof.Machine

/-- The record of a segment that becomes RETIRED (R41). -/
def SegRec.retired (r : SegRec) : SegRec := { r with state := .retired, openStamp := none, lowestSeq := none }

/-- What a released request is answered: FORMAT with the number of segments retired, a barrier request with the
generation, and a CLEAR_SPACE with its clear sequence too (R136(1), R171(1), R194). -/
def releaseData (gen : Nat) (s : State) (r : Request) : ReplyData :=
  match s.startup.format with
  | some f => .formatted gen f.retiring
  | none => barrierData r gen s

/-- A released slot with its answer. -/
def Slot.released (gen : Nat) (s : State) (sl : Slot) : Slot := Slot.answered .ok (releaseData gen s sl.request) sl

/-- The notice of a released waiter: a segment has become RETIRED (R41). -/
def retiredNotice (s : State) (x : Waiter) : Option Notice :=
  match x.who with
  | .segment g => some (.segmentRetired g ((segAt g s).bind SegRec.cause))
  | .slot _ => none

theorem releaseData_of_format {s : State} {f : Format} (h : s.startup.format = some f) (gen : Nat) (r : Request) :
    releaseData gen s r = .formatted gen f.retiring := by simp only [releaseData, h]

theorem releaseData_of_no_format {s : State} (h : s.startup.format = none) (gen : Nat) (r : Request) :
    releaseData gen s r = barrierData r gen s := by simp only [releaseData, h]

/-! ## One waiter -/

section
variable (gen : Nat) (s : State) {w : Waiter}

theorem releaseWaiter_segment {g : Nat} (h : w.who = .segment g) : releaseWaiter gen s w =
    queueNotice (.segmentRetired g ((segAt g s).bind SegRec.cause)) (modSeg g SegRec.retired s) := by
  simp only [releaseWaiter, h]; rfl

theorem releaseWaiter_slot {n : Nat} (h : w.who = .slot n) : releaseWaiter gen s w =
    match slotAt n s with
    | none => s
    | some sl => answer n .ok (releaseData gen s sl.request) s := by
  simp only [releaseWaiter, h, releaseData]
  cases slotAt n s <;> cases s.startup.format <;> rfl

variable (w)

theorem releaseWaiter_frame : releaseWaiter gen s w = { s with
    segs := (releaseWaiter gen s w).segs
    link := { s.link with
      slots := (releaseWaiter gen s w).link.slots, notices := (releaseWaiter gen s w).link.notices }
    engine := (releaseWaiter gen s w).engine } := by
  cases hw : w.who with
  | segment g => rw [releaseWaiter_segment gen s hw]; rfl
  | slot n => rw [releaseWaiter_slot gen s hw]; cases slotAt n s <;> rfl

theorem segAt_releaseWaiter (g : Nat) : segAt g (releaseWaiter gen s w) =
    if WaiterWho.segment g = w.who then (segAt g s).map SegRec.retired else segAt g s := by
  cases hw : w.who with
  | segment i =>
    rw [releaseWaiter_segment gen s hw]
    simp only [WaiterWho.segment.injEq]
    exact segAt_modSeg g i SegRec.retired s
  | slot n => rw [releaseWaiter_slot gen s hw]; cases slotAt n s <;> rfl

theorem slotAt_releaseWaiter (n : Nat) : slotAt n (releaseWaiter gen s w) =
    if WaiterWho.slot n = w.who then (slotAt n s).map (Slot.released gen s) else slotAt n s := by
  cases hw : w.who with
  | segment i => rw [releaseWaiter_segment gen s hw]; rfl
  | slot m =>
    rw [releaseWaiter_slot gen s hw]
    by_cases hn : n = m
    · subst hn
      rw [if_pos rfl]
      cases hn : slotAt n s with
      | none => exact hn
      | some sl => simp [slotAt_answer, hn, Slot.released]
    · rw [if_neg (fun e => hn (WaiterWho.slot.inj e))]
      cases slotAt m s with
      | none => rfl
      | some sl => exact (slotAt_answer ..).trans (if_neg hn)

theorem notices_releaseWaiter : (releaseWaiter gen s w).link.notices =
    (retiredNotice s w).toList.foldl (fun q x => pushNotice x q) s.link.notices := by
  cases hw : w.who with
  | segment g => rw [releaseWaiter_segment gen s hw, retiredNotice, hw]; rfl
  | slot n => rw [releaseWaiter_slot gen s hw, retiredNotice, hw]; cases slotAt n s <;> rfl

theorem releaseData_releaseWaiter : releaseData gen (releaseWaiter gen s w) = releaseData gen s := by
  rw [releaseWaiter_frame]; rfl

/-- A release changes no condemn cause, and so no notice that comes after it. -/
theorem retiredNotice_releaseWaiter : retiredNotice (releaseWaiter gen s w) = retiredNotice s := by
  have hcause (g : Nat) : (segAt g (releaseWaiter gen s w)).bind SegRec.cause = (segAt g s).bind SegRec.cause := by
    rw [segAt_releaseWaiter]
    split
    · cases segAt g s <;> rfl
    · rfl
  funext x
  unfold retiredNotice
  split
  · next g _ => rw [hcause g]
  · rfl

end

/-! ## A list of waiters -/

section
variable (gen : Nat) (ws : List Waiter) (s : State)

theorem releaseWaiters_frame : ws.foldl (releaseWaiter gen) s = { s with
    segs := (ws.foldl (releaseWaiter gen) s).segs
    link := { s.link with
      slots := (ws.foldl (releaseWaiter gen) s).link.slots, notices := (ws.foldl (releaseWaiter gen) s).link.notices }
    engine := (ws.foldl (releaseWaiter gen) s).engine } := by
  induction ws generalizing s with
  | nil => rfl
  | cons w ws ih => rw [List.foldl_cons, ih, releaseWaiter_frame]

theorem segAt_releaseWaiters (g : Nat) : segAt g (ws.foldl (releaseWaiter gen) s) =
    if WaiterWho.segment g ∈ ws.map Waiter.who then (segAt g s).map SegRec.retired else segAt g s :=
  read_foldl_waiters (P := fun _ => True) rfl (fun _ _ h => h) (fun t w _ => segAt_releaseWaiter gen t w g) ws trivial

theorem slotAt_releaseWaiters (n : Nat) : slotAt n (ws.foldl (releaseWaiter gen) s) =
    if WaiterWho.slot n ∈ ws.map Waiter.who then (slotAt n s).map (Slot.released gen s) else slotAt n s := by
  refine read_foldl_waiters (P := fun t => releaseData gen t = releaseData gen s) rfl (fun t w ht => ?_)
    (fun t w ht => ?_) ws rfl
  · rw [releaseData_releaseWaiter, ht]
  · have hsame : Slot.released gen t = Slot.released gen s := by funext sl; rw [Slot.released, ht]; rfl
    rw [slotAt_releaseWaiter, hsame]

theorem notices_releaseWaiters : (ws.foldl (releaseWaiter gen) s).link.notices =
    (ws.filterMap (retiredNotice s)).foldl (fun q x => pushNotice x q) s.link.notices := by
  induction ws generalizing s with
  | nil => rfl
  | cons w ws ih =>
    rw [List.foldl_cons, ih, retiredNotice_releaseWaiter, notices_releaseWaiter, List.filterMap_cons]
    cases retiredNotice s w <;> rfl

end

end Sys2Proof.Machine


/-! # The writer's programs and erases end (R148 to R150, R152, R171) -/

namespace Sys2Proof.Machine

/-! ## A program or erase of the writer ends (R73, R74, R80) -/

theorem exec_programCompletion_writer {s : State} {g p : Nat} {d : PageData} (hheld : isHeld s = false)
    (hop : s.arr.op = some (.program .writer g p d)) (ok : Bool) : exec (.programCompletion ok) s =
      .next (settleAfterOp (writerProgrammed ok (setPage g p d (programQuality ok) (startOp none s)))) :=
  exec_programCompletion hheld hop ok

theorem exec_eraseCompletion_writer {s : State} {e : EraseRun} (hheld : isHeld s = false)
    (hop : s.arr.op = some (.erase e)) (horigin : e.origin = .writer) (ok : Bool) : exec (.eraseCompletion ok) s =
      .next (settleAfterOp (writerErased ok (eraseLeaves ok e.seg (startOp none s)))) := by
  rw [exec_eraseCompletion hheld hop ok, horigin]; rfl

/-! ## Retry and mirror switch (R148, R150) -/

section
variable {s : State} {w : CatWrite}

theorem countFailure_third (h : 3 ≤ s.cat.failures + 1) (next : State → State) : countFailure next s =
    catalogueFails (modCat (fun c => { c with failures := s.cat.failures + 1 }) s) := if_pos h

theorem countFailure_next (h : s.cat.failures + 1 < 3) (next : State → State) : countFailure next s =
    next (modCat (fun c => { c with failures := s.cat.failures + 1 }) s) := if_neg (Nat.not_le.mpr h)

theorem writerProgrammed_program (hw : s.cat.write = some w) (hstep : w.step = .program) (ok : Bool) :
    writerProgrammed ok s = if ok then snapshotCompleted w s else countFailure (writeSnapshot w.snap) s := by
  simp only [writerProgrammed, hw, hstep]

theorem writerProgrammed_header (hw : s.cat.write = some w) (hstep : w.step = .header) (ok : Bool) :
    writerProgrammed ok s = if ok then claimSnapshot w.snap 1 (modCat (fun c => { c with failures := 0 }) s)
      else countFailure (claimSnapshot w.snap 1) s := by
  simp only [writerProgrammed, hw, hstep]

theorem writerErased_eq (hw : s.cat.write = some w) (ok : Bool) :
    writerErased ok s = if ok then mirrorErased w.snap s else catalogueFails s := by
  simp only [writerErased, hw]

end

/-- The other mirror becomes current with its erase count raised and no generation (R148(2)). -/
theorem mirrorErased_eq (snap : Snapshot) (s : State) {m : Mirror} (hm : m = Mirror.other s.cat.current) :
    mirrorErased snap s =
      let count := min ((s.cat.mirror m).eraseCount + 1) 1000000
      makeClaim .catalogue .writer (.program (Mirror.seg m) 0 (mirrorHeader m count)) { s with
        cat := { s.cat with
          current := m, nextPage := some 1, write := some ⟨snap, 0, .header⟩
          mirrorA := if m = .a then ⟨count, none⟩ else s.cat.mirrorA
          mirrorB := if m = .b then ⟨count, none⟩ else s.cat.mirrorB } } := by
  unfold mirrorErased
  rw [← hm]
  cases m <;> rfl

/-! ## FORMAT ends with its snapshot (R152, R156, R171(2)) -/

/-- The mode that FORMAT leaves: READY, or READ_ONLY with a pending cause. -/
def modeAfterFormat (pending : Option Cause) : Mode :=
  match pending with
  | none => .ready
  | some _ => .readOnly

/-- The state in which FORMAT is over and the mode not yet changed. -/
def formatCleared (s : State) : State :=
  { s with startup := { s.startup with format := none, pendingCause := none } }

theorem endFormat_ready {s : State} (h : s.startup.pendingCause = none) :
    endFormat s = changeMode .ready none (formatCleared s) := by
  simp only [endFormat, h]; rfl

theorem endFormat_readOnly {s : State} {c : Cause} (h : s.startup.pendingCause = some c) :
    endFormat s = enterReadOnly c (formatCleared s) := by
  simp only [endFormat, h]; rfl

theorem endFormat_frame (s : State) : (endFormat s).cat = s.cat ∧
    (endFormat s).startup = { s.startup with
      mode := modeAfterFormat s.startup.pendingCause, cause := s.startup.pendingCause, format := none
      pendingCause := none } ∧
    (endFormat s).link.notices =
      pushNotice (.modeChanged (modeAfterFormat s.startup.pendingCause) s.startup.pendingCause) s.link.notices := by
  cases hc : s.startup.pendingCause with
  | none => rw [endFormat_ready hc]; exact ⟨rfl, rfl, rfl⟩
  | some c =>
    rw [endFormat_readOnly hc, enterReadOnly_startup, enterReadOnly, (readOnlyEffects_touches _).frame]
    exact ⟨rfl, rfl, rfl⟩

theorem segAt_endFormat {g : Nat} {s : State} (h : s.startup.pendingCause = none ∨ Uninvolved g s) :
    segAt g (endFormat s) = segAt g s := by
  cases hc : s.startup.pendingCause with
  | none => rw [endFormat_ready hc]; rfl
  | some c =>
    have hs : Uninvolved g s := h.resolve_left (by simp [hc])
    rw [endFormat_readOnly hc]
    exact (enterReadOnly_uninvolved (s := formatCleared s) c ⟨hs.openSeg, hs.victim⟩).1

theorem slotAt_endFormat {n : Nat} {sl : Slot} {s : State} (hs : Store.Canonical s.link.slots)
    (hsl : slotAt n s = some sl) (hcompacts : ∀ c ∈ s.comp.compacts, c.slot ≠ n)
    (hwaiting : ∀ k v, s.host.waiting ≠ some (.host n k v)) (hheld : sl.state ≠ .held) :
    slotAt n (endFormat s) = some sl := by
  cases hc : s.startup.pendingCause with
  | none => rw [endFormat_ready hc]; exact hsl
  | some c =>
    rw [endFormat_readOnly hc]
    exact slotAt_enterReadOnly_other (s := formatCleared s) c hs hsl hcompacts hwaiting hheld

/-! ## The snapshot completes (R149) -/

/-- The waiters that a completed snapshot releases (R149(3)). -/
def releasedBy (w : CatWrite) (s : State) : List Waiter := s.cat.waiters.filter (fun x => decide (x.needed ≤ w.snap.gen))

/-- The state in which the writer has taken a completed snapshot for its own, before the release (R149(1), (2)). -/
def snapshotTaken (w : CatWrite) (s : State) : State :=
  modCat (fun c => { (c.modMirror c.current (fun m => { m with gen := some w.snap.gen })) with
    completed := w.snap.gen, failures := 0, write := none, retired := w.snap.retired, formatStamp := w.snap.stamp
    completedStamp := w.snap.stamp, waiters := c.waiters.filter (fun x => decide (w.snap.gen < x.needed)) }) s

/-- The state in which the waiters of a completed snapshot have been released too. -/
def waitersReleased (w : CatWrite) (s : State) : State :=
  (releasedBy w s).foldl (releaseWaiter w.snap.gen) (snapshotTaken w s)

theorem snapshotCompleted_outside {s : State} (h : s.startup.format = none) (w : CatWrite) :
    snapshotCompleted w s = waitersReleased w s := by
  have hnot : formatAwaitsSnapshot s = false := by simp only [formatAwaitsSnapshot, h]
  exact if_neg (by rw [hnot]; exact Bool.false_ne_true)

theorem snapshotCompleted_ofFormat {s : State} {f : Format} (hformat : s.startup.format = some f)
    (hphase : f.phase = .snapshot) (w : CatWrite) : snapshotCompleted w s = endFormat (waitersReleased w s) := by
  have hawaits : formatAwaitsSnapshot s = true := by simp only [formatAwaitsSnapshot, hformat, hphase]; rfl
  exact if_pos hawaits

section
variable (w : CatWrite) (s : State)

theorem waitersReleased_frame : waitersReleased w s = { s with
    cat := (snapshotTaken w s).cat
    segs := (waitersReleased w s).segs
    link := { s.link with slots := (waitersReleased w s).link.slots, notices := (waitersReleased w s).link.notices }
    engine := (waitersReleased w s).engine } := by
  unfold waitersReleased
  rw [releaseWaiters_frame]
  rfl

theorem waitersReleased_cat : (waitersReleased w s).cat = (snapshotTaken w s).cat := by rw [waitersReleased_frame]

theorem segAt_waitersReleased (g : Nat) : segAt g (waitersReleased w s) =
    if WaiterWho.segment g ∈ (releasedBy w s).map Waiter.who then (segAt g s).map SegRec.retired else segAt g s :=
  segAt_releaseWaiters ..

theorem slotAt_waitersReleased (n : Nat) : slotAt n (waitersReleased w s) =
    if WaiterWho.slot n ∈ (releasedBy w s).map Waiter.who then (slotAt n s).map (Slot.released w.snap.gen s)
    else slotAt n s := slotAt_releaseWaiters ..

theorem notices_waitersReleased : (waitersReleased w s).link.notices =
    ((releasedBy w s).filterMap (retiredNotice s)).foldl (fun q x => pushNotice x q) s.link.notices :=
  notices_releaseWaiters ..

theorem canonical_waitersReleased (hs : Store.Canonical s.link.slots) :
    Store.Canonical (waitersReleased w s).link.slots :=
  foldl_keeps (P := fun t : State => Store.Canonical t.link.slots)
    (fun _ x ht => slotsCanonical_stable.keeps_releaseWaiter w.snap.gen x ht) (releasedBy w s) hs

end

theorem mem_releasedBy {w : CatWrite} {s : State} {x : Waiter} :
    x ∈ releasedBy w s ↔ x ∈ s.cat.waiters ∧ x.needed ≤ w.snap.gen := by
  rw [releasedBy, List.mem_filter, decide_eq_true_iff]

section
variable {w : CatWrite} {s : State}

theorem segAt_released {x : Waiter} {g : Nat} {r : SegRec} (hx : x ∈ releasedBy w s) (hwho : x.who = .segment g)
    (hr : segAt g s = some r) : segAt g (waitersReleased w s) = some r.retired := by
  rw [segAt_waitersReleased, if_pos (hwho ▸ List.mem_map_of_mem hx), hr]; rfl

theorem segAt_not_released {g : Nat} (h : ∀ x ∈ releasedBy w s, x.who ≠ .segment g) :
    segAt g (waitersReleased w s) = segAt g s := by
  rw [segAt_waitersReleased, if_neg]
  intro hmem
  obtain ⟨x, hx, e⟩ := List.mem_map.mp hmem
  exact h x hx e

theorem slotAt_released {x : Waiter} {n : Nat} {sl : Slot} (hx : x ∈ releasedBy w s) (hwho : x.who = .slot n)
    (hsl : slotAt n s = some sl) : slotAt n (waitersReleased w s) = some (sl.released w.snap.gen s) := by
  rw [slotAt_waitersReleased, if_pos (hwho ▸ List.mem_map_of_mem hx), hsl]; rfl

theorem slotAt_not_released {n : Nat} (h : ∀ x ∈ releasedBy w s, x.who ≠ .slot n) :
    slotAt n (waitersReleased w s) = slotAt n s := by
  rw [slotAt_waitersReleased, if_neg]
  intro hmem
  obtain ⟨x, hx, e⟩ := List.mem_map.mp hmem
  exact h x hx e

end

/-! ## The obligation -/

/-- Settles O48: how the writer's programs and erases end, what a failed catalogue brings, and what a completed snapshot
releases, in a FORMAT and outside. -/
theorem snapshotCompletionReleasesWaiters : Obligations.SnapshotCompletionReleasesWaiters := by
  unfold Obligations.SnapshotCompletionReleasesWaiters
  refine ⟨?opEnds, ?writeEnds, ?fails, ?ofFormat, ?completes, ?outside⟩
  case opEnds =>
    exact fun s ok hheld => ⟨fun g p d hop => exec_programCompletion_writer hheld hop ok,
      fun e hop horigin => exec_eraseCompletion_writer hheld hop horigin ok⟩
  case writeEnds =>
    intro s w hw
    refine ⟨fun hstep => ⟨fun h => ?_, fun h => ⟨fun p hp => ?_, fun hp => ?_⟩⟩,
      fun hstep => ⟨?_, fun h => ?_, fun h => ?_⟩, writerErased_eq hw false, fun m hm => ?_⟩
    · exact (writerProgrammed_program hw hstep false).trans (countFailure_third h _)
    · exact ((writerProgrammed_program hw hstep false).trans (countFailure_next h _)).trans
        (writeSnapshot_of_page (by exact hp) _)
    · exact ((writerProgrammed_program hw hstep false).trans (countFailure_next h _)).trans
        (writeSnapshot_of_none (by exact hp) _)
    · exact writerProgrammed_header hw hstep true
    · exact (writerProgrammed_header hw hstep false).trans (countFailure_third h _)
    · exact (writerProgrammed_header hw hstep false).trans (countFailure_next h _)
    · exact (writerErased_eq hw true).trans (mirrorErased_eq w.snap s hm)
  case fails =>
    intro s
    obtain ⟨hcat, hspaces, hindex, hflash⟩ := catalogueFails_frame s
    refine ⟨hcat, hspaces, hindex, hflash, fun g hvictim hopen => segAt_catalogueFails ⟨hopen, hvictim⟩, fun h => ?_, ?_⟩
    · rw [catalogueFails_eq]
      exact reportEnding_startup (by rw [writerFailed_frame]; exact h) _
    · rintro n sl hs hsl hcompacts hwaiting (⟨hformat, x, hx, hwho⟩ | ⟨f, hformat, hslot⟩)
      · exact slotAt_catalogueFails_waiter hs hsl hcompacts hwaiting hformat hx hwho
      · exact slotAt_catalogueFails_format hs hsl hcompacts hwaiting hformat hslot
  case ofFormat =>
    intro s w f hformat hphase u released
    have hu : u = endFormat (waitersReleased w s) := snapshotCompleted_ofFormat hformat hphase w
    obtain ⟨hcat, hstartup, hnotices⟩ := endFormat_frame (waitersReleased w s)
    have hbefore : (waitersReleased w s).startup = s.startup := by rw [waitersReleased_frame]
    rw [waitersReleased_cat] at hcat
    rw [hbefore] at hstartup hnotices
    rw [notices_waitersReleased] at hnotices
    rw [hu, hcat, hstartup]
    refine ⟨rfl, rfl, rfl, rfl, rfl, rfl, rfl, rfl, rfl, rfl, hnotices,
      fun x hx n sl hwho hsl hs hcompacts hwaiting => ?_, fun g hg => ?_⟩
    · have hreleased := slotAt_released hx hwho hsl
      rw [Slot.released, releaseData_of_format hformat] at hreleased
      refine slotAt_endFormat (canonical_waitersReleased w s hs) hreleased ?_ ?_ nofun
      · rw [waitersReleased_frame]; exact hcompacts
      · rw [waitersReleased_frame]; exact hwaiting
    · have hsame : segAt g (endFormat (waitersReleased w s)) = segAt g (waitersReleased w s) := by
        refine segAt_endFormat ?_
        rw [waitersReleased_frame]
        exact hg.imp_right fun hapart => ⟨hapart.2, hapart.1⟩
      rw [hsame]
      exact ⟨fun x hx r hwho hr => segAt_released hx hwho hr, segAt_not_released⟩
  case completes =>
    intro s w g p d hheld hop hw hstep
    have hdone := writerProgrammed_program (s := setPage g p d .sound (startOp none s)) hw hstep true
    exact (exec_programCompletion_writer hheld hop true).trans (congrArg (Host.Outcome.next ∘ settleAfterOp) hdone)
  case outside =>
    intro s w hformat u
    have hu : u = waitersReleased w s := snapshotCompleted_outside hformat w
    have hanswer {x : Waiter} {n : Nat} {sl : Slot} (hx : x ∈ s.cat.waiters) (hneeded : x.needed ≤ w.snap.gen)
        (hwho : x.who = .slot n) (hsl : slotAt n s = some sl) : slotAt n (waitersReleased w s) =
          some (Slot.answered .ok (barrierData sl.request w.snap.gen s) sl) := by
      rw [slotAt_released (mem_releasedBy.mpr ⟨hx, hneeded⟩) hwho hsl, Slot.released, releaseData_of_no_format hformat]
    rw [hu, waitersReleased_cat]
    refine ⟨rfl, rfl, rfl, rfl, rfl,
      fun x hx g r hneeded hwho hr => segAt_released (mem_releasedBy.mpr ⟨hx, hneeded⟩) hwho hr,
      fun g hg => segAt_not_released fun x hx => ?_, notices_waitersReleased w s,
      fun x hx n sl hneeded hwho hsl => ⟨?_, fun sp hclear => ?_⟩, fun n hn => slotAt_not_released fun x hx => ?_⟩
    · obtain ⟨hmem, hneeded⟩ := mem_releasedBy.mp hx
      exact hg x hmem hneeded
    · rintro (⟨sp, p, q, hrequest⟩ | ⟨sp, q, hrequest⟩)
      · rw [hanswer hx hneeded hwho hsl, hrequest]; rfl
      · rw [hanswer hx hneeded hwho hsl, hrequest]; rfl
    · rw [hanswer hx hneeded hwho hsl, hclear]; rfl
    · obtain ⟨hmem, hneeded⟩ := mem_releasedBy.mp hx
      exact hn x hmem hneeded

end Sys2Proof.Machine

/-! # A serving part leaves READY and READ_ONLY only by FORMAT or the supply (R155, R156) -/

namespace Sys2Proof.Machine

/-- `t` serves with neither mount nor FORMAT in progress, in READ_ONLY with its cause where `s` is (R156). -/
def ServesOn (s t : State) : Prop :=
  Settled t ∧ Serves t ∧
    (s.startup.mode = .readOnly → t.startup.mode = .readOnly ∧ t.startup.cause = s.startup.cause)

/-- Outside mount and FORMAT a mode changes from READY to READ_ONLY and in no other way (R156). -/
theorem servesOn_placing (s : State) : Placing (ServesOn s) where
  work _ t h _ x := by unfold SameButWork at h; rw [h]; exact x
  slots _ _ _ x := x
  notice _ _ x := x
  segs _ _ _ x := x
  index _ _ _ x := x
  counts _ _ _ x := x
  readOnly t c hready := fun ⟨hsettled, _, hkept⟩ =>
    ⟨hsettled, .inr rfl, fun h => by rw [hready] at hkept; exact absurd (hkept h).1 (by decide)⟩
  pendingCause _ _ _ x := x
  formatFails t _ hformat := fun ⟨hsettled, _, _⟩ => by rw [hsettled.2] at hformat; cases hformat
  sequence _ _ _ x := x
  marks _ _ x := x

namespace ServesOn

variable {s t : State}

/-! ## The end of a change -/

theorem finish (h : ServesOn s t) : ServesOn s (finish t) := by
  have hsent := finish_sendsOnly t
  unfold SendsOnly at hsent
  rw [hsent]
  exact h

theorem settleWith (ended : Bool) (h : ServesOn s t) : ServesOn s (settleWith ended t) :=
  have hP := servesOn_placing s
  (hP.keeps_settleRound ended (hP.keeps_settleRound ended h)).finish

theorem settle (h : ServesOn s t) : ServesOn s (settle t) := h.settleWith false

theorem settleAfterOp (h : ServesOn s t) : ServesOn s (settleAfterOp t) := h.settleWith true

theorem calm (h : ServesOn s t) : ServesOn s (calm t) := by
  unfold Machine.calm
  split
  · exact h.settle
  · exact h.finish

/-! ## The Host Link -/

theorem refuseFrame (f : RxFrame) (st : Status) (h : ServesOn s t) : ServesOn s (refuseFrame f st t) := by
  unfold Machine.refuseFrame; split <;> exact h

theorem queueFrame (f : RxFrame) (r : Request) (h : ServesOn s t) : ServesOn s (queueFrame f r t) := by
  unfold Machine.queueFrame takeSlot
  split
  · exact h.refuseFrame _ _
  · split
    · exact h.refuseFrame _ _
    · split
      · exact h.refuseFrame _ _
      · exact h

theorem cancelEffect (target : Byte) (h : ServesOn s t) : ServesOn s (cancelEffect target t).2 := by
  unfold Machine.cancelEffect
  split
  · exact h
  · split
    case h_3 => split <;> exact h
    all_goals exact h

/-- A soft reset empties the slot of a FORMAT, and there is none (R172, R184). -/
theorem resetBegins (tag : Byte) (h : ServesOn s t) : ServesOn s (resetBegins tag t) := by
  refine (servesOn_placing s).keeps_commitCause .host ?_
  obtain ⟨⟨hmount, hformat⟩, hrest⟩ := h
  exact ⟨⟨hmount, by simp [hformat]⟩, hrest⟩

theorem doImmediate (f : RxFrame) (i : Immediate) (h : ServesOn s t) : ServesOn s (doImmediate f i t) := by
  cases i with
  | reset => exact (h.resetBegins _).settle
  | identify => refine ServesOn.calm ?_; split <;> exact h
  | status => refine ServesOn.calm ?_; split <;> exact h
  | cancel target =>
    refine ServesOn.calm ?_
    split
    · exact h.cancelEffect target
    · exact h

theorem dispose (f : RxFrame) (h : ServesOn s t) : ServesOn s (dispose f t) := by
  unfold Machine.dispose
  split
  · exact h
  · split
    · exact (h.refuseFrame _ _).calm
    · split
      · exact h.doImmediate _ _
      · exact (h.queueFrame _ _).calm
      · exact (h.refuseFrame _ _).calm

theorem receive (f : RxFrame) (h : ServesOn s t) : ServesOn s (receive f t) := by
  refine Whole.keeps_whileRunning (Whole.keeps_insideFrame fun h => ?_) h
  unfold frameEnds
  split
  · exact h
  · split
    · exact h
    · split
      · exact dispose f (t := hunt t) h
      · exact h

theorem resetReplyStep (h : ServesOn s t) : ServesOn s (resetReplyStep t) := by
  unfold Machine.resetReplyStep
  split
  · exact h
  · split
    · exact finish h
    · exact h

theorem frameSentStep (h : ServesOn s t) : ServesOn s (frameSentStep t) := by
  unfold Machine.frameSentStep
  split
  · exact h
  · exact calm h

/-! ## The Request Engine -/

/-- A request is answered with a refusal or carried out (R131). -/
theorem afterChecks (n : Nat) (checks : List (Option (Status × ReplyData))) {go : State → State}
    (hgo : ServesOn s t → ServesOn s (go t)) (h : ServesOn s t) : ServesOn s (afterChecks n checks go t) := by
  unfold Machine.afterChecks
  split
  · exact ((servesOn_placing s).keeps_answer n _ _ h).settle
  · exact (hgo h).settle

theorem deleteKey (n : Nat) (k : Key) (h : ServesOn s t) : ServesOn s (deleteKey n k t) := by
  unfold Machine.deleteKey
  split
  · exact (servesOn_placing s).keeps_storeFor _ _ _ h
  · exact h

theorem syncSlot (n : Nat) (h : ServesOn s t) : ServesOn s (syncSlot n t) := by
  unfold Machine.syncSlot
  split
  · exact h
  · split
    · refine (servesOn_placing s).keeps_commitCause .host ?_
      exact h
    · exact h

theorem getKey (n : Nat) (k : Key) (h : ServesOn s t) : ServesOn s (getKey n k t) := by
  unfold Machine.getKey; split <;> exact h

theorem setParam (n code value : Nat) (h : ServesOn s t) : ServesOn s (setParam n code value t) := by
  unfold Machine.setParam
  split
  · unfold paramTakesEffect
    refine (servesOn_placing s).keeps_answer _ _ _ ?_
    split
    · exact h
    · split
      · exact (servesOn_placing s).keeps_thresholdLowered (s := { t with params := _ }) value h
      · exact h
    · exact h
  · exact h

theorem compactSlot (n : Nat) (target : Option Nat) (h : ServesOn s t) : ServesOn s (compactSlot n target t) := by
  unfold Machine.compactSlot; dsimp only; split <;> exact h

theorem clearSpace (n space : Nat) (h : ServesOn s t) : ServesOn s (clearSpace n space t) :=
  foldl_keeps (P := ServesOn s) (fun _ k => (servesOn_placing s).keeps_changeEntry k none) _ h

/-- No request but a FORMAT changes the mode by being taken (R170, R181). -/
theorem taking {c : Instr} (hc : isTaking c = true) (hnot : c ≠ .format) (h : ServesOn s s) (e : exec c s = .next t) :
    ServesOn s t := by
  have htaken (step : State → State) (hexec : exec c s = .next (whileRunning step s))
      (hstep : ServesOn s (step s)) : ServesOn s t := by
    rw [hexec] at e; exact next_of (Whole.keeps_whileRunning (fun _ => hstep) h) e
  cases c <;> cases hc
  case put =>
    refine htaken putStep rfl ?_
    unfold putStep
    split
    exacts [h.afterChecks _ _ ((servesOn_placing s).keeps_storeFor _ _ _), h]
  case delete =>
    refine htaken deleteStep rfl ?_
    unfold deleteStep
    split
    exacts [h.afterChecks _ _ (deleteKey _ _), h]
  case get =>
    refine htaken getStep rfl ?_
    unfold getStep
    split
    exacts [h.afterChecks _ _ (getKey _ _), h]
  case list =>
    refine htaken listStep rfl ?_
    unfold listStep
    split
    exacts [h.afterChecks _ _ id, h]
  case sync =>
    refine htaken syncStep rfl ?_
    unfold syncStep
    split
    exacts [h.afterChecks _ _ (syncSlot _), h]
  case compact =>
    refine htaken compactStep rfl ?_
    unfold compactStep
    split
    exacts [h.afterChecks _ _ (compactSlot _ _), h]
  case segmentInfo =>
    refine htaken segmentInfoStep rfl ?_
    unfold segmentInfoStep
    split
    exacts [h.afterChecks _ _ id, h]
  case spaceInfo =>
    refine htaken spaceInfoStep rfl ?_
    unfold spaceInfoStep
    split
    exacts [h.afterChecks _ _ id, h]
  case setParam =>
    refine htaken setParamStep rfl ?_
    unfold setParamStep
    split
    exacts [h.afterChecks _ _ (setParam _ _ _), h]
  case freeze =>
    refine htaken freezeStep rfl ?_
    unfold freezeStep
    split
    exacts [h.afterChecks _ _ id, h]
  case setPolicy =>
    refine htaken setPolicyStep rfl ?_
    unfold setPolicyStep
    split
    exacts [h.afterChecks _ _ id, h]
  case setQuota =>
    refine htaken setQuotaStep rfl ?_
    unfold setQuotaStep
    split
    exacts [h.afterChecks _ _ id, h]
  case clearSpace =>
    refine htaken clearSpaceStep rfl ?_
    unfold clearSpaceStep
    split
    exacts [h.afterChecks _ _ (clearSpace _ _), h]
  case format => exact absurd rfl hnot

/-! ## Array operations that end -/

/-- With no FORMAT in progress, a catalogue program that ends does not end one (R149, R150, R171). -/
theorem writerProgrammed (ok : Bool) (h : ServesOn s t) : ServesOn s (writerProgrammed ok t) := by
  have hP := servesOn_placing s
  unfold Machine.writerProgrammed
  split
  · exact h
  · split
    · split
      · exact hP.keeps_claimSnapshot _ _ (hP.keeps_modCat _ h)
      · exact hP.keeps_countFailure (fun _ => hP.keeps_claimSnapshot _ _) h
    · split
      · have hno : formatAwaitsSnapshot t = false := by rw [formatAwaitsSnapshot, h.1.2]
        rw [snapshotCompleted, hno, if_neg Bool.false_ne_true]
        exact foldl_keeps (fun _ w => hP.keeps_releaseWaiter _ w) _ (hP.keeps_modCat _ h)
      · exact hP.keeps_countFailure (fun _ => hP.keeps_writeSnapshot _) h
    · exact h

theorem readEnds (run : ReadRun) (o : ReadOutcome) (h : ServesOn s t) : ServesOn s (readEnds run o t) := by
  have hP := servesOn_placing s
  have hjudged := hP.keeps_healthHandles run o (hP.keeps_startOp none h)
  refine (hP.keeps_suspendNext 2 ?_).settleAfterOp
  unfold readOriginator
  split
  · split
    · exact hP.keeps_answerGet _ _ hjudged
    · exact hjudged
  · rw [startupReadEnded_of_settled hjudged.1]; exact hjudged
  · exact hP.keeps_engineRead _ _ _ hjudged
  all_goals exact hjudged

theorem programEnds (o : Originator) (g p : Nat) (d : PageData) (ok : Bool) (h : ServesOn s t) :
    ServesOn s (programEnds o g p d ok t) := by
  have hP := servesOn_placing s
  have hprogrammed : ServesOn s (setPage g p d (programQuality ok) (startOp none t)) := h
  refine ServesOn.settleAfterOp ?_
  unfold programOriginator
  split
  · split
    · exact hP.keeps_pageProgrammed _ hprogrammed
    · exact hP.keeps_pageFailed _ hprogrammed
  · split
    · exact hP.keeps_pageProgrammed _ hprogrammed
    · exact hP.keeps_pageFailed _ hprogrammed
  · exact hP.keeps_engineHeader _ hprogrammed
  · exact hprogrammed.writerProgrammed ok
  · rw [startupHeader_of_settled hprogrammed.1]; exact hprogrammed
  all_goals exact hprogrammed

theorem eraseEnds (e : EraseRun) (ok : Bool) (h : ServesOn s t) : ServesOn s (eraseEnds e ok t) := by
  have hP := servesOn_placing s
  have herased : ServesOn s (eraseLeaves ok e.seg (startOp none t)) := by
    rw [eraseLeaves_frame]; exact h
  refine ServesOn.settleAfterOp ?_
  unfold eraseOriginator
  split
  · exact hP.keeps_engineErased _ herased
  · exact hP.keeps_writerErased _ herased
  · rw [startupErased_of_settled herased.1]; exact herased
  all_goals exact herased

theorem readCompletionStep (report : ReadReport) (h : ServesOn s t) : ServesOn s (readCompletionStep report t) := by
  unfold Machine.readCompletionStep
  split
  · split
    · exact h.readEnds _ _
    · exact h
  · exact h

theorem programCompletionStep (ok : Bool) (h : ServesOn s t) : ServesOn s (programCompletionStep ok t) := by
  unfold Machine.programCompletionStep
  split
  · exact h.programEnds _ _ _ _ _
  · exact h

theorem eraseCompletionStep (ok : Bool) (h : ServesOn s t) : ServesOn s (eraseCompletionStep ok t) := by
  unfold Machine.eraseCompletionStep
  split
  · exact h.eraseEnds _ _
  · exact h

theorem timeoutStep (h : ServesOn s t) : ServesOn s (timeoutStep t) := by
  unfold Machine.timeoutStep
  split
  · exact h.readEnds _ _
  · exact h.programEnds _ _ _ _ _
  · exact h.eraseEnds _ _
  · exact h

theorem suspendTimeoutStep (h : ServesOn s t) : ServesOn s (suspendTimeoutStep t) := by
  unfold Machine.suspendTimeoutStep
  split
  · split
    · exact h.eraseEnds _ _
    · exact h
  · exact h

theorem eraseSuspendedStep (h : ServesOn s t) : ServesOn s (eraseSuspendedStep t) := by
  unfold Machine.eraseSuspendedStep
  split
  · split
    · refine ((servesOn_placing s).keeps_suspendNext 2 ?_).settle
      exact h
    · exact h
  · exact h

/-! ## PFW, the timers and the part's own steps -/

theorem pfwAssertedStep (h : ServesOn s t) : ServesOn s (pfwAssertedStep t) := by
  have hP := servesOn_placing s
  unfold Machine.pfwAssertedStep
  split
  · exact h
  · split
    · exact h
    · refine (hP.keeps_withdrawPatrol (hP.keeps_withdrawEngineWork (hP.keeps_commitCause .host ?_))).settle
      exact h

theorem pfwDeassertedStep (h : ServesOn s t) : ServesOn s (pfwDeassertedStep t) := by
  unfold Machine.pfwDeassertedStep
  split
  · split
    · exact h
    · exact settle (t := setPfw false t) h
  · exact h

theorem commitWindowStep (h : ServesOn s t) : ServesOn s (commitWindowStep t) := by
  unfold Machine.commitWindowStep
  split
  · refine ((servesOn_placing s).keeps_commitCause .host ?_).settle
    exact h
  · exact h

theorem patrolStep (h : ServesOn s t) : ServesOn s (patrolStep t) := by
  have hclaim : ServesOn s (patrolClaim t) := by unfold patrolClaim; split <;> exact h
  unfold Machine.patrolStep
  split
  · exact hclaim.settle
  · exact h

theorem resumeCopying (x : Handled) (h : ServesOn s x.state) : ServesOn s (resumeCopying x t) := by
  cases x with
  | done u => exact (servesOn_placing s).keeps_copyLoop _ h
  | waits u => exact h
  | stopped u => exact h

theorem waitingPlacedStep (id : StreamId) (h : ServesOn s t) : ServesOn s (waitingPlacedStep id t) := by
  have hP := servesOn_placing s
  unfold Machine.waitingPlacedStep
  split
  · exact h
  · split
    · refine ServesOn.settle ?_
      unfold placeWaiting
      split
      · exact hP.keeps_storeFor _ _ _ (hP.keeps_modStream _ _ h)
      · exact resumeCopying _ (hP.keeps_handCopy _ _ (hP.keeps_modStream _ _ h))
    · exact h

theorem heldProceedsStep (h : ServesOn s t) : ServesOn s (heldProceedsStep t) := by
  have hP := servesOn_placing s
  unfold Machine.heldProceedsStep
  split
  · exact h
  · split
    · exact h
    · split
      · refine ServesOn.settle ?_
        unfold proceed
        split
        · exact hP.keeps_storeFor _ _ _ h
        · exact hP.keeps_storeFor _ _ _ h
        · exact h
      · exact h

theorem evacuationEndStep (h : ServesOn s t) : ServesOn s (evacuationEndStep t) := by
  unfold Machine.evacuationEndStep
  split
  · exact h
  · split
    · exact ((servesOn_placing s).keeps_decideFate _ h).settle
    · exact h

end ServesOn

/-! ## The obligation -/

/-- Settles O55, by the command: with neither mount nor FORMAT in progress the one change of the mode left is the entry
into READ_ONLY from READY. -/
theorem servingModesAreLeftOnlyByFormat : Obligations.ServingModesAreLeftOnlyByFormat := by
  intro c s t hsettled hserves hreset hnot e
  have hs : ServesOn s s := ⟨hsettled, hserves, fun h => ⟨h, rfl⟩⟩
  have running {f : State → State} (hf : ServesOn s (f s)) : ServesOn s (whileRunning f s) :=
    Whole.keeps_whileRunning (fun _ => hf) hs
  cases c
  case powerOn | powerLoss | rstAsserted | rstDeasserted => cases hreset
  case put | delete | get | list | sync | compact | segmentInfo | spaceInfo | setParam | freeze | setPolicy | setQuota |
    clearSpace | format => exact ServesOn.taking rfl hnot hs e
  case frameReceived | identify | status | cancel | reset => exact next_of (hs.receive _) e
  case lengthError | frameCheckFailed | receiverTimeout =>
    exact next_of (running (Whole.keeps_insideFrame (P := ServesOn s) (fun h => h) hs)) e
  case wpChanged b => exact next_of (P := ServesOn s) (a := { s with wp := b }) hs e
  case frameStartMarker => exact next_of (running hs) e
  case pfwAsserted => exact next_of hs.pfwAssertedStep e
  case pfwDeasserted => exact next_of hs.pfwDeassertedStep e
  case resetReplyBuilt => exact next_of (running hs.resetReplyStep) e
  case formatEmptying =>
    exact next_of (running (by rw [formatEmptyingStep_of_settled hsettled]; exact hs)) e
  case frameSent => exact next_of (running hs.frameSentStep) e
  case commitWindowExpiry => exact next_of (running hs.commitWindowStep) e
  case patrolTimerExpiry => exact next_of (running hs.patrolStep) e
  case arrayOperationTimeout => exact next_of (running hs.timeoutStep) e
  case eraseSuspendTimeout => exact next_of (running hs.suspendTimeoutStep) e
  case readCompletion report => exact next_of (running (hs.readCompletionStep report)) e
  case programCompletion ok => exact next_of (running (hs.programCompletionStep ok)) e
  case eraseCompletion ok => exact next_of (running (hs.eraseCompletionStep ok)) e
  case eraseSuspended => exact next_of (running hs.eraseSuspendedStep) e
  case waitingEntryPlaced id => exact next_of (running (hs.waitingPlacedStep id)) e
  case heldRequestProceeds => exact next_of (running hs.heldProceedsStep) e
  case evacuationEnd => exact next_of (running hs.evacuationEndStep) e

end Sys2Proof.Machine

/-! # The supply and RST (R158), and the state after reset -/

namespace Sys2Proof.Machine

/-! ## A held part (R158) -/

theorem whileRunning_of_held {f : State → State} {s : State} (h : isHeld s = true) : whileRunning f s = s := by
  simp [whileRunning, h]

/-- A command that is not of the supply or the lines is a change that only a running part makes. -/
theorem exec_whileRunning {c : Instr} (hc : isLineCommand c = false) :
    ∃ f : State → State, ∀ s, exec c s = .next (whileRunning f s) := by
  cases c <;> cases hc
  all_goals exact ⟨_, fun _ => rfl⟩

/-- Settles O2, by the one form of those commands. -/
theorem heldPartIsInert : Obligations.HeldPartIsInert := by
  intro c s hheld hc
  obtain ⟨f, hf⟩ := exec_whileRunning hc
  rw [hf, whileRunning_of_held hheld]

/-! ## Power-on values (R84, R158) -/

theorem cutErase_frame (e : Option EraseRun) (s : State) : cutErase e s = { s with flash := (cutErase e s).flash } := by
  cases e <;> simp only [cutErase, spoilSegment]

theorem cutOperation_frame (op : Option ArrayOp) (s : State) :
    cutOperation op s = { s with flash := (cutOperation op s).flash } := by
  unfold cutOperation
  split
  · rfl
  · exact cutErase_frame _ s
  · rfl

/-- Work cut short leaves its traces in the array's pages alone (R84). -/
theorem cutShort_frame (s : State) : cutShort s = { s with flash := (cutShort s).flash } := by
  unfold cutShort
  rw [cutErase_frame, cutOperation_frame]

/-- Every block of a part whose work was cut short has its power-on value (R158). -/
theorem discardAll_eq (s : State) : discardAll s = heldFrom s.powered s.rst s := by
  unfold discardAll
  rw [cutShort_frame]
  rfl

/-! ## Mount begins (R158, R160) -/

/-- In MOUNTING, with no victim and no occupied slot, the tests at the end of a change come to the arbiter's grant. -/
theorem settleRound_of_mounting {s : State} (hmode : s.startup.mode = .mounting) (hvictim : s.comp.victim = none)
    (hslots : s.link.slots = []) (ended : Bool) : settleRound ended s = arbitrate ended 3 s := by
  have hsnapshot : snapshotTest s = s := if_neg fun hdue => by
    obtain ⟨_, _, _, hserves⟩ := (snapshotDue_iff s).mp hdue
    rcases hserves with h | h <;> rw [hmode] at h <;> cases h
  have hstart : startTest s = s := if_neg fun hdue => by
    have h := ((startDue_iff s).mp hdue).1
    rw [hmode] at h
    cases h
  have hengine : engineTest s = s := by rw [engineTest, hvictim]
  have hpressure : pressureTest s = s := pressureTest_of_unpressed fun h => h.1 hslots
  rw [settleRound, hsnapshot, hstart, hengine, hpressure]

/-- An empty link sends nothing (R185). -/
theorem finish_of_empty {s : State} (h : s.link = Link.empty) : finish s = s := by
  have horder : orderReplies s = s := by
    simp only [orderReplies, newlyReady, h]
    exact congrArg (fun l => { s with link := l }) h.symm
  rw [finish, horder]
  simp [transmit, chooseFrame, sendNotice, h, Link.empty]

/-- The part in which mount has just claimed its first read (R160). -/
def mountClaimed (s : State) : State := mountBegins (heldFrom true false s)

theorem mountClaimed_chosen (s : State) : Chosen .catalogue ⟨.catalogue, .startup, .read 0 0⟩ (mountClaimed s) :=
  ⟨rfl, rfl, rfl, rfl⟩

/-- Mount begins in a part whose blocks have their power-on values: its first read is granted, and the tests at the end of
the change find nothing else to do (R158, R160). -/
theorem boot_heldFrom (s : State) : boot (heldFrom true false s) = mountFrom s := by
  have hclaimed : settleRound false (mountClaimed s) = mountFrom s := by
    rw [settleRound_of_mounting rfl rfl rfl, (mountClaimed_chosen s).arbitrate_operation false 2 rfl]
    rfl
  have hgranted : settleRound false (mountFrom s) = mountFrom s := by
    rw [settleRound_of_mounting rfl rfl rfl, arbitrate_of_nothing false 3 (.inl (by simp [mountFrom, State.reset]))]
  show finish (settleRound false (settleRound false (mountClaimed s))) = mountFrom s
  rw [hclaimed, hgranted, finish_of_empty rfl]

theorem rstDeassertedStep_boots {s : State} (hrst : s.rst = true) (hpowered : s.powered = true) :
    rstDeassertedStep s = boot { s with rst := false } := by
  rw [rstDeassertedStep, if_pos hrst, if_pos hpowered]

/-- Settles O3, by the power-on values and the start of mount from them. -/
theorem supplyAndRstHoldOrStartMount : Obligations.SupplyAndRstHoldOrStartMount := by
  refine ⟨fun s => ⟨fun h => ?_, fun h => ?_⟩, fun s => ⟨?_, ?_⟩, fun s h => ?_, fun s hrst hpow => ?_, fun s h => ?_⟩
  · have hstep : powerOnStep s = boot { discardAll s with powered := true } := if_neg (by simp [h])
    rw [discardAll_eq, h] at hstep
    exact congrArg Host.Outcome.next (hstep.trans (boot_heldFrom s))
  · have hstep : powerOnStep s = { discardAll s with powered := true } := if_pos h
    rw [discardAll_eq, h] at hstep
    exact congrArg Host.Outcome.next hstep
  · exact congrArg (fun t => Host.Outcome.next { t with rst := true }) (discardAll_eq s)
  · exact congrArg (fun t => Host.Outcome.next { t with powered := false }) (discardAll_eq s)
  · have hstep : rstDeassertedStep (heldFrom true true s) = boot (heldFrom true false s) := rstDeassertedStep_boots rfl rfl
    exact congrArg Host.Outcome.next (hstep.trans (boot_heldFrom s))
  · have hstep : rstDeassertedStep s = { s with rst := false } := by
      rw [rstDeassertedStep, if_pos hrst, if_neg (by simp [hpow])]
    exact congrArg Host.Outcome.next hstep
  · exact congrArg Host.Outcome.next (if_neg (by simp [h]))

/-! ## The state after reset -/

/-- Settles O54: after reset every table and every queue is empty and every count is 0. -/
theorem resetMeetsTheInvariants : Obligations.ResetMeetsTheInvariants := by
  refine ⟨⟨.nil, .nil, .nil, .nil, .nil, .nil⟩, ⟨?_, fun _ => ?_, rfl⟩, ⟨.nil, ?_, .nil, .nil, ?_⟩, ?_⟩
  · exact Nat.zero_le 12
  · exact Nat.zero_le 11
  · exact fun _ h => nomatch h
  · exact fun _ h => nomatch h
  · simp [CountsBounded, State.reset, Link.empty, ArrayCtl.idle]

end Sys2Proof.Machine

/-! # FORMAT is taken, checked and begun (R51, R69, R109, R124, R169, R170) -/

namespace Sys2Proof.Machine

/-! ## The request is taken and checked (R169) -/

namespace Takes

variable {n : Nat} {s : State}

theorem exec_format (h : Takes n .format s) : exec .format s = .next (carryFormat n (takenSlot n s)) := by
  obtain ⟨hheld, _, htaken⟩ := h
  simp [exec, execFormat, whileRunning, hheld, formatStep, htaken]

theorem format_refused (h : Takes n .format s) {st : Status} {d : ReplyData}
    (hr : firstRefusal (formatChecks s) = some (st, d)) :
    exec .format s = .next (settle (answeredIn n st d s)) := h.refused h.exec_format hr

theorem format_begins (h : Takes n .format s) (hpass : firstRefusal (formatChecks s) = none) :
    exec .format s = .next (settle (formatBegins n (takenSlot n s))) := by
  rw [h.exec_format, carryFormat, afterChecks_passed (by exact hpass)]

end Takes

theorem firstRefusal_formatChecks (s : State) : firstRefusal (formatChecks s) =
    if s.startup.mode = .mounting then some (.notReady, .none)
    else if s.pfw = true then some (.powerLow, .none)
    else if s.host.stranded = true ∨ s.reloc.stranded = true then some (.mediaFault, .none)
    else if ∃ p ∈ s.spaces, p.2.policy ≠ .opened then some (.permanentSpaces, .none)
    else if s.wp = true ∧ ∃ p ∈ s.spaces, p.2.pinGuard = true then some (.writeProtected, .none)
    else none := by
  simp only [formatChecks, firstRefusal_failIf, beq_iff_eq, Bool.or_eq_true, Bool.and_eq_true, List.any_eq_true,
    bne_iff_ne]
  rfl

/-- A FORMAT that passes its checks finds neither stream stranded (R169). -/
theorem formatChecks_unstranded {s : State} (h : firstRefusal (formatChecks s) = none) : s.host.stranded = false := by
  have hcheck := failIf_eq_none.mp (firstRefusal_eq_none.mp h (failIf (s.host.stranded || s.reloc.stranded) .mediaFault)
    (by simp [formatChecks]))
  exact (Bool.or_eq_false_iff.mp hcheck).1

/-! ## A commit cause does not look at link, engine and mode (R51) -/

/-- The state with another link, engine and Start-up Controller. -/
def State.around (l : Link) (e : Engine) (u : Startup) (s : State) : State :=
  { s with link := l, engine := e, startup := u }

section
variable (l : Link) (e : Engine) (u : Startup) (id : StreamId) (s : State)

theorem streamOf_around : streamOf id (s.around l e u) = streamOf id s := by cases id <;> rfl

theorem modStream_around (f : Stream → Stream) :
    modStream id f (s.around l e u) = (modStream id f s).around l e u := by cases id <;> rfl

theorem closeOpen_around : closeOpen id (s.around l e u) = (closeOpen id s).around l e u := by
  unfold closeOpen
  rw [streamOf_around]
  split
  · rfl
  · rw [modStream_around]; rfl

theorem advancePage_around (g page : Nat) (final : Bool) :
    advancePage id g page final (s.around l e u) = (advancePage id g page final s).around l e u := by
  unfold advancePage
  split
  · exact closeOpen_around ..
  · rfl

theorem stopTimer_around : stopTimer id (s.around l e u) = (stopTimer id s).around l e u := by cases id <;> rfl

theorem bufferDest_around : bufferDest id (s.around l e u) = bufferDest id s := by
  unfold bufferDest
  rw [streamOf_around]
  rfl

theorem commitNow_around : commitNow id (s.around l e u) = (commitNow id s).around l e u := by
  cases hdest : bufferDest id s with
  | none => rw [commitNow_of_no_dest hdest, commitNow_of_no_dest ((bufferDest_around ..).trans hdest)]
  | some d =>
    obtain ⟨g, p⟩ := d
    have hpage : committedPage id g p (s.around l e u) = committedPage id g p s := by
      unfold committedPage
      rw [streamOf_around]
      rfl
    rw [commitNow_of_dest hdest, commitNow_of_dest ((bufferDest_around ..).trans hdest), hpage, streamOf_around,
      modStream_around, advancePage_around, stopTimer_around]
    rfl

theorem commitCause_around : commitCause id (s.around l e u) = (commitCause id s).around l e u := by
  unfold commitCause
  dsimp only
  rw [streamOf_around]
  split
  · rfl
  · split
    · exact commitNow_around ..
    · exact modStream_around ..

end

/-! ## The beginning (R69, R109, R124, R170) -/

/-- The mode of a FORMAT that has just begun, and its progress (R155, R170). -/
def formattingFrom (n : Nat) (u : Startup) : Startup :=
  { u with mode := .formatting, cause := none, format := some (Format.start n (u.mode == .unformatted)) }

/-- The link of a part in which a FORMAT in slot `n` has just begun: the slot ACTIVE and the notice queued (R156, R181). -/
def formattingLink (n : Nat) (l : Link) : Link :=
  { l with
    slots := Store.modify n (fun sl => { sl with state := .active }) l.slots
    notices := pushNotice (.modeChanged .formatting none) l.notices }

theorem formatBegins_takenSlot (n : Nat) (s : State) : formatBegins n (takenSlot n s) = withdrawPatrol (abandonEvacuation
    ((commitCause .host s).around (formattingLink n s.link) { s.engine with active := some n }
      (formattingFrom n s.startup))) := by
  rw [← commitCause_around]
  rfl

/-- What the beginning of a FORMAT leaves alone, and what it makes of mode, link and engine (R170). -/
theorem formatBegins_frame (n : Nat) (s : State) : formatBegins n (takenSlot n s) = { s with
    segs := (formatBegins n (takenSlot n s)).segs
    host := (commitCause .host s).host
    reloc := (formatBegins n (takenSlot n s)).reloc
    commitTimer := (commitCause .host s).commitTimer
    arr := (formatBegins n (takenSlot n s)).arr
    comp := (formatBegins n (takenSlot n s)).comp
    startup := formattingFrom n s.startup
    link := formattingLink n s.link
    engine := { s.engine with active := some n } } := by
  rw [formatBegins_takenSlot, withdrawPatrol, withdrawOf, abandonEvacuation_frame,
    (CommitTouches.commitCause .host s).frame]
  rfl

/-- A victim that is kept at the beginning of a FORMAT is being erased (R109). -/
theorem formatBegins_victim {n : Nat} {s : State} {v : Victim}
    (h : (formatBegins n (takenSlot n s)).comp.victim = some v) : v.phase = .erasing ∨ v.phase = .header := by
  rw [formatBegins_takenSlot] at h
  have hnot := (abandonEvacuation_victim (by exact h)).2
  have hiff := Victim.evacuating_iff v
  rw [hnot] at hiff
  by_cases herasing : v.phase = .erasing
  · exact .inl herasing
  · exact .inr (not_not.mp fun hheader => Bool.false_ne_true (hiff.mpr ⟨herasing, hheader⟩))

theorem abandonEvacuation_claimsChange (s : State) :
    ArrayCtl.ClaimsChange .relocate s.arr (abandonEvacuation s).arr := by
  rcases evacuating_or_not s with ⟨v, hv, he⟩ | h
  · rw [abandonEvacuation_of_evacuating hv he]; exact .withdraw ..
  · rw [abandonEvacuation_of_not h]; exact .refl ..

/-- The beginning of a FORMAT leaves the HOST claims of the commit cause as they are, and the Patrol Unit none (R77,
R124). -/
theorem formatBegins_claims (n : Nat) (s : State) :
    (formatBegins n (takenSlot n s)).arr.claimsOf .host = (commitCause .host s).arr.claimsOf .host ∧
      ∀ c ∈ (formatBegins n (takenSlot n s)).arr.claimsOf .patrol, c.origin ≠ .patrolUnit := by
  rw [formatBegins_takenSlot]
  generalize ht : (commitCause .host s).around (formattingLink n s.link) { s.engine with active := some n }
    (formattingFrom n s.startup) = t
  have harr : t.arr = (commitCause .host s).arr := by rw [← ht]; rfl
  have hpatrol := ArrayCtl.ClaimsChange.withdraw .patrol (fun c => c.origin == .patrolUnit) (abandonEvacuation t).arr
  refine ⟨?_, fun c hc => ?_⟩
  · rw [← harr]
    exact (hpatrol.claimsOf (by decide)).trans ((abandonEvacuation_claimsChange t).claimsOf (by decide))
  · have hleft : c ∈ ((abandonEvacuation t).arr.withdraw .patrol (fun c => c.origin == .patrolUnit)).claimsOf .patrol := hc
    simpa using (ArrayCtl.mem_claimsOf_withdraw hleft).2 rfl

theorem ArrayCtl.claimsOf_host_subset {a : ArrayCtl} {c : Claim} (h : c ∈ a.claimsOf .host) :
    c ∈ a.hostPlace.toList ++ a.outside :=
  (List.mem_append.mp h).elim (List.mem_append_left _) fun h => List.mem_append_right _ (List.mem_of_mem_filter h)

/-- Settles O34, by the checks in order and the frame of the beginning. -/
theorem formatChecksAndBegins : Obligations.FormatChecksAndBegins := by
  refine ⟨firstRefusal_formatChecks, fun s n h => ⟨fun st data hr => h.format_refused hr, fun hpass => ?_⟩⟩
  have hstranded := formatChecks_unstranded hpass
  have hframe := formatBegins_frame n s
  obtain ⟨hhost, hpatrol⟩ := formatBegins_claims n s
  have hvictim : ∀ v, (formatBegins n (takenSlot n s)).comp.victim = some v → v.phase = .erasing ∨ v.phase = .header :=
    fun _ => formatBegins_victim
  refine ⟨_, h.format_begins hpass, ?_⟩
  generalize formatBegins n (takenSlot n s) = u at hframe hhost hpatrol hvictim ⊢
  have huhost : u.host = (commitCause .host s).host := by rw [hframe]
  refine ⟨by rw [hframe]; rfl, by rw [hframe]; rfl, ⟨_, by rw [hframe]; rfl, rfl, rfl⟩, by rw [hframe]; rfl,
    by rw [hframe], ?_, by rw [hframe], by rw [hframe], by rw [hframe], by rw [hframe], by rw [hframe], huhost,
    by rw [hframe], fun hbuffer => ?_, fun hbuffer hflight => ?_, fun hbuffer hflight g p hdest => ?_, hvictim, hpatrol⟩
  · rw [hframe]
    exact Store.get_modify_same ..
  · rw [huhost, commitCause_without_effect (id := .host) (s := s) (.inr hbuffer)]
  · rw [huhost, commitCause_inFlight (id := .host) hstranded hbuffer (Option.isSome_iff_ne_none.mp hflight)]
    rfl
  · obtain ⟨hempty, tr, hpage, hclaim⟩ := commitCause_host_commits hstranded hbuffer hflight hdest
    rw [huhost]
    refine ⟨hempty, s.host.padded, tr, hpage, rfl, ?_⟩
    exact ArrayCtl.claimsOf_host_subset (hhost ▸ hclaim)

end Sys2Proof.Machine

/-! # The scan of mount and the records it makes (R161, R162, R165) -/

namespace Sys2Proof.Machine

/-! ## Going on to the next segment (R161) -/

theorem nextScanned_eq_some {s : State} {g h : Nat} (hfrom : g ≤ h) (hto : h < 1024) (hin : h ∉ s.cat.retired)
    (hleast : ∀ i, g ≤ i → i < h → i ∈ s.cat.retired) : nextScanned g s = some h :=
  Store.firstFrom_eq_some (by simpa using hin) hfrom (by simp only [Config.segments]; omega)
    fun i hi hlt => by simpa using hleast i hi hlt

theorem nextScanned_eq_none {s : State} {g : Nat} (h : ∀ i, g ≤ i → i < 1024 → i ∈ s.cat.retired) :
    nextScanned g s = none :=
  Store.firstFrom_eq_none fun i hi hlt => by
    simpa using h i hi (by simp only [Config.segments] at hlt; omega)

theorem scanFrom_of_next {s : State} {m : Mount} {g h : Nat} (hm : s.startup.mount = some m)
    (hnext : nextScanned g s = some h) : scanFrom g s = makeClaim .catalogue .startup (.read h 0)
      (s.withMount { m with phase := .scan, seg := h, page := 0, suspect := none }) := by
  rw [scanFrom, hnext]
  dsimp only
  rw [modMount_of_mount hm]
  rfl

theorem scanFrom_of_none {s : State} {g : Nat} (hnext : nextScanned g s = none) : scanFrom g s = mountStates s := by
  rw [scanFrom, hnext]

/-! ## The header of a segment (R161) -/

/-- An outcome shows no header: the check fails or the data is something else. -/
def Written.noHeader (w : Written) : Prop :=
  w.ownCheck = false ∨ ∀ n strikes stamp chk, w.data ≠ some (.segHeader n strikes stamp chk)

theorem headerOf_of_header {w : Written} {n strikes st : Nat} {chk : BitVec 32} (stamp : Nat) (hcheck : w.ownCheck = true)
    (hdata : w.data = some (.segHeader n strikes st chk)) : headerOf stamp (.written w) =
      if st = stamp then (.matching, n, strikes) else (.foreign, erasedCount n, strikes) := by
  simp only [headerOf, hcheck, hdata]

theorem headerCount_of_header {w : Written} {n strikes st : Nat} {chk : BitVec 32} (hcheck : w.ownCheck = true)
    (hdata : w.data = some (.segHeader n strikes st chk)) : headerCount (.written w) = n := by
  simp only [headerCount, hcheck, hdata]

theorem headerOf_of_noHeader {w : Written} (stamp : Nat) (h : w.noHeader) :
    headerOf stamp (.written w) = (.unreadable, 0, 0) := by
  unfold headerOf
  dsimp only
  split
  · next hcheck hdata => exact (h.elim (by simp [hcheck]) fun h => h _ _ _ _ hdata).elim
  · rfl

theorem headerCount_of_noHeader {w : Written} (h : w.noHeader) : headerCount (.written w) = 0 := by
  unfold headerCount
  dsimp only
  split
  · next hcheck hdata => exact (h.elim (by simp [hcheck]) fun h => h _ _ _ _ hdata).elim
  · rfl

/-- The mount progress with the mark of a header and the erase count it shows (R161). -/
def Mount.withMark (g : Nat) (k : ScanMark) (count : Nat) (m : Mount) : Mount :=
  { m with marks := Store.put g k m.marks, highestErase := max m.highestErase count }

section

variable {s : State} {m : Mount} (hm : s.startup.mount = some m) (hphase : m.phase = .scan)

include hm hphase

theorem startupReadEnded_scan_header (g : Nat) (o : ReadOutcome) :
    startupReadEnded g 0 o s = scanHeader g o s := by
  simp only [startupReadEnded, hm, mountRead, hphase, if_true]

theorem startupReadEnded_scan_page (g : Nat) {page : Nat} (hpage : page ≠ 0) (o : ReadOutcome) :
    startupReadEnded g page o s = scanPage g page o s := by
  simp only [startupReadEnded, hm, mountRead, hphase, if_neg hpage]

theorem startupReadEnded_header_of_own {g : Nat} {o : ReadOutcome} {k : ScanMark}
    (hk : headerMark s.cat.formatStamp o = k) (hown : k.header ≠ .foreign) : startupReadEnded g 0 o s =
      makeClaim .catalogue .startup (.read g 1) (s.withMount { m.withMark g k (headerCount o) with page := 1 }) := by
  rw [startupReadEnded_scan_header hm hphase, scanHeader, hk, if_neg hown, modMount_of_mount hm]
  rfl

theorem startupReadEnded_header_of_foreign {g : Nat} {o : ReadOutcome} {k : ScanMark}
    (hk : headerMark s.cat.formatStamp o = k) (hforeign : k.header = .foreign) :
    startupReadEnded g 0 o s = scanFrom (g + 1) (s.withMount (m.withMark g k (headerCount o))) := by
  rw [startupReadEnded_scan_header hm hphase, scanHeader, hk, if_pos hforeign, modMount_of_mount hm]
  rfl

end

theorem headerMark_of_header {w : Written} {n strikes st : Nat} {chk : BitVec 32} (stamp : Nat) (hcheck : w.ownCheck = true)
    (hdata : w.data = some (.segHeader n strikes st chk)) :
    (headerMark stamp (.written w)).strikes = strikes ∧ (headerMark stamp (.written w)).reason = none ∧
      (st = stamp → (headerMark stamp (.written w)).header = .matching ∧
        (headerMark stamp (.written w)).eraseCount = n) ∧
      (st ≠ stamp → (headerMark stamp (.written w)).header = .foreign ∧
        (headerMark stamp (.written w)).eraseCount = min (n + 1) 1000000) := by
  by_cases hst : st = stamp <;>
    simp [headerMark, headerOf_of_header stamp hcheck hdata, hst, erasedCount, Config.eraseCap]

theorem headerMark_of_noHeader {w : Written} (stamp : Nat) (h : w.noHeader) :
    (headerMark stamp (.written w)).header = .unreadable ∧
      (headerMark stamp (.written w)).reason = some .uncorrectable := by
  simp [headerMark, headerOf_of_noHeader stamp h]

/-! ## An entry page (R162) -/

/-- The mount progress after a written entry page: what it adds, the page before it if that was in doubt, and its own
page check (R162). -/
def Mount.afterPage (threshold g page : Nat) (w : Written) (m : Mount) : Mount :=
  (settleDamaged threshold g (m.takePage g w)).judgePage threshold g page w

/-- The mount progress after a written entry page, at the last page with that page's own doubt settled (R162). -/
def Mount.afterWritten (threshold g page : Nat) (w : Written) (m : Mount) : Mount :=
  if page < 47 then { m.afterPage threshold g page w with page := page + 1 }
  else settleTorn (m.afterPage threshold g page w)

/-- The mount progress after an entry page (R162). -/
def Mount.afterOutcome (threshold g page : Nat) (o : ReadOutcome) (m : Mount) : Mount :=
  match o with
  | .blank => settleTorn m
  | .written w => m.afterWritten threshold g page w

section

variable {s : State} {m : Mount} (hm : s.startup.mount = some m)

include hm

theorem scanPage_goes_on (g : Nat) {page : Nat} {o : ReadOutcome} (ho : o ≠ .blank) (hpage : page < 47) :
    scanPage g page o s = makeClaim .catalogue .startup (.read g (page + 1))
      (s.withMount (m.afterOutcome s.params.threshold g page o)) := by
  cases o with
  | blank => exact absurd rfl ho
  | written w =>
    have hlast : page < Config.lastPage := hpage
    rw [scanPage, Mount.afterOutcome, Mount.afterWritten, if_pos hpage]
    dsimp only
    rw [if_pos hlast, modMount_of_mount hm]
    rfl

theorem scanPage_ends (g : Nat) {page : Nat} {o : ReadOutcome} (h : o = .blank ∨ 47 ≤ page) :
    scanPage g page o s = scanFrom (g + 1) (s.withMount (m.afterOutcome s.params.threshold g page o)) := by
  cases o with
  | blank =>
    rw [scanPage, modMount_of_mount hm]
    rfl
  | written w =>
    have hge : ¬ page < 47 := Nat.not_lt.mpr (h.resolve_left (by simp))
    have hlast : ¬ page < Config.lastPage := hge
    rw [scanPage, Mount.afterOutcome, Mount.afterWritten, if_neg hge, if_neg hlast, modMount_of_mount hm]
    rfl

end

theorem settleTorn_eq (m : Mount) :
    settleTorn m = { m with suspect := none, torn := m.torn + (if m.suspect.isSome then 1 else 0) } := by
  cases m with | mk => next suspect _ => cases suspect <;> rfl

/-- What `settleDamaged` and `judgePage` do to the fields of the progress that no mark is in. -/
theorem afterPage_frame (threshold g page : Nat) (w : Written) (m : Mount) :
    (m.afterPage threshold g page w).highestSeq = max m.highestSeq ((w.trailer.bind Trailer.highest).getD 0) ∧
    (m.afterPage threshold g page w).highestStamp = max m.highestStamp ((w.trailer.map Trailer.stamp).getD 0) ∧
    (m.afterPage threshold g page w).damaged = m.damaged + (if m.suspect.isSome then 1 else 0) ∧
    (m.afterPage threshold g page w).torn = m.torn ∧
    (m.afterPage threshold g page w).suspect = (if w.pageCheck = false then some (page, w) else none) ∧
    (m.afterPage threshold g page w).unreadable =
      m.unreadable + ((m.suspect.map (fun x => Codewords.lostCount x.2.codewords)).getD 0) := by
  cases m with | mk => next suspect _ =>
    cases suspect <;> cases hcheck : w.pageCheck <;>
      simp [Mount.afterPage, Mount.takePage, settleDamaged, Mount.judgePage, Mount.damagedPage, hcheck]

theorem afterPage_candidates (threshold g page : Nat) (w : Written) (m : Mount) :
    (m.afterPage threshold g page w).candidates = m.candidates ++
      (match m.suspect with
        | some (p, v) => candidatesOf g p v (entryPasses v)
        | none => []) ++
      (if w.pageCheck = true then candidatesOf g page w (fun _ _ => true) else []) := by
  cases m with | mk => next suspect _ =>
    cases suspect <;> cases hcheck : w.pageCheck <;>
      simp [Mount.afterPage, Mount.takePage, settleDamaged, Mount.judgePage, Mount.damagedPage, hcheck]

/-- What a page makes of the mark of its segment: its own share, the damage of the page before it, and its MARGINAL
codewords if its check passes (R162). -/
def ScanMark.afterPage (threshold : Nat) (w : Written) (suspect : Option (Nat × Written)) (k : ScanMark) : ScanMark :=
  let taken := k.takePage w
  let settled := match suspect with
    | none => taken
    | some (_, v) => { taken.markMarginal threshold v with reason := some .uncorrectable }
  if w.pageCheck then settled.markMarginal threshold w else settled

theorem afterPage_marks_same (threshold g page : Nat) (w : Written) (m : Mount) :
    Store.get g (m.afterPage threshold g page w).marks =
      (Store.get g m.marks).map (ScanMark.afterPage threshold w m.suspect) := by
  cases m with | mk => next marks suspect _ =>
    cases suspect <;> cases hcheck : w.pageCheck <;> cases hmark : Store.get g marks <;>
      simp [Mount.afterPage, Mount.takePage, settleDamaged, Mount.judgePage, Mount.damagedPage, hcheck,
        ScanMark.afterPage, Store.get_modify_same, hmark]

theorem afterPage_marks_other {g h : Nat} (hne : h ≠ g) (threshold page : Nat) (w : Written) (m : Mount) :
    Store.get h (m.afterPage threshold g page w).marks = Store.get h m.marks := by
  cases m with | mk => next marks suspect _ =>
    cases suspect <;> cases hcheck : w.pageCheck <;>
      simp [Mount.afterPage, Mount.takePage, settleDamaged, Mount.judgePage, Mount.damagedPage, hcheck,
        Store.get_modify_other hne]

theorem minOpt_eq_lowestOf (a b : Option Nat) : minOpt a b = lowestOf (a.toList ++ b.toList) := by
  cases a <;> cases b <;> rfl

theorem maxOpt_eq_highestOf (a b : Option Nat) : maxOpt a b = highestOf (a.toList ++ b.toList) := by
  cases a <;> cases b <;> rfl

/-- MARGINAL codewords reach the reason of a mark only. -/
theorem markMarginal_eq (threshold : Nat) (w : Written) (k : ScanMark) : k.markMarginal threshold w =
    { k with reason := if w.hasMarginal threshold ∧ k.reason = none then some .threshold else k.reason } := by
  unfold ScanMark.markMarginal
  split <;> rfl

/-- A page and the one before it change nothing of a mark beside its own share but the reason. -/
theorem scanMark_afterPage (threshold : Nat) (w : Written) (suspect : Option (Nat × Written)) (k : ScanMark) :
    k.afterPage threshold w suspect = { k.takePage w with reason := match suspect with
      | some _ => some .uncorrectable
      | none => if w.pageCheck = true ∧ w.hasMarginal threshold = true ∧ k.reason = none then some .threshold
        else k.reason } := by
  cases suspect <;> cases hcheck : w.pageCheck <;>
    simp [ScanMark.afterPage, markMarginal_eq, hcheck, ScanMark.takePage]

/-- The last page settles its own doubt, and nothing else (R162). -/
theorem afterWritten_eq (threshold g page : Nat) (w : Written) (m : Mount) :
    m.afterWritten threshold g page w = { m.afterPage threshold g page w with
      page := if page < 47 then page + 1 else (m.afterPage threshold g page w).page
      torn := m.torn + (if 47 ≤ page ∧ w.pageCheck = false then 1 else 0)
      suspect := if page < 47 ∧ w.pageCheck = false then some (page, w) else none } := by
  obtain ⟨-, -, -, htorn, hsuspect, -⟩ := afterPage_frame threshold g page w m
  unfold Mount.afterWritten
  split
  · next hlt =>
    rw [← htorn]
    simp [hlt, Nat.not_le.mpr hlt, ← hsuspect]
  · next hge =>
    rw [settleTorn_eq, htorn, hsuspect]
    cases w.pageCheck <;> simp [hge, Nat.not_lt.mp hge]

/-- The mark of a segment after one of its entry pages (R162). -/
theorem afterWritten_mark {threshold g page : Nat} {w : Written} {m : Mount} {k : ScanMark}
    (h : Store.get g m.marks = some k) :
    ∃ k', Store.get g (m.afterWritten threshold g page w).marks = some k' ∧ k'.hasPages = true ∧
      k'.header = k.header ∧ k'.eraseCount = k.eraseCount ∧ k'.strikes = k.strikes ∧
      k'.lowestSeq = lowestOf (k.lowestSeq.toList ++ (w.trailer.bind Trailer.lowest).toList) ∧
      k'.openStamp = highestOf (k.openStamp.toList ++ (w.trailer.map Trailer.stamp).toList) ∧
      k'.worst = Health.worse k.worst (Codewords.worst w.codewords) ∧
      (m.suspect.isSome → k'.reason = some .uncorrectable) ∧
      (m.suspect = none → k'.reason = if w.pageCheck = true ∧ w.hasMarginal threshold = true ∧ k.reason = none
        then some .threshold else k.reason) := by
  refine ⟨k.afterPage threshold w m.suspect, ?_, ?_⟩
  · exact (congrArg (Store.get g) (congrArg Mount.marks (afterWritten_eq ..))).trans
      ((afterPage_marks_same ..).trans (congrArg _ h))
  · rw [scanMark_afterPage]
    refine ⟨rfl, rfl, rfl, rfl, minOpt_eq_lowestOf _ _, maxOpt_eq_highestOf _ _, rfl, fun hsome => ?_, fun hnone => ?_⟩
    · obtain ⟨x, hx⟩ := Option.isSome_iff_exists.mp hsome
      rw [hx]
    · rw [hnone]

/-! ## The candidates of a page (R159, R162) -/

theorem candidateOf_eq_some {loc : Loc} {stamp : Nat} {e : Entry} {c : Candidate} :
    candidateOf loc stamp e = some c ↔
      (∃ k q len chk v, e = .record k q len chk v ∧ c = ⟨k, q, some len, cellsOf len, loc, stamp⟩) ∨
      ∃ k q, e = .tombstone k q ∧ c = ⟨k, q, none, 1, loc, stamp⟩ := by
  cases e <;> simp [candidateOf, eq_comm]

theorem mem_candidatesOf {g page : Nat} {w : Written} {ok : Nat → Entry → Bool} {c : Candidate} :
    c ∈ candidatesOf g page w ok ↔ ∃ tr cell e, w.trailer = some tr ∧ cell ∈ tr.starts ∧ w.entryAt cell = some e ∧
      ok cell e = true ∧ candidateOf ⟨g, page, cell⟩ tr.stamp e = some c := by
  unfold candidatesOf
  cases htrailer : w.trailer with
  | none => simp
  | some tr =>
    simp only [List.mem_filterMap, Option.some.injEq, exists_and_left, exists_eq_left']
    refine exists_congr fun cell => and_congr_right fun _ => ?_
    cases hentry : w.entryAt cell with
    | none => simp
    | some e => cases hok : ok cell e <;> simp [hok]

/-! ## The records (R161, R165) -/

theorem get_putAll_mem {g : Nat} {gs : List Nat} (h : g ∈ gs) (r : SegRec) (l : List (Nat × SegRec)) :
    Store.get g (gs.foldl (fun t g => Store.put g r t) l) = some r := by
  induction gs using List.reverseRecOn with
  | nil => cases h
  | append_singleton gs a ih =>
    rw [List.foldl_append]
    by_cases hga : g = a
    · subst hga
      exact Store.get_put_same ..
    · have hmem : g ∈ gs := (List.mem_append.mp h).resolve_right (by simpa using hga)
      exact (Store.get_put_other hga r _).trans (ih hmem)

theorem get_putAll_other {g : Nat} {gs : List Nat} (h : g ∉ gs) (r : SegRec) (l : List (Nat × SegRec)) :
    Store.get g (gs.foldl (fun t g => Store.put g r t) l) = Store.get g l := by
  induction gs generalizing l with
  | nil => rfl
  | cons a gs ih =>
    obtain ⟨hga, hgs⟩ := not_or.mp (mt List.mem_cons.mpr h)
    exact (ih hgs _).trans (Store.get_put_other hga r l)

theorem forErasing_iff (k : ScanMark) :
    k.forErasing = true ↔ k.header = .foreign ∨ (k.header ≠ .matching ∧ k.hasPages = false) := by
  unfold ScanMark.forErasing
  cases hheader : k.header <;> simp

theorem countsOf_eq (highest : Nat) (k : ScanMark) : k.countsOf highest =
    if k.header = .blank ∨ k.header = .unreadable then (highest, 0) else (k.eraseCount, k.strikes) := by
  unfold ScanMark.countsOf
  cases hheader : k.header <;> simp

section

variable {m : Mount} {s : State} {g : Nat} {k : ScanMark}

theorem scanRecords_retired (h : g ∈ s.cat.retired) : Store.get g (scanRecords m s) = some retiredRecord :=
  get_putAll_mem h _ _

theorem scanRecords_scanned (hm : Store.Canonical m.marks) (hk : Store.get g m.marks = some k)
    (hin : g ∉ s.cat.retired) : Store.get g (scanRecords m s) =
      if k.forErasing then none else some (recordOf m.highestErase s.index g k) := by
  rw [scanRecords, get_putAll_other hin, Store.get_mapVals, Store.get_filter_vals hm (fun p => !p.2.forErasing), hk]
  cases hfor : k.forErasing <;> simp [hfor]

theorem mem_eraseMarks (hk : Store.get g m.marks = some k) (hfor : k.forErasing = true) :
    (⟨g, (k.countsOf m.highestErase).1, (k.countsOf m.highestErase).2, k.worst⟩ : EraseMark) ∈ eraseMarks m :=
  List.mem_map.mpr ⟨(g, k), List.mem_filter.mpr ⟨Store.mem_of_get hk, hfor⟩, rfl⟩

end

/-- The state in which mount has made its index and its records and takes the first segment to erase (R163 to R166). -/
theorem mountStates_of_mount {s : State} {m : Mount} (h : s.startup.mount = some m) :
    let t := buildIndex m s
    mountStates s = eraseNext (modMount
      (fun m => { m with phase := .states, toErase := eraseMarks m, marks := [], candidates := [] })
      { t with
        segs := scanRecords m t
        urgent := membersWith .uncorrectable (scanRecords m t)
        ordinary := membersWith .threshold (scanRecords m t) }) := by
  simp only [mountStates, h]

/-- Settles O60, the header, the entry pages, the candidates, the way on and the records one after the other. -/
theorem mountScansAndMakesRecords : Obligations.MountScansAndMakesRecords := by
  refine ⟨fun s m g o hm hphase => ?_, fun s m g page o hm hphase hpage => ?_, fun g page w ok c => ?_, fun s g => ?_,
    fun s m hm => ⟨_, mountStates_of_mount hm, rfl, rfl, rfl, rfl⟩, fun m s hmarks => ⟨fun g => scanRecords_retired, ?_⟩⟩
  · refine ⟨headerMark s.cat.formatStamp o, headerCount o, startupReadEnded_header_of_own hm hphase rfl,
      startupReadEnded_header_of_foreign hm hphase rfl, rfl, rfl, rfl, ?_, ?_⟩
    · rintro rfl
      exact ⟨rfl, rfl, rfl, rfl⟩
    · rintro w rfl
      refine ⟨rfl, fun n strikes stamp chk hcheck hdata => ⟨headerCount_of_header hcheck hdata,
        headerMark_of_header _ hcheck hdata⟩, fun hno => ?_⟩
      obtain ⟨hheader, hreason⟩ := headerMark_of_noHeader s.cat.formatStamp hno
      exact ⟨hheader, hreason, headerCount_of_noHeader hno⟩
  · rw [startupReadEnded_scan_page hm hphase g hpage]
    refine ⟨_, scanPage_goes_on hm g, scanPage_ends hm g, ?_, ?_⟩
    · rintro rfl
      exact settleTorn_eq m
    · rintro w rfl
      obtain ⟨hseq, hstamp, hdamaged, -, -, hlost⟩ := afterPage_frame s.params.threshold g page w m
      have hmark := fun k hk => afterWritten_mark (threshold := s.params.threshold) (page := page) (w := w) (k := k)
        (m := m) (g := g) hk
      rw [Mount.afterOutcome]
      simp only [afterWritten_eq] at hmark ⊢
      exact ⟨hseq, hstamp, hdamaged, trivial, trivial, afterPage_candidates .., fun h hne => afterPage_marks_other hne ..,
        hlost, hmark⟩
  · rw [mem_candidatesOf]
    simp only [candidateOf_eq_some]
  · exact ⟨fun h hfrom hto hin hleast m hm => scanFrom_of_next hm (nextScanned_eq_some hfrom hto hin hleast),
      fun h => scanFrom_of_none (nextScanned_eq_none h)⟩
  · intro g k hk hin
    have hget := scanRecords_scanned hmarks hk hin
    have hmem := mem_eraseMarks hk
    rw [countsOf_eq] at hmem
    simp only [← forErasing_iff]
    refine ⟨fun hfor => ⟨hget.trans (if_pos hfor), hmem hfor⟩, fun hfor hpages => ?_, fun hfor hpages => ?_⟩
    · simp [hget, hfor, recordOf, hpages, countsOf_eq]
    · simp [hget, hfor, recordOf, hpages, countsOf_eq]

end Sys2Proof.Machine

/-! # The winners of mount, its erases and its end (R163 to R168) -/

namespace Sys2Proof.Machine

/-! ## A cause reported while the part is not READY (R156) -/

theorem reportCause_pending {s : State} {c : Cause} (hmode : s.startup.mode = .mounting ∨ s.startup.mode = .formatting)
    (hnone : s.startup.pendingCause = none) :
    reportCause c s = { s with startup := { s.startup with pendingCause := some c } } := by
  rcases hmode with hmode | hmode <;> simp [reportCause, hmode, hnone]

theorem reportCause_kept {s : State} {c : Cause} (hmode : s.startup.mode = .mounting ∨ s.startup.mode = .formatting)
    (hsome : s.startup.pendingCause ≠ none) : reportCause c s = s := by
  obtain ⟨d, hd⟩ := Option.ne_none_iff_exists'.mp hsome
  rcases hmode with hmode | hmode <;> simp [reportCause, hmode, hd]

theorem reportCause_mount (c : Cause) (s : State) : (reportCause c s).startup.mount = s.startup.mount := by
  rcases reportCause_cases c s with ⟨_, e⟩ | ⟨_, e | e⟩
  · rw [e, enterReadOnly_startup]
  · rw [e]
  · rw [e]

/-! ## The erases (R166, R146) -/

theorem reportCondemned_mount (g : Nat) (s : State) : (reportCondemned g s).startup.mount = s.startup.mount := by
  rcases reportCondemned_cases g s with e | e | e
  · rw [e]
  · rw [e]; rfl
  · rw [e, reportCause_mount]

section

variable {g : Nat} {s : State}

theorem reportCondemned_listed (h : g ∈ s.cat.retired ∨ WaiterWho.segment g ∈ s.cat.waiters.map Waiter.who) :
    reportCondemned g s = s := by
  rw [← Catalogue.mem_condemnedWaiters] at h
  rw [reportCondemned, if_pos h]

variable (hnew : ¬ (g ∈ s.cat.retired ∨ WaiterWho.segment g ∈ s.cat.waiters.map Waiter.who))

include hnew

theorem reportCondemned_waits (hroom : s.cat.retired.length + s.cat.condemnedWaiters.length < 96)
    (hfailed : s.cat.failed = false) : reportCondemned g s = addWaiter (.segment g) s := by
  rw [← Catalogue.mem_condemnedWaiters] at hnew
  have hroom' : s.cat.retired.length + s.cat.condemnedWaiters.length < Config.retiredCapacity := hroom
  rw [reportCondemned, if_neg hnew, if_pos hroom', hfailed]
  rfl

theorem reportCondemned_refused (hfull : ¬ s.cat.retired.length + s.cat.condemnedWaiters.length < 96) :
    reportCondemned g s = reportCause .retiredListFull s := by
  rw [← Catalogue.mem_condemnedWaiters] at hnew
  have hfull' : ¬ s.cat.retired.length + s.cat.condemnedWaiters.length < Config.retiredCapacity := hfull
  rw [reportCondemned, if_neg hnew, if_neg hfull']

end

theorem eraseTaken_of_mount {s : State} {m : Mount} (h : s.startup.mount = some m) :
    eraseTaken s = eraseNext (s.withMount { m with toErase := m.toErase.tail }) := by
  rw [eraseTaken, modMount_of_mount h]

/-- The state with a record that mount makes for a segment it erases (R166). -/
def State.withErased (s : State) (st : SegState) (e : EraseMark) (worst : Health) (c : Option CondemnCause) : State :=
  { s with segs := Store.put e.seg (mountRecord st e worst c) s.segs }

/-- The state in which the erase or the header of a segment has failed (R166(2)). -/
def State.condemned (s : State) (e : EraseMark) : State := s.withErased .condemned e e.worst (some .eraseFault)

/-- The state in which a segment that failed has been reported to the writer (R166(2)). -/
def State.faulted (s : State) (e : EraseMark) : State :=
  reportCondemned e.seg (s.condemned e)

theorem faulted_listed {s : State} {e : EraseMark}
    (h : e.seg ∈ s.cat.retired ∨ WaiterWho.segment e.seg ∈ s.cat.waiters.map Waiter.who) :
    s.faulted e = s.condemned e :=
  reportCondemned_listed (s := s.condemned e) h

section

variable {s : State} {e : EraseMark}
variable (hnew : ¬ (e.seg ∈ s.cat.retired ∨ WaiterWho.segment e.seg ∈ s.cat.waiters.map Waiter.who))

include hnew

theorem faulted_waits (hroom : s.cat.retired.length + s.cat.condemnedWaiters.length < 96)
    (hfailed : s.cat.failed = false) : s.faulted e = addWaiter (.segment e.seg) (s.condemned e) :=
  reportCondemned_waits (s := s.condemned e) hnew hroom hfailed

variable (hfull : ¬ s.cat.retired.length + s.cat.condemnedWaiters.length < 96) (hmode : s.startup.mode = .mounting)

include hfull hmode

theorem faulted_pending (hnone : s.startup.pendingCause = none) : s.faulted e =
    { s.condemned e with startup := { s.startup with pendingCause := some .retiredListFull } } :=
  (reportCondemned_refused (s := s.condemned e) hnew hfull).trans (reportCause_pending (.inl hmode) hnone)

theorem faulted_kept (hsome : s.startup.pendingCause ≠ none) : s.faulted e = s.condemned e :=
  (reportCondemned_refused (s := s.condemned e) hnew hfull).trans (reportCause_kept (.inl hmode) hsome)

end

section

variable {s : State} {m : Mount} {e : EraseMark} {rest : List EraseMark}
variable (hm : s.startup.mount = some m) (he : m.toErase = e :: rest)

include hm he

theorem eraseNext_cons : eraseNext s =
    makeClaim .catalogue .startup (.erase e.seg) (s.withErased .erasing e e.worst none) := by
  simp only [eraseNext, hm, he, State.withErased]

theorem mountEraseFault_eq : mountEraseFault e s = eraseNext ((s.faulted e).withMount { m with toErase := rest }) := by
  have hmount : (s.faulted e).startup.mount = some m := (reportCondemned_mount ..).trans hm
  have h := eraseTaken_of_mount hmount
  rw [he] at h
  exact h

theorem startupErased_mount_fail :
    startupErased false s = eraseNext ((s.faulted e).withMount { m with toErase := rest }) := by
  rw [← mountEraseFault_eq hm he]
  simp [startupErased, hm, mountErased, he]

theorem startupHeader_mount_fail :
    startupHeader false s = eraseNext ((s.faulted e).withMount { m with toErase := rest }) := by
  rw [← mountEraseFault_eq hm he]
  simp [startupHeader, hm, mountHeader, he]

theorem startupErased_mount_ok : startupErased true s = makeClaim .catalogue .startup
    (.program e.seg 0 (segHeader e.eraseCount e.strikes s.cat.formatStamp)) s := by
  simp [startupErased, hm, mountErased, he]

theorem startupHeader_mount_ok : startupHeader true s =
    eraseNext ((s.withErased .free e (.bits 0) none).withMount { m with toErase := rest }) := by
  have hmount : (s.withErased .free e (.bits 0) none).startup.mount = some m := hm
  have h := eraseTaken_of_mount hmount
  rw [he] at h
  rw [← List.tail_cons (a := e) (as := rest), ← h]
  simp [startupHeader, hm, mountHeader, he, State.withErased]

end

/-! ## The end of mount (R167, R168) -/

theorem lt_highestClear_iff {n : Nat} {s : State} :
    n < highestClear s ↔ ∃ c ∈ s.spaces.map (fun p => p.2.clearSeq), n < c :=
  lt_highestOf_iff

theorem highestClear_eq {c : Nat} {s : State} (hmem : c ∈ s.spaces.map (fun p => p.2.clearSeq))
    (hle : ∀ d ∈ s.spaces.map (fun p => p.2.clearSeq), d ≤ c) : highestClear s = c := by
  rw [highestClear, highestOf_eq_some hmem hle]; rfl

theorem setNextSeq_frame (highest : Nat) (s : State) : setNextSeq highest s =
    { s with nextSeq := (setNextSeq highest s).nextSeq, freeDraws := (setNextSeq highest s).freeDraws } := by
  unfold setNextSeq seqAfter
  split
  · rfl
  · split <;> rfl

theorem setNextSeq_of_clear {highest c : Nat} {s : State} (hlt : highest < c)
    (hmem : c ∈ s.spaces.map (fun p => p.2.clearSeq)) (hle : ∀ d ∈ s.spaces.map (fun p => p.2.clearSeq), d ≤ c) :
    (setNextSeq highest s).nextSeq = some c := by
  rw [setNextSeq, highestClear_eq hmem hle, if_pos hlt]

theorem setNextSeq_of_found {highest : Nat} {s : State} (hle : ∀ d ∈ s.spaces.map (fun p => p.2.clearSeq), d ≤ highest)
    (hlt : highest + 1 < 2 ^ 48) : (setNextSeq highest s).nextSeq = some (highest + 1) := by
  have hclear : ¬ highest < highestClear s := fun h => by
    obtain ⟨c, hc, hgt⟩ := lt_highestClear_iff.mp h
    exact absurd (hle c hc) (Nat.not_le.mpr hgt)
  rw [setNextSeq, if_neg hclear, seqAfter, if_pos (show highest + 1 < Config.seqBound from hlt)]

/-- Mount raises the quotas, and sets the counters and the dirty flag (R167). -/
theorem setCounters_frame (m : Mount) (s : State) : setCounters m s = { s with
    nextSeq := (setNextSeq m.highestSeq s).nextSeq
    freeDraws := (setNextSeq m.highestSeq s).freeDraws
    nextStamp := mountStamp m s
    freeCount := countFree s
    spaces := Store.mapVals (fun _ r => raiseQuota r) s.spaces
    cat := { s.cat with dirty := s.cat.dirty || s.spaces.any (fun p => raiseQuota p.2 != p.2) } } := by
  rw [setCounters, setNextSeq_frame]; rfl

theorem raiseQuota_eq (r : SpaceRec) : raiseQuota r = { r with quota := r.quota.map (fun q => max q r.usage) } := by
  obtain ⟨policy, pin, frozen, quota, usage, keys, clear⟩ := r
  unfold raiseQuota
  cases quota with
  | none => rfl
  | some q =>
    dsimp only [Option.map_some]
    split
    · next h => rw [Nat.max_eq_right (Nat.le_of_lt h)]
    · next h => rw [Nat.max_eq_left (Nat.le_of_not_lt h)]

theorem raiseQuota_ne_iff (r : SpaceRec) : raiseQuota r ≠ r ↔ ∃ q, r.quota = some q ∧ q < r.usage := by
  obtain ⟨policy, pin, frozen, quota, usage, keys, clear⟩ := r
  cases quota with
  | none => simp [raiseQuota]
  | some q =>
    simp only [raiseQuota, Option.some.injEq, exists_eq_left']
    split
    · next h => simp [h, Nat.ne_of_gt h]
    · next h => simp [h]

/-- The open stamp counter is one more than the highest stamp found, in a trailer or a record (R33). -/
theorem mountStamp_eq {m : Mount} {s : State} {x : Nat} (hmem : x ∈ m.highestStamp :: s.segs.filterMap (fun p => p.2.openStamp))
    (hle : ∀ y ∈ m.highestStamp :: s.segs.filterMap (fun p => p.2.openStamp), y ≤ x) :
    mountStamp m s = if x + 1 < 2 ^ 32 then some (x + 1) else none := by
  have hx : highestStampOf m s = x := by
    have hfound : m.highestStamp ≤ x := hle _ List.mem_cons_self
    have hrecords : ¬ x < (highestOf (s.segs.filterMap (fun p => p.2.openStamp))).getD 0 := fun h => by
      obtain ⟨y, hy, hgt⟩ := lt_highestOf_iff.mp h
      exact absurd (hle y (List.mem_cons_of_mem _ hy)) (Nat.not_le.mpr hgt)
    rw [highestStampOf]
    rcases List.mem_cons.mp hmem with rfl | hy
    · omega
    · rw [highestOf_eq_some hy fun y h => hle y (List.mem_cons_of_mem _ h)]
      exact Nat.max_eq_right hfound
  rw [mountStamp, hx]
  split
  · next h => subst h; rfl
  · rfl

/-- The low-free condition and its notice are settled by the free count (R30, R168(a)). -/
theorem settleLowFree_eq (s : State) : settleLowFree s = { s with
    lowFree := decide (s.freeCount ≤ 4)
    link := { s.link with notices :=
      if s.freeCount ≤ 4 ∧ s.lowFree = false then pushNotice (.spaceLow s.freeCount) s.link.notices
      else s.link.notices } } := by
  have hfour : Config.hostReserve = 4 := rfl
  unfold settleLowFree
  rw [hfour]
  split
  · next hle =>
    split
    · next hlow =>
      have hsame : decide (s.freeCount ≤ 4) = s.lowFree := by simp [hle, hlow]
      rw [hsame, if_neg (by simp [hlow])]
    · next hlow => simp [hle, hlow, queueNotice]
  · next hgt => simp [hgt]

/-- With no evacuation and no RELOCATE buffer an entry into READ_ONLY leaves the segment records as they are (R107). -/
theorem enterReadOnly_segs {s : State} (c : Cause) (hvictim : s.comp.victim = none) (hbuffer : s.reloc.buffer = []) :
    (enterReadOnly c s).segs = s.segs := by
  let t := changeMode .readOnly (some c) s
  have hnot : ∀ v, (dropHostWaiting t).comp.victim = some v → v.evacuating = false := fun v hv => by
    rw [dropHostWaiting_frame] at hv
    cases hvictim.symm.trans hv
  have hended : relocationEnded t = dropHostWaiting t :=
    (relocationEnded_of_empty (s := t) hbuffer).trans (abandonEvacuation_of_not hnot)
  rw [enterReadOnly, readOnlyEffects_frame]
  change (relocationEnded t).segs = _
  rw [hended, dropHostWaiting_frame]
  rfl

/-- The end of mount leaves the store and the counters as they are (R168, R156). -/
theorem mountEnds_frame {s : State} (hvictim : s.comp.victim = none) (hbuffer : s.reloc.buffer = []) :
    mountEnds s = { s with
      startup := (mountEnds s).startup
      link := { s.link with slots := (mountEnds s).link.slots, notices := (mountEnds s).link.notices }
      engine := (mountEnds s).engine, arr := (mountEnds s).arr, comp := (mountEnds s).comp
      host := { s.host with waiting := (mountEnds s).host.waiting }, reloc := (mountEnds s).reloc } := by
  cases hpending : s.startup.pendingCause with
  | none => simp only [mountEnds, hpending]
  | some c =>
    let t : State := { s with startup := { s.startup with mount := none, pendingCause := none } }
    have hends : mountEnds s = enterReadOnly c t := by simp only [mountEnds, hpending]; rfl
    have hframe := (enterReadOnly_touches c t).frame
    have hsegs := enterReadOnly_segs (s := t) c hvictim hbuffer
    rw [hends]
    rw [hsegs] at hframe
    exact hframe

theorem mountEnds_ready {s : State} (h : s.startup.pendingCause = none) :
    (mountEnds s).startup = { s.startup with mount := none, mode := .ready } ∧
      (mountEnds s).link.notices = s.link.notices := by
  simp [mountEnds, h]

theorem mountEnds_readOnly {s : State} {c : Cause} (h : s.startup.pendingCause = some c) :
    (mountEnds s).startup = { s.startup with mount := none, pendingCause := none, mode := .readOnly, cause := some c } ∧
      (mountEnds s).link.notices = pushNotice (.modeChanged .readOnly (some c)) s.link.notices := by
  have hends : mountEnds s =
      enterReadOnly c { s with startup := { s.startup with mount := none, pendingCause := none } } := by
    simp only [mountEnds, h]
  rw [hends, enterReadOnly_startup, enterReadOnly_notices]
  exact ⟨rfl, rfl⟩

theorem mountEnds_mode (s : State) : (mountEnds s).startup.mode ≠ .formatting := by
  cases h : s.startup.pendingCause with
  | none => simp [(mountEnds_ready h).1]
  | some c => simp [(mountEnds_readOnly h).1]

/-- The queue of the notices after the MOUNTED notice (R168(a)). -/
def mountedNotices (m : Mount) (x : Mode) (s : State) : List Notice :=
  pushNotice (.mounted x s.index.length m.torn m.damaged m.unreadable) s.link.notices

/-- Mount has set its counters and queued its MOUNTED notice (R167, R168(a)). -/
def mountCounted (m : Mount) (s : State) : State :=
  let t := setCounters m s
  queueNotice (.mounted (mountMode t) t.index.length m.torn m.damaged m.unreadable) t

theorem mountCounted_frame (m : Mount) (s : State) : mountCounted m s = { s with
    nextSeq := (setNextSeq m.highestSeq s).nextSeq
    freeDraws := (setNextSeq m.highestSeq s).freeDraws
    nextStamp := mountStamp m s
    freeCount := countFree s
    spaces := Store.mapVals (fun _ r => raiseQuota r) s.spaces
    cat := { s.cat with dirty := s.cat.dirty || s.spaces.any (fun p => raiseQuota p.2 != p.2) }
    link := { s.link with notices := mountedNotices m (mountMode s) s } } := by
  rw [mountCounted, setCounters_frame]; rfl

theorem mountCounted_ready {m : Mount} {s : State} (h : s.startup.pendingCause = none) :
    (mountEnds (mountCounted m s)).startup = { s.startup with mount := none, mode := .ready } ∧
      (mountEnds (mountCounted m s)).link.notices = mountedNotices m .ready s := by
  have hmode : mountMode s = .ready := by rw [mountMode, h]
  obtain ⟨hstartup, hnotices⟩ := mountEnds_ready (s := mountCounted m s) (by rw [mountCounted_frame]; exact h)
  rw [hstartup, hnotices, mountCounted_frame, hmode]
  exact ⟨rfl, rfl⟩

theorem mountCounted_readOnly {m : Mount} {s : State} {c : Cause} (h : s.startup.pendingCause = some c) :
    (mountEnds (mountCounted m s)).startup =
        { s.startup with mount := none, pendingCause := none, mode := .readOnly, cause := some c } ∧
      (mountEnds (mountCounted m s)).link.notices =
        pushNotice (.modeChanged .readOnly (some c)) (mountedNotices m .readOnly s) := by
  have hmode : mountMode s = .readOnly := by rw [mountMode, h]
  obtain ⟨hstartup, hnotices⟩ := mountEnds_readOnly (s := mountCounted m s) (by rw [mountCounted_frame]; exact h)
  rw [hstartup, hnotices, mountCounted_frame, hmode]
  exact ⟨rfl, rfl⟩

/-- What mount has set when it ends, beside the segment records and the Refresh Queue (R167, R168(a)). -/
structure MountSettled (m : Mount) (s t : State) : Prop where
  index : t.index = s.index
  flash : t.flash = s.flash
  urgent : t.urgent = s.urgent
  nextSeq : t.nextSeq = (setNextSeq m.highestSeq s).nextSeq
  nextStamp : t.nextStamp = mountStamp m s
  freeCount : t.freeCount = countFree s
  lowFree : t.lowFree = decide (countFree s ≤ 4)
  spaces : t.spaces = Store.mapVals (fun _ r => raiseQuota r) s.spaces
  cat : t.cat = { s.cat with dirty := s.cat.dirty || s.spaces.any (fun p => raiseQuota p.2 != p.2) }
  startup : t.startup = (mountEnds (mountCounted m s)).startup
  notices : t.link.notices =
    if countFree s ≤ 4 ∧ s.lowFree = false then
      pushNotice (.spaceLow (countFree s)) (mountEnds (mountCounted m s)).link.notices
    else (mountEnds (mountCounted m s)).link.notices

/-- Mount up to its wear-spread check (R167, R168). -/
def mountEnded (m : Mount) (s : State) : State := settleLowFree (mountEnds (mountCounted m s))

theorem eraseNext_nil {s : State} {m : Mount} (hm : s.startup.mount = some m) (he : m.toErase = []) :
    eraseNext s = wearSpreadCheck (mountEnded m s) := by
  simp only [eraseNext, hm, he, mountFinish, mountCounted, mountEnded]

section

variable {m : Mount} {s : State} (hvictim : s.comp.victim = none) (hbuffer : s.reloc.buffer = [])

include hvictim hbuffer

theorem mountEnds_counted_frame : mountEnds (mountCounted m s) = { mountCounted m s with
    startup := (mountEnds (mountCounted m s)).startup
    link := { (mountCounted m s).link with
      slots := (mountEnds (mountCounted m s)).link.slots, notices := (mountEnds (mountCounted m s)).link.notices }
    engine := (mountEnds (mountCounted m s)).engine
    arr := (mountEnds (mountCounted m s)).arr
    comp := (mountEnds (mountCounted m s)).comp
    host := { (mountCounted m s).host with waiting := (mountEnds (mountCounted m s)).host.waiting }
    reloc := (mountEnds (mountCounted m s)).reloc } :=
  mountEnds_frame (by rw [mountCounted_frame]; exact hvictim) (by rw [mountCounted_frame]; exact hbuffer)

theorem mountEnded_settled : MountSettled m s (mountEnded m s) := by
  have hframe := mountEnds_counted_frame (m := m) hvictim hbuffer
  have hcounted := mountCounted_frame m s
  have hfree : (mountEnds (mountCounted m s)).freeCount = countFree s := by rw [hframe, hcounted]
  have hlow : (mountEnds (mountCounted m s)).lowFree = s.lowFree := by rw [hframe, hcounted]
  rw [mountEnded, settleLowFree_eq, hfree, hlow]
  exact {
    index := by rw [hframe, hcounted]
    flash := by rw [hframe, hcounted]
    urgent := by rw [hframe, hcounted]
    nextSeq := by rw [hframe, hcounted]
    nextStamp := by rw [hframe, hcounted]
    spaces := by rw [hframe, hcounted]
    cat := by rw [hframe, hcounted]
    freeCount := rfl
    lowFree := rfl
    startup := rfl
    notices := rfl }

theorem mountEnded_segs : (mountEnded m s).segs = s.segs := by
  rw [mountEnded, settleLowFree_eq, mountEnds_counted_frame hvictim hbuffer, mountCounted_frame]

theorem mountEnded_ordinary : (mountEnded m s).ordinary = s.ordinary := by
  rw [mountEnded, settleLowFree_eq, mountEnds_counted_frame hvictim hbuffer, mountCounted_frame]

theorem segAt_mountEnded (g : Nat) : segAt g (mountEnded m s) = segAt g s :=
  congrArg (Store.get g) (mountEnded_segs hvictim hbuffer)

end

theorem mountEnded_mode (m : Mount) (s : State) : (mountEnded m s).startup.mode ≠ .formatting := by
  rw [mountEnded, settleLowFree_eq]
  exact mountEnds_mode _

theorem wearSpreadCheck_frame {s : State} (hs : Store.Canonical s.segs) : wearSpreadCheck s =
    { s with segs := (wearSpreadCheck s).segs, ordinary := (wearSpreadCheck s).ordinary } := by
  rcases wearSpreadCheck_cases hs with e | ⟨h, x, -, -, e⟩
  · rw [e]
  · rw [e]; rfl

theorem MountSettled.wearChecked {m : Mount} {s t : State} (h : MountSettled m s t) (hs : Store.Canonical t.segs) :
    MountSettled m s (wearSpreadCheck t) := by
  rw [wearSpreadCheck_frame hs]
  exact ⟨h.index, h.flash, h.urgent, h.nextSeq, h.nextStamp, h.freeCount, h.lowFree, h.spaces, h.cat, h.startup,
    h.notices⟩

namespace MountSettled

variable {m : Mount} {s t : State} (h : MountSettled m s t)

include h

theorem ready (hnone : s.startup.pendingCause = none) :
    t.startup = { s.startup with mount := none, mode := .ready } ∧
      t.link.notices = if countFree s ≤ 4 ∧ s.lowFree = false
        then pushNotice (.spaceLow (countFree s)) (mountedNotices m .ready s) else mountedNotices m .ready s := by
  obtain ⟨hstartup, hnotices⟩ := mountCounted_ready (m := m) hnone
  exact ⟨h.startup.trans hstartup, by rw [h.notices, hnotices]⟩

theorem readOnly {c : Cause} (hsome : s.startup.pendingCause = some c) :
    t.startup = { s.startup with mount := none, pendingCause := none, mode := .readOnly, cause := some c } ∧
      t.link.notices = if countFree s ≤ 4 ∧ s.lowFree = false
        then pushNotice (.spaceLow (countFree s))
          (pushNotice (.modeChanged .readOnly (some c)) (mountedNotices m .readOnly s))
        else pushNotice (.modeChanged .readOnly (some c)) (mountedNotices m .readOnly s) := by
  obtain ⟨hstartup, hnotices⟩ := mountCounted_readOnly (m := m) hsome
  exact ⟨h.startup.trans hstartup, by rw [h.notices, hnotices]⟩

theorem space {n : Nat} {r : SpaceRec} (hr : Store.get n s.spaces = some r) :
    Store.get n t.spaces = some { r with quota := r.quota.map (fun q => max q r.usage) } := by
  rw [h.spaces, Store.get_mapVals, hr, Option.map_some, raiseQuota_eq]

theorem dirty_iff : t.cat.dirty = true ↔
    s.cat.dirty = true ∨ ∃ p ∈ s.spaces, ∃ q, p.2.quota = some q ∧ q < p.2.usage := by
  rw [h.cat]
  simp only [Bool.or_eq_true, List.any_eq_true, bne_iff_ne, raiseQuota_ne_iff]

end MountSettled

/-! ## The winner of a key (R163(2)) -/

/-- A candidate does not come before another by sequence, open stamp, page and first cell (R163(2)). -/
def Candidate.within (d c : Candidate) : Prop :=
  d.seq < c.seq ∨ (d.seq = c.seq ∧ (d.stamp < c.stamp ∨ (d.stamp = c.stamp ∧
    (d.loc.page < c.loc.page ∨ (d.loc.page = c.loc.page ∧ d.loc.cell ≤ c.loc.cell)))))

theorem Candidate.within_iff (d c : Candidate) : d.within c ↔ d.beats c = false := by
  unfold Candidate.within Candidate.beats
  split
  · rw [decide_eq_false_iff_not]; omega
  · split
    · rw [decide_eq_false_iff_not]; omega
    · split <;> rw [decide_eq_false_iff_not] <;> omega

theorem Candidate.within_refl (c : Candidate) : c.within c :=
  .inr ⟨rfl, .inr ⟨rfl, .inr ⟨rfl, Nat.le_refl _⟩⟩⟩

theorem Candidate.within.trans {a b c : Candidate} (hab : a.within b) (hbc : b.within c) : a.within c := by
  unfold Candidate.within at *; omega

theorem Candidate.within_of_beats {a b : Candidate} (h : a.beats b = true) : b.within a := by
  unfold Candidate.beats at h
  unfold Candidate.within
  split at h
  · rw [decide_eq_true_iff] at h; omega
  · split at h
    · rw [decide_eq_true_iff] at h; omega
    · split at h <;> rw [decide_eq_true_iff] at h <;> omega

/-- The winners of a list: one for every key of the list, a candidate of that key that none of the others beats. -/
structure WinnersOf (cs : List Candidate) (w : List (Nat × Candidate)) : Prop where
  listed : ∀ d ∈ cs, (Store.get (Key.code d.key) w).isSome
  member : ∀ k c, Store.get k w = some c → c ∈ cs ∧ Key.code c.key = k
  best : ∀ k c, Store.get k w = some c → ∀ d ∈ cs, Key.code d.key = k → d.within c

namespace WinnersOf

variable {cs : List Candidate} {w : List (Nat × Candidate)} {c : Candidate}

/-- A candidate that is the first of its key, or that beats the one before it, is the winner of its key. -/
theorem put (h : WinnersOf cs w) (hbest : ∀ b, Store.get (Key.code c.key) w = some b → b.within c) :
    WinnersOf (cs ++ [c]) (Store.put (Key.code c.key) c w) where
  listed d hd := by
    by_cases hkey : Key.code d.key = Key.code c.key
    · rw [hkey, Store.get_put_same]; rfl
    · rw [Store.get_put_other hkey]
      refine h.listed d ((List.mem_append.mp hd).resolve_right fun hdc => hkey ?_)
      rw [List.mem_singleton.mp hdc]
  member k x hx := by
    by_cases hkey : k = Key.code c.key
    · subst hkey
      rw [Store.get_put_same] at hx
      obtain rfl := Option.some.inj hx
      exact ⟨List.mem_append_right _ List.mem_cons_self, rfl⟩
    · rw [Store.get_put_other hkey] at hx
      obtain ⟨hmem, hcode⟩ := h.member k x hx
      exact ⟨List.mem_append_left _ hmem, hcode⟩
  best k x hx d hd hdk := by
    by_cases hkey : k = Key.code c.key
    · subst hkey
      rw [Store.get_put_same] at hx
      obtain rfl := Option.some.inj hx
      rcases List.mem_append.mp hd with hd | hd
      · obtain ⟨b, hb⟩ := Option.isSome_iff_exists.mp (h.listed d hd)
        rw [hdk] at hb
        exact (h.best _ b hb d hd hdk).trans (hbest b hb)
      · rw [List.mem_singleton.mp hd]
        exact c.within_refl
    · rw [Store.get_put_other hkey] at hx
      refine h.best k x hx d ((List.mem_append.mp hd).resolve_right fun hdc => hkey ?_) hdk
      rw [← hdk, List.mem_singleton.mp hdc]

/-- A candidate that does not beat the one of its key before it changes no winner. -/
theorem keep (h : WinnersOf cs w) {b : Candidate} (hb : Store.get (Key.code c.key) w = some b) (hc : c.within b) :
    WinnersOf (cs ++ [c]) w where
  listed d hd := by
    rcases List.mem_append.mp hd with hd | hd
    · exact h.listed d hd
    · rw [List.mem_singleton.mp hd, hb]; rfl
  member k x hx := by
    obtain ⟨hmem, hcode⟩ := h.member k x hx
    exact ⟨List.mem_append_left _ hmem, hcode⟩
  best k x hx d hd hdk := by
    rcases List.mem_append.mp hd with hd | hd
    · exact h.best k x hx d hd hdk
    · obtain rfl := List.mem_singleton.mp hd
      rw [← hdk, hb] at hx
      exact Option.some.inj hx ▸ hc

theorem take (h : WinnersOf cs w) (c : Candidate) : WinnersOf (cs ++ [c]) (takeCandidate w c) := by
  unfold takeCandidate
  split
  · next hnone => exact h.put fun b hb => by cases hnone.symm.trans hb
  · next b hb =>
    split
    · next hbeats => exact h.put fun x hx => Option.some.inj (hb.symm.trans hx) ▸ Candidate.within_of_beats hbeats
    · next hbeats => exact h.keep hb ((Candidate.within_iff c b).mpr (Bool.eq_false_iff.mpr hbeats))

end WinnersOf

theorem winnersOf_winners (cs : List Candidate) : WinnersOf cs (winners cs) := by
  induction cs using List.reverseRecOn with
  | nil => exact ⟨fun _ hd => absurd hd List.not_mem_nil, fun _ _ hc => by simp [winners, Store.get] at hc,
      fun _ _ hc => by simp [winners, Store.get] at hc⟩
  | append_singleton cs c ih =>
    rw [winners, List.foldl_append]
    exact ih.take c

/-! ## The index mount builds (R163, R164, R139) -/

theorem Store.get_of_lt_all {α : Type} {l : List (Nat × α)} {k : Nat} (h : ∀ p ∈ l, k < p.1) : Store.get k l = none :=
  Option.eq_none_iff_forall_ne_some.mpr fun _ hv => absurd (h _ (Store.mem_of_get hv)) (Nat.lt_irrefl k)

/-- The first `n` of a table are those with fewer than `n` numbers before their own. -/
theorem Store.get_take {α : Type} {l : List (Nat × α)} (hl : Store.Canonical l) (n k : Nat) :
    Store.get k (l.take n) = if (l.filter (fun p => decide (p.1 < k))).length < n then Store.get k l else none := by
  induction l generalizing n with
  | nil => simp only [List.take_nil, Store.get, ite_self]
  | cons p rest ih =>
    obtain ⟨j, v⟩ := p
    obtain ⟨hfirst, hrest⟩ := List.pairwise_cons.mp hl
    have hafter : ∀ p ∈ rest, j < p.1 := fun p hp => hfirst p.1 (List.mem_map_of_mem hp)
    cases n with
    | zero => simp [Store.get]
    | succ n =>
      rcases Nat.lt_trichotomy j k with hjk | rfl | hjk
      · simp [Store.get, Nat.ne_of_lt hjk, hjk, ih hrest]
      · have hnone : rest.filter (fun p => decide (p.1 < j)) = [] :=
          List.filter_eq_nil_iff.mpr fun p hp => by simpa using Nat.le_of_lt (hafter p hp)
        simp [Store.get, hnone]
      · have habove : ∀ p ∈ rest, k < p.1 := fun p hp => Nat.lt_trans hjk (hafter p hp)
        have htaken : Store.get k (rest.take n) = none :=
          Store.get_of_lt_all fun p hp => habove p (List.mem_of_mem_take hp)
        simp [Store.get, Nat.ne_of_gt hjk, Store.get_of_lt_all habove, htaken]

section

variable (m : Mount) (s : State)

/-- The winners among the candidates that count (R139, R163(1)). -/
def mountWon : List (Nat × Candidate) :=
  winners (m.candidates.filter (fun c => decide ((spaceAt c.key.space s).clearSeq ≤ c.seq)))

/-- The state with the index of mount and the counts of the spaces, before a cause is reported (R163, R164). -/
def indexBuilt : State :=
  let index := Store.mapVals (fun _ c => Candidate.entry c) ((mountWon m s).take 16384)
  { s with
    index := index
    spaces := Store.mapVals (fun n r => { r with usage := usageIn n index, keyCount := keysIn n index }) s.spaces }

theorem buildIndex_eq : buildIndex m s =
    if 16384 < (mountWon m s).length then reportCause .indexOverflow (indexBuilt m s) else indexBuilt m s := rfl

theorem buildIndex_index : (buildIndex m s).index =
    Store.mapVals (fun _ c => Candidate.entry c) ((mountWon m s).take 16384) := by
  rw [buildIndex_eq]
  split
  · rw [(reportCause_touches _ _).frame]; rfl
  · rfl

theorem buildIndex_spaces : (buildIndex m s).spaces = Store.mapVals (fun n r => { r with
    usage := usageIn n (buildIndex m s).index, keyCount := keysIn n (buildIndex m s).index }) s.spaces := by
  rw [buildIndex_index, buildIndex_eq]
  split
  · rw [(reportCause_touches _ _).frame]; rfl
  · rfl

theorem lookup_buildIndex (k : Key) : lookup k (buildIndex m s) =
    (Store.get (Key.code k) (mountWon m s)).bind (fun c =>
      if ((mountWon m s).filter (fun p => decide (p.1 < Key.code k))).length < 16384 then some c.entry else none) := by
  rw [lookup, buildIndex_index, Store.get_mapVals, Store.get_take (l := mountWon m s) (canonical_winners _)]
  cases Store.get (Key.code k) (mountWon m s) <;> simp only [Option.bind_none, Option.bind_some] <;>
    split <;> rfl

end

theorem buildIndex_startup_of_fits {m : Mount} {s : State} (h : (mountWon m s).length ≤ 16384) :
    (buildIndex m s).startup = s.startup := by
  rw [buildIndex_eq, if_neg (Nat.not_lt.mpr h)]
  rfl

theorem lookup_buildIndex_of_fits {m : Mount} {s : State} (h : (mountWon m s).length ≤ 16384) (k : Key) :
    lookup k (buildIndex m s) = (Store.get (Key.code k) (mountWon m s)).map Candidate.entry := by
  rw [lookup, buildIndex_index, Store.get_mapVals, List.take_of_length_le h]

theorem buildIndex_overflow {m : Mount} {s : State} (h : 16384 < (mountWon m s).length)
    (hmode : s.startup.mode = .mounting) (hnone : s.startup.pendingCause = none) :
    (buildIndex m s).startup.pendingCause = some .indexOverflow := by
  rw [buildIndex_eq, if_pos h, reportCause_pending (s := indexBuilt m s) (.inl hmode) hnone]

/-! ## The obligation -/

/-- The wear-spread check at the end of mount (R168(b), R42). -/
theorem mountEnded_wear {m : Mount} {s : State} (hs : Store.Canonical s.segs) (hvictim : s.comp.victim = none)
    (hbuffer : s.reloc.buffer = []) {h : Nat} {x : SegRec} (hx : segAt h s = some x) (hfull : x.state = .full)
    (hleast : ∀ i y, segAt i s = some y → y.state = .full →
      x.eraseCount < y.eraseCount ∨ (x.eraseCount = y.eraseCount ∧ h ≤ i)) :
    let wide := ∃ i y, segAt i s = some y ∧ (y.state = .free ∨ y.state = .full) ∧ 2000 + x.eraseCount < y.eraseCount
    (wide → x.reason = none → wearSpreadCheck (mountEnded m s) = wearQueued h (mountEnded m s)) ∧
      (¬ wide ∨ x.reason ≠ none → wearSpreadCheck (mountEnded m s) = mountEnded m s) := by
  have hseg := fun g => segAt_mountEnded (m := m) hvictim hbuffer g
  have hcanon : Store.Canonical (mountEnded m s).segs := by rw [mountEnded_segs hvictim hbuffer]; exact hs
  have hwide := wearSpread_iff hcanon x.eraseCount
  have hcheck := wearSpreadCheck_least hcanon (mountEnded_mode m s) ((hseg h).trans hx) hfull
    (by simpa only [hseg] using hleast)
  rw [hwide] at hcheck
  simpa only [hseg] using hcheck

/-- Settles O49: the erases, the end, the winners and the index. -/
theorem mountKeepsTheNewestEntry : Obligations.MountKeepsTheNewestEntry := by
  refine ⟨fun s m e rest hm he => ?_, ?_, fun cs => ?_, fun m s => ?_⟩
  · exact ⟨eraseNext_cons hm he, startupErased_mount_ok hm he, startupHeader_mount_ok hm he, s.faulted e,
      startupErased_mount_fail hm he, startupHeader_mount_fail hm he, faulted_listed, faulted_waits,
      fun hnew hfull hmode => ⟨faulted_pending hnew hfull hmode, faulted_kept hnew hfull hmode⟩⟩
  · intro s m hm he hs hvictim hbuffer hwaiting
    have hcanon : Store.Canonical (mountEnded m s).segs := by rw [mountEnded_segs hvictim hbuffer]; exact hs
    have hsegs : (mountEnded m s).segs = s.segs := mountEnded_segs hvictim hbuffer
    have hordinary : (mountEnded m s).ordinary = s.ordinary := mountEnded_ordinary hvictim hbuffer
    have h : MountSettled m s (wearSpreadCheck (mountEnded m s)) :=
      (mountEnded_settled hvictim hbuffer).wearChecked hcanon
    rw [eraseNext_nil hm he]
    refine ⟨h.ready, fun c => h.readOnly, fun c hc hlt hle => h.nextSeq.trans (setNextSeq_of_clear hlt hc hle),
      fun hle hlt => h.nextSeq.trans (setNextSeq_of_found hle hlt),
      fun x hx hle => h.nextStamp.trans (mountStamp_eq hx hle), h.freeCount, h.lowFree, h.index, h.flash, h.urgent,
      fun n r => h.space, h.dirty_iff, by rw [h.cat], fun hnone => ?_, fun g x hx hfull hleast => ?_⟩
    · rw [wearSpreadCheck_no_full hcanon fun g x hx => hnone g x ((segAt_mountEnded hvictim hbuffer g).symm.trans hx)]
      exact ⟨hordinary, hsegs⟩
    · obtain ⟨hqueues, hleaves⟩ := mountEnded_wear (m := m) hs hvictim hbuffer hx hfull hleast
      refine ⟨fun hwide hnone => ?_, fun hnot => ?_⟩
      · rw [hqueues hwide hnone, wearQueued, hsegs, hordinary]
        exact ⟨rfl, rfl⟩
      · rw [hleaves hnot]
        exact ⟨hordinary, hsegs⟩
  · obtain ⟨hlisted, hmember, hbest⟩ := winnersOf_winners cs
    exact ⟨hlisted, fun k c hc => ⟨(hmember k c hc).1, (hmember k c hc).2, hbest k c hc⟩⟩
  · refine ⟨lookup_buildIndex m s, fun n r hr => ?_, fun hfits => ⟨?_, lookup_buildIndex_of_fits hfits⟩,
      fun hover => ⟨?_, buildIndex_overflow hover⟩⟩
    · rw [buildIndex_spaces, Store.get_mapVals, hr]
      simp only [Option.map_some, usageIn, keysIn, total, List.sum_eq_foldl]
    · rw [buildIndex_startup_of_fits hfits]
    · rw [buildIndex_index, Store.mapVals, List.length_map, List.length_take]
      exact Nat.min_eq_left (Nat.le_of_lt hover)

end Sys2Proof.Machine

/-! # FORMAT: the emptying, the erasing and the final snapshot (R43, R152, R170, R171) -/

namespace Sys2Proof.Machine

/-! ## The way to the next segment (R43) -/

/-- The state with the progress of a FORMAT. -/
def State.withFormat (s : State) (f : Format) : State := { s with startup := { s.startup with format := some f } }

theorem modFormat_of_format {s : State} {f : Format} (h : s.startup.format = some f) (change : Format → Format) :
    modFormat change s = s.withFormat (change f) := by
  simp [modFormat, State.withFormat, h]

theorem formatNext_eq_some {s : State} {g n : Nat} (hfrom : g ≤ n) (hto : n < 1024) (hn : segState n s ≠ some .retired)
    (hleast : ∀ h, g ≤ h → h < n → segState h s = some .retired) : formatNext g s = some n :=
  Store.firstFrom_eq_some (by simpa using hn) hfrom (by simp only [Config.segments]; omega)
    fun h hh hlt => by simpa using hleast h hh hlt

theorem formatNext_eq_none {s : State} {g : Nat} (h : ∀ n, g ≤ n → n < 1024 → segState n s = some .retired) :
    formatNext g s = none :=
  Store.firstFrom_eq_none fun n hn hlt => by
    simpa using h n hn (by simp only [Config.segments] at hlt; omega)

theorem formatTake_of_next {s : State} {g n : Nat} (h : formatNext g s = some n) : formatTake g s =
    makeClaim .catalogue .startup (.read n 0) (modFormat (fun f => { f with phase := .header n }) s) := by
  simp only [formatTake, h, startupRead]

theorem formatTake_of_none {s : State} {g : Nat} {f : Format} (h : formatNext g s = none)
    (hf : s.startup.format = some f) : formatTake g s = formatLast f s := by
  simp only [formatTake, h, hf]

/-! ## The header, the erase and the new header of a segment (R43, R171) -/

theorem headerCounts_of_header {w : Written} {n k st : Nat} {chk : BitVec 32} (hcheck : w.ownCheck = true)
    (hdata : w.data = some (.segHeader n k st chk)) : headerCounts (.written w) = some (n, k) := by
  simp only [headerCounts, hcheck, hdata]

theorem headerCounts_of_unreadable {o : ReadOutcome} (h : ∀ w n k st chk, o = .written w → w.ownCheck = true →
    w.data ≠ some (.segHeader n k st chk)) : headerCounts o = none := by
  cases o with
  | blank => rfl
  | written w =>
    unfold headerCounts
    dsimp only
    split
    · next hcheck hdata => exact absurd hdata (h w _ _ _ _ rfl hcheck)
    · rfl

/-- The erase and strike counts that FORMAT takes from a header (R43, R171). -/
def takenCounts (f : Format) (o : ReadOutcome) (s : State) : Nat × Nat :=
  (headerCounts o).getD (formatHighest f s, 0)

/-- The highest erase count of the headers read, after one more (R171). -/
def takenHighest (f : Format) (o : ReadOutcome) : Nat :=
  match headerCounts o with
  | some c => max f.highestHeader c.1
  | none => f.highestHeader

/-- The record of a segment that FORMAT takes is made where there is none (R43, R171). -/
theorem erasingRecord_eq (old : Option SegRec) (count strikes : Nat) (worst : Health) :
    erasingRecord old count strikes worst = match old with
      | some r => { r with
          state := .erasing, stream := none, nextPage := none, live := 0, reason := none, cause := none }
      | none => ⟨.erasing, none, count, strikes, none, none, 0, none, worst, none, none⟩ := by
  cases old <;> rfl

theorem formatHighest_of_unformatted {f : Format} (h : f.fromUnformatted = true) (s : State) :
    formatHighest f s = f.highestHeader := by
  rw [formatHighest, if_pos h]

theorem le_highestOf_getD {n : Nat} {l : List Nat} (h : n ∈ l) : n ≤ (highestOf l).getD 0 := by
  refine Nat.le_of_not_lt fun hlt => ?_
  exact absurd (lt_highestOf_iff.mpr ⟨n, h, hlt⟩) (Nat.lt_irrefl _)

theorem highestOf_mem {l : List Nat} (h : l ≠ []) : (highestOf l).getD 0 ∈ l := by
  induction l with
  | nil => exact absurd rfl h
  | cons a rest ih =>
    unfold highestOf
    split
    · exact List.mem_cons_self
    · next b hb =>
      have hrest : rest ≠ [] := fun e => by rw [e] at hb; cases hb
      have hmem := ih hrest
      rw [hb] at hmem
      rcases Nat.le_total a b with hab | hba
      · rw [Nat.max_eq_right hab]; exact List.mem_cons_of_mem a hmem
      · rw [Nat.max_eq_left hba]; exact List.mem_cons_self

theorem formatHighest_of_records {f : Format} (h : f.fromUnformatted = false) (s : State) :
    (∀ p ∈ s.segs, p.2.eraseCount ≤ formatHighest f s) ∧
      (s.segs ≠ [] → ∃ p ∈ s.segs, p.2.eraseCount = formatHighest f s) := by
  rw [formatHighest, if_neg (by simp [h])]
  refine ⟨fun p hp => le_highestOf_getD (List.mem_map_of_mem hp), fun hne => ?_⟩
  exact List.mem_map.mp (highestOf_mem (l := s.segs.map (fun p => p.2.eraseCount)) (by simpa using hne))

/-- The record of a segment that FORMAT condemns (R43(2)). -/
def State.formatFault (s : State) (f : Format) (g : Nat) : State :=
  (modSeg g (fun r => { r with state := .condemned, cause := some .eraseFault }) s).withFormat
    { f with pendingRetire := f.pendingRetire ++ [g] }

/-- The state in which the counts of an erased segment have entered its record and its header is claimed (R43(1)). -/
def State.formatRewrites (s : State) (f : Format) (g stamp draws : Nat) : State :=
  let count := min (f.eraseCount + 1) 1000000
  makeClaim .catalogue .startup (.program g 0 (segHeader count f.strikes stamp))
    ((modSeg g (fun r => { r with eraseCount := count, strikes := f.strikes, worst := .bits 0 })
      { s with freeDraws := draws }).withFormat { f with phase := .rewriting g })

theorem formatEraseFault_eq {s : State} {f : Format} (hf : s.startup.format = some f) (g : Nat) :
    formatEraseFault g s = formatTake (g + 1) (s.formatFault f g) :=
  congrArg (formatTake (g + 1)) (modFormat_of_format (s := modSeg g _ s) hf _)

/-- The state in which a segment is ERASING with the counts FORMAT took from its header (R43). -/
def State.formatErases (s : State) (f : Format) (g : Nat) (o : ReadOutcome) : State :=
  let counts := takenCounts f o s
  let taken := erasingRecord (segAt g s) counts.1 counts.2 o.worst
  State.withFormat { s with segs := Store.put g taken s.segs } { f with
    phase := .erasing g, eraseCount := counts.1, strikes := counts.2, highestHeader := takenHighest f o }

section

variable {s : State} {f : Format} (hm : s.startup.mount = none) (hf : s.startup.format = some f) {g : Nat}

include hm hf

theorem startupReadEnded_format (hphase : f.phase = .header g) (page : Nat) (o : ReadOutcome) :
    startupReadEnded g page o s = makeClaim .catalogue .startup (.erase g) (s.formatErases f g o) := by
  simp only [startupReadEnded, hm, hf, formatRead, hphase, formatHeaderRead]
  exact congrArg (makeClaim _ _ _) (modFormat_of_format (by exact hf) _)

theorem startupErased_format_fail (hphase : f.phase = .erasing g) :
    startupErased false s = formatTake (g + 1) (s.formatFault f g) := by
  rw [← formatEraseFault_eq hf]
  simp [startupErased, hm, hf, formatErased, hphase]

theorem startupErased_format_ok (hphase : f.phase = .erasing g) :
    startupErased true s = s.formatRewrites f g (comingStamp s) (drawsAfterStamp s) := by
  simp only [startupErased, hm, hf, formatErased, hphase, if_true, formatErasedOk]
  exact congrArg (makeClaim _ _ _) (modFormat_of_format (s := modSeg g _ { s with freeDraws := _ }) hf _)

theorem startupHeader_format_ok (hphase : f.phase = .rewriting g) :
    startupHeader true s = formatTake (g + 1) (modSeg g SegRec.freed s) := by
  simp [startupHeader, hm, hf, formatHeader, hphase, formatFreed]

theorem startupHeader_format_fail (hphase : f.phase = .rewriting g) :
    startupHeader false s = formatTake (g + 1) (s.formatFault f g) := by
  rw [← formatEraseFault_eq hf]
  simp [startupHeader, hm, hf, formatHeader, hphase]

end

theorem formatStamp_of_generation {s : State} (h : s.cat.begun + 1 < 2 ^ 32) :
    comingStamp s = s.cat.begun + 1 ∧ drawsAfterStamp s = s.freeDraws := by
  have hleft : generationLeft s = true := decide_eq_true h
  simp [comingStamp, drawsAfterStamp, hleft]

/-- With no generation left the format stamp is a free value, a word of 32 bits (assumption 54). -/
theorem formatStamp_of_none_left {s : State} (h : ¬ s.cat.begun + 1 < 2 ^ 32) :
    comingStamp s < 2 ^ 32 ∧ drawsAfterStamp s = s.freeDraws + 1 := by
  have hleft : generationLeft s = false := decide_eq_false h
  rw [comingStamp, drawsAfterStamp, hleft]
  exact ⟨BitVec.isLt _, rfl⟩

/-! ## The pending retirement set (R152(3)) -/

theorem insertNat_of_above {g : Nat} {l : List Nat} (h : ∀ x ∈ l, x < g) : Store.insertNat g l = l ++ [g] := by
  induction l with
  | nil => rfl
  | cons a rest ih =>
    have ha : a < g := h a List.mem_cons_self
    simp only [Store.insertNat, if_neg (Nat.lt_asymm ha), if_neg (Nat.ne_of_gt ha),
      ih fun x hx => h x (List.mem_cons_of_mem a hx), List.cons_append]

/-- An ascending list is inserted as it stands. -/
theorem insertNat_ascending {gs l : List Nat} (h : (l ++ gs).Pairwise (· < ·)) :
    gs.foldl (fun l g => Store.insertNat g l) l = l ++ gs := by
  induction gs generalizing l with
  | nil => exact (List.append_nil l).symm
  | cons g gs ih =>
    have habove : ∀ x ∈ l, x < g := fun x hx =>
      (List.pairwise_append.mp h).2.2 x hx g List.mem_cons_self
    have hnext : ((l ++ [g]) ++ gs).Pairwise (· < ·) := by rwa [List.append_assoc]
    rw [List.foldl_cons, insertNat_of_above habove, ih hnext, List.append_assoc]
    rfl

theorem formatRetires_ascending {taken : Nat} {gs : List Nat} (h : gs.Pairwise (· < ·)) :
    formatRetires taken gs = (gs.take (96 - taken), gs.drop (96 - taken)) := by
  have hsorted : gs.foldl (fun l g => Store.insertNat g l) [] = gs := insertNat_ascending (l := []) h
  rw [formatRetires, hsorted]
  rfl

theorem drop_eq_nil_iff_take_eq {n : Nat} {l : List Nat} : l.drop n = [] ↔ l.take n = l := by
  rw [List.drop_eq_nil_iff, List.take_eq_self_iff]

/-! ## The end of the erasing (R171) -/

theorem addWaiters_frame (gs : List Nat) (s : State) : gs.foldl (fun v g => addWaiter (.segment g) v) s = { s with
    cat := { s.cat with
      dirty := (gs.foldl (fun v g => addWaiter (.segment g) v) s).cat.dirty
      waiters := s.cat.waiters ++ gs.map (fun g => ⟨.segment g, s.cat.begun + 1⟩) } } := by
  induction gs generalizing s with
  | nil => simp
  | cons g gs ih => rw [List.foldl_cons, ih]; simp [addWaiter, modCat]

theorem addFormatSlot_frame (n : Option Nat) (s : State) : addFormatSlot n s = { s with
    link := { s.link with slots := (addFormatSlot n s).link.slots }
    cat := { s.cat with
      dirty := (addFormatSlot n s).cat.dirty
      waiters := s.cat.waiters ++ n.toList.map (fun n => ⟨.slot n, s.cat.begun + 1⟩) } } := by
  cases n with
  | none => simp [addFormatSlot]
  | some n => rfl

theorem slotAt_addFormatSlot_same (n : Nat) (s : State) : slotAt n (addFormatSlot (some n) s) =
    (slotAt n s).map (fun sl => { sl with state := .awaitingCatalogue }) :=
  Store.get_modify_same ..

theorem slotAt_addFormatSlot_other {o : Option Nat} {n : Nat} (h : o ≠ some n) (s : State) :
    slotAt n (addFormatSlot o s) = slotAt n s := by
  cases o with
  | none => rfl
  | some m => exact Store.get_modify_other (fun e => h (congrArg some e.symm)) ..

theorem reportCause_in_format {s : State} (hmode : s.startup.mode = .formatting) (c : Cause) : reportCause c s =
    { s with startup := { s.startup with
        pendingCause := if s.startup.pendingCause = none then some c else s.startup.pendingCause } } := by
  by_cases hnone : s.startup.pendingCause = none
  · rw [reportCause_pending (.inr hmode) hnone, if_pos hnone]
  · rw [reportCause_kept (.inr hmode) hnone, if_neg hnone]

/-- The segments of the pending retirement set that fit in the retired list (R152(3)). -/
def formatFits (f : Format) (s : State) : List Nat := f.pendingRetire.take (96 - s.cat.retired.length)

/-- The state in which the slot and the segments that fit wait for the final snapshot (R152(3)). -/
def formatWaiting (f : Format) (s : State) : State :=
  (formatRetires s.cat.retired.length f.pendingRetire).1.foldl (fun v g => addWaiter (.segment g) v)
    (addFormatSlot f.slot (modCat (fun c => { c with failed := false, failures := 0, dirty := true }) s))

/-- The state in which FORMAT has asked for its final snapshot and it has not been begun (R152(3)). -/
def formatAsked (f : Format) (s : State) : State :=
  let fits := formatRetires s.cat.retired.length f.pendingRetire
  modFormat (fun g => { g with phase := .snapshot, retiring := fits.1.length })
    (if fits.2 = [] then formatWaiting f s else reportCause .retiredListFull (formatWaiting f s))

theorem formatSnapshot_eq (f : Format) (s : State) : formatSnapshot f s = beginSnapshot true (formatAsked f s) := rfl

theorem addFormatSlot_slots (n : Option Nat) (change : Catalogue → Catalogue) (s : State) :
    (addFormatSlot n (modCat change s)).link.slots = (addFormatSlot n s).link.slots := by
  cases n <;> rfl

section

variable {f : Format} {s : State} (hasc : f.pendingRetire.Pairwise (· < ·))

include hasc

theorem formatWaiting_frame : formatWaiting f s = { s with
    link := { s.link with slots := (addFormatSlot f.slot s).link.slots }
    cat := { s.cat with
      failed := false, failures := 0
      dirty := (formatWaiting f s).cat.dirty
      waiters := s.cat.waiters ++ f.slot.toList.map (fun n => ⟨.slot n, s.cat.begun + 1⟩) ++
        (formatFits f s).map (fun g => ⟨.segment g, s.cat.begun + 1⟩) } } := by
  rw [formatWaiting, formatRetires_ascending hasc, addWaiters_frame, addFormatSlot_frame, addFormatSlot_slots]
  rfl

theorem formatAsked_frame (hf : s.startup.format = some f) (hmode : s.startup.mode = .formatting) :
    formatAsked f s = { s with
      link := { s.link with slots := (addFormatSlot f.slot s).link.slots }
      cat := { s.cat with
        failed := false, failures := 0
        dirty := (formatAsked f s).cat.dirty
        waiters := s.cat.waiters ++ f.slot.toList.map (fun n => ⟨.slot n, s.cat.begun + 1⟩) ++
          (formatFits f s).map (fun g => ⟨.segment g, s.cat.begun + 1⟩) }
      startup := { s.startup with
        format := some { f with phase := .snapshot, retiring := (formatFits f s).length }
        pendingCause :=
          if s.startup.pendingCause = none ∧ formatFits f s ≠ f.pendingRetire then some .retiredListFull
          else s.startup.pendingCause } } := by
  have hframe := formatWaiting_frame (s := s) hasc
  have hmode' : (formatWaiting f s).startup.mode = .formatting := by rw [hframe]; exact hmode
  have hdrop : f.pendingRetire.drop (96 - s.cat.retired.length) = [] ↔ formatFits f s = f.pendingRetire :=
    drop_eq_nil_iff_take_eq
  rw [formatAsked, formatRetires_ascending hasc]
  dsimp only
  by_cases hfits : formatFits f s = f.pendingRetire
  · rw [if_pos (hdrop.mpr hfits), if_neg fun h => h.2 hfits, modFormat_of_format (by rw [hframe]; exact hf), hframe]
    rfl
  · rw [if_neg (mt hdrop.mp hfits), reportCause_in_format hmode', modFormat_of_format (by rw [hframe]; exact hf), hframe]
    simp only [ne_eq, hfits, not_false_eq_true, and_true]
    rfl

end

/-! ## The tables at the end (R140, R171) -/

theorem get_numbered {α : Type} {l : List α} {n : Nat} (h : n < l.length) : Store.get n (numbered l) = some l[n] := by
  refine Store.get_of_mem (canonical_numbered l) ?_
  have hlen : n < (numbered l).length := by simpa [numbered] using h
  have hget : (numbered l)[n] = (n, l[n]) := by simp [numbered]
  exact hget ▸ List.getElem_mem hlen

theorem get_formatSpaces {n : Nat} (h : n < 16) (s : State) :
    Store.get n (formatSpaces s) = some (SpaceRec.fresh (spaceAt n s).frozen) := by
  have hlen : n < ((List.range Config.spaces).map (fun n => SpaceRec.fresh (spaceAt n s).frozen)).length := by
    simpa [Config.spaces] using h
  rw [formatSpaces, get_numbered hlen]
  simp

/-- Every space captured by the final snapshot is as FORMAT leaves it (R140, R171). -/
theorem spaceFields_of_formatSpaces {s t : State} (h : t.spaces = formatSpaces s) :
    spaceFields t = List.replicate 16 ⟨.opened, false, none, 0⟩ := by
  refine List.eq_replicate_iff.mpr ⟨by simp [spaceFields, Config.spaces], fun x hx => ?_⟩
  obtain ⟨n, hn, rfl⟩ := List.mem_map.mp hx
  rw [spaceAt, h, get_formatSpaces (by simpa [Config.spaces] using hn)]
  rfl

/-- The state in which the last segment has been taken: the free count, the low-free condition and the spaces are set
(R43, R140). -/
def formatCounted (s : State) : State :=
  let t := settleLowFree { s with freeCount := countFree s }
  { t with spaces := formatSpaces t }

theorem formatLast_eq (f : Format) (s : State) : formatLast f s = beginSnapshot true (formatAsked f (formatCounted s)) :=
  rfl

theorem formatCounted_frame (s : State) : formatCounted s = { s with
    freeCount := countFree s
    lowFree := decide (countFree s ≤ 4)
    link := { s.link with
      notices := if countFree s ≤ 4 ∧ s.lowFree = false then pushNotice (.spaceLow (countFree s)) s.link.notices
        else s.link.notices }
    spaces := formatSpaces s } := by
  rw [formatCounted, settleLowFree_eq]
  rfl

/-- The state in which FORMAT has asked for its final snapshot after the last segment (R43, R152(3), R171). -/
def formatEnded (f : Format) (s : State) : State := formatAsked f (formatCounted s)

section

variable {f : Format} {s : State} (hf : s.startup.format = some f) (hmode : s.startup.mode = .formatting)
variable (hasc : f.pendingRetire.Pairwise (· < ·))

include hf hmode hasc

theorem formatEnded_frame : formatEnded f s = { s with
    freeCount := countFree s
    lowFree := decide (countFree s ≤ 4)
    spaces := formatSpaces s
    link := { s.link with
      slots := (addFormatSlot f.slot s).link.slots
      notices := if countFree s ≤ 4 ∧ s.lowFree = false then pushNotice (.spaceLow (countFree s)) s.link.notices
        else s.link.notices }
    cat := { s.cat with
      failed := false, failures := 0
      dirty := (formatEnded f s).cat.dirty
      waiters := s.cat.waiters ++ f.slot.toList.map (fun n => ⟨.slot n, s.cat.begun + 1⟩) ++
        (formatFits f s).map (fun g => ⟨.segment g, s.cat.begun + 1⟩) }
    startup := { s.startup with
      format := some { f with phase := .snapshot, retiring := (formatFits f s).length }
      pendingCause := if s.startup.pendingCause = none ∧ formatFits f s ≠ f.pendingRetire then some .retiredListFull
        else s.startup.pendingCause } } := by
  have hcounted := formatCounted_frame s
  have hslots : (addFormatSlot f.slot (formatCounted s)).link.slots = (addFormatSlot f.slot s).link.slots := by
    rw [hcounted]
    cases f.slot <;> rfl
  have hframe := formatAsked_frame (s := formatCounted s) hasc (by rw [hcounted]; exact hf) (by rw [hcounted]; exact hmode)
  rw [hslots] at hframe
  rw [formatEnded]
  generalize formatAsked f (formatCounted s) = v at hframe ⊢
  rw [hcounted] at hframe
  exact hframe

variable (hgen : s.cat.begun + 1 < 2 ^ 32)

include hgen

/-- The final snapshot is begun, and beside it and its write nothing changes (R147, R171). -/
theorem formatLast_frame : formatLast f s = { formatEnded f s with
    arr := (formatLast f s).arr
    cat := { (formatEnded f s).cat with
      begun := s.cat.begun + 1, dirty := false, formatStamp := s.cat.begun + 1
      write := (formatLast f s).cat.write, nextPage := (formatLast f s).cat.nextPage } } := by
  have hbegun : (formatEnded f s).cat.begun = s.cat.begun := by rw [formatEnded_frame hf hmode hasc]
  have hlast : formatLast f s = writeSnapshot (capture true (formatEnded f s)) (captured true (formatEnded f s)) :=
    beginSnapshot_begins (s := formatEnded f s) (by rw [hbegun]; exact hgen) true
  rw [hlast, writeSnapshot_frame, ← hbegun]
  rfl

/-- The final snapshot holds the segments that fit beside the retired list, and goes to the next page of its mirror or
through the switch (R142, R147, R148, R171). -/
theorem formatLast_write (hwaiters : ∀ x ∈ s.cat.waiters, ∀ h, x.who ≠ .segment h) :
    ∃ w, (formatLast f s).cat.write = some w ∧ w.snap.gen = s.cat.begun + 1 ∧ w.snap.stamp = s.cat.begun + 1 ∧
      w.snap.spaces = List.replicate 16 ⟨.opened, false, none, 0⟩ ∧
      (∀ h, h ∈ w.snap.retired ↔ h ∈ s.cat.retired ∨ h ∈ formatFits f s) ∧
      (∀ p, s.cat.nextPage = some p → w.step = .program ∧ w.page = p ∧
        (⟨.catalogue, .writer, .program (Mirror.seg s.cat.current) p (.snapshot w.snap)⟩ : Claim) ∈
          (formatLast f s).arr.catPlace.toList ++ (formatLast f s).arr.outside) ∧
      (s.cat.nextPage = none → w.step = .erase ∧
        (⟨.catalogue, .writer, .erase (Mirror.seg (Mirror.other s.cat.current))⟩ : Claim) ∈
          (formatLast f s).arr.catPlace.toList ++ (formatLast f s).arr.outside) := by
  have hended := formatEnded_frame hf hmode hasc
  have hbegun : (formatEnded f s).cat.begun = s.cat.begun := by rw [hended]
  have hpage : (formatEnded f s).cat.nextPage = s.cat.nextPage := by rw [hended]
  have hcurrent : (formatEnded f s).cat.current = s.cat.current := by rw [hended]
  have hlast : formatLast f s = writeSnapshot (capture true (formatEnded f s)) (captured true (formatEnded f s)) :=
    beginSnapshot_begins (s := formatEnded f s) (by rw [hbegun]; exact hgen) true
  obtain ⟨w, hwrite, hsnap, hplace, hswitch⟩ :=
    writeSnapshot_write (capture true (formatEnded f s)) (captured true (formatEnded f s))
  have hpage' : (captured true (formatEnded f s)).cat.nextPage = s.cat.nextPage := hpage
  have hcurrent' : (captured true (formatEnded f s)).cat.current = s.cat.current := hcurrent
  rw [hpage', hcurrent', ← hlast, ← hsnap] at hplace
  rw [hpage', hcurrent', ← hlast] at hswitch
  refine ⟨w, by rw [hlast, hwrite], ?_, ?_, ?_, fun h => ?_, hplace, hswitch⟩
  · rw [hsnap, ← hbegun]; rfl
  · rw [hsnap, ← hbegun]; rfl
  · rw [hsnap]
    exact spaceFields_of_formatSpaces (s := s) (by rw [hended])
  · have hretired : w.snap.retired = (formatEnded f s).cat.unionRetired := by rw [hsnap]; rfl
    rw [hretired, Catalogue.mem_unionRetired, hended]
    refine or_congr Iff.rfl ?_
    have hold : ∀ x ∈ s.cat.waiters, ¬ x.who = .segment h := fun x hx => hwaiters x hx h
    simp only [List.map_append, List.map_map, List.mem_append, List.mem_map, Function.comp_apply, reduceCtorEq,
      and_false, exists_false, or_false, WaiterWho.segment.injEq, exists_eq_right]
    exact or_iff_right fun ⟨x, hx, hwho⟩ => hold x hx hwho

end

/-! ## The emptying (R170, R43, R69, R93, R152) -/

theorem formatAtRest_iff (s : State) : formatAtRest s = true ↔
    (∃ f, s.startup.format = some f ∧ f.phase = .resting) ∧ s.host.inFlight = none ∧ s.reloc.inFlight = none ∧
      s.host.buffer = [] ∧ s.comp.running = false ∧ s.cat.write = none := by
  unfold formatAtRest
  cases s.startup.format <;> simp [and_assoc]

theorem answerAll_engine {ns : List Nat} {s : State} (h : ∀ n ∈ ns, s.engine.active ≠ some n) (st : Status)
    (d : ReplyData) : (answerAll ns st d s).engine = s.engine := by
  induction ns generalizing s with
  | nil => rfl
  | cons n ns ih =>
    have hfirst : (answer n st d s).engine = s.engine := if_neg (h n List.mem_cons_self)
    have hrest : ∀ m ∈ ns, (answer n st d s).engine.active ≠ some m := fun m hm => by
      rw [hfirst]; exact h m (List.mem_cons_of_mem n hm)
    rw [answerAll, List.foldl_cons, ← answerAll, ih hrest, hfirst]

theorem answerCompacts_engine {s : State} (h : ∀ c ∈ s.comp.compacts, s.engine.active ≠ some c.slot) (st : Status) :
    (answerCompacts st s).engine = s.engine :=
  answerAll_engine (fun n hn => by obtain ⟨c, hc, rfl⟩ := List.mem_map.mp hn; exact h c hc) ..

theorem formatEmpties_frame (s : State) : formatEmpties s = { s with
    index := [], urgent := [], ordinary := [], host := Stream.empty, reloc := Stream.empty, commitTimer := none
    nextSeq := some 1, nextStamp := some 1
    segs := Store.mapVals (fun _ r => SegRec.emptied r) s.segs
    spaces := Store.mapVals (fun _ r => { r with usage := 0, keyCount := 0 }) s.spaces
    comp := { s.comp with compacts := [], noGain := false }
    cat := Catalogue.emptied s.cat
    engine := (answerCompacts .noGain s).engine
    link := { s.link with slots := (answerCompacts .noGain s).link.slots } } := by
  rw [formatEmpties, answerCompacts_frame]

theorem slotAt_formatEmpties (n : Nat) (s : State) : slotAt n (formatEmpties s) =
    if n ∈ s.comp.compacts.map CompactWait.slot then (slotAt n s).map (Slot.answered .noGain (.freeCount s.freeCount))
    else slotAt n s :=
  slotAt_answerCompacts n .noGain s

/-- The emptying retires no segment and brings none back (R43). -/
theorem segState_formatEmpties (g : Nat) (s : State) :
    segState g (formatEmpties s) = some .retired ↔ segState g s = some .retired := by
  have hget : segAt g (formatEmpties s) = (segAt g s).map SegRec.emptied := by
    rw [formatEmpties_frame]
    exact Store.get_mapVals g (fun _ r => SegRec.emptied r) s.segs
  rw [segState, segState, hget]
  cases segAt g s with
  | none => simp
  | some r =>
    simp only [Option.map_some, Option.some.injEq, SegRec.emptied]
    split
    · next hopened => simp [hopened]
    · rfl

theorem exec_formatEmptying {s : State} (hheld : isHeld s = false) : exec .formatEmptying s =
    .next (if formatAtRest s then settle (formatTake 2 (formatEmpties s)) else s) := by
  simp [exec, execFormatEmptying, whileRunning, hheld, formatEmptyingStep, Config.firstData]

/-! ## The obligation -/

/-- Settles O35: the completions, the erasing of a segment, the way to the next, the end, and the emptying. -/
theorem formatEmptyingEmptiesTheStore : Obligations.FormatEmptyingEmptiesTheStore := by
  unfold Obligations.FormatEmptyingEmptiesTheStore
  refine ⟨fun s ok hheld => ⟨fun g p d hop => ?program, fun e hop horigin => ?erase⟩,
    fun s f hm hf => ⟨fun g page o hphase => ?header, fun g hphase => ?erasing, fun g hphase => ?rewriting,
      fun g n hfrom hto hn hleast => ?next, fun g hall hmode hwaiters hasc hgen => ?last⟩,
    fun s hheld hrest => ?early, formatAtRest_iff, fun s hheld hrest => ?empties⟩
  case program => exact exec_programCompletion hheld hop ok
  case erase =>
    rw [exec_eraseCompletion hheld hop ok, horigin]
    rfl
  case header =>
    refine ⟨(takenCounts f o s).1, (takenCounts f o s).2, takenHighest f o, ?_, ?_, fun hnone => ?_⟩
    · rw [startupReadEnded_format hm hf hphase, State.formatErases, erasingRecord_eq]
      rfl
    · rintro w n k st chk rfl hcheck hdata
      have hcounts := headerCounts_of_header hcheck hdata
      rw [takenCounts, takenHighest, hcounts]
      exact ⟨rfl, rfl, rfl⟩
    · have hcounts := headerCounts_of_unreadable hnone
      rw [takenCounts, takenHighest, hcounts]
      exact ⟨rfl, rfl, fun h => formatHighest_of_unformatted h s, fun h => formatHighest_of_records h s⟩
  case erasing =>
    have hok := startupErased_format_ok hm hf hphase
    refine ⟨fun hleft => ?_, fun hnone => ⟨comingStamp s, (formatStamp_of_none_left hnone).1, ?_⟩,
      startupErased_format_fail hm hf hphase⟩
    · obtain ⟨hstamp, hdraws⟩ := formatStamp_of_generation hleft
      rw [hok, hstamp, hdraws]
      rfl
    · rw [hok, (formatStamp_of_none_left hnone).2]
      rfl
  case rewriting => exact ⟨startupHeader_format_ok hm hf hphase, startupHeader_format_fail hm hf hphase⟩
  case next =>
    rw [formatTake_of_next (formatNext_eq_some hfrom hto hn hleast), modFormat_of_format hf]
    rfl
  case last =>
    have htake : formatTake g s = formatLast f s := formatTake_of_none (formatNext_eq_none hall) hf
    have hframe := formatLast_frame hf hmode hasc hgen
    have hwrite := formatLast_write hf hmode hasc hgen hwaiters
    have hslots (n : Nat) : slotAt n (formatLast f s) = slotAt n (addFormatSlot f.slot s) := by
      rw [slotAt, hframe, formatEnded_frame hf hmode hasc]
      rfl
    rw [formatEnded_frame hf hmode hasc] at hframe
    rw [htake]
    generalize formatLast f s = u at hframe hwrite hslots ⊢
    refine ⟨by rw [hframe], by rw [hframe], by rw [hframe]; rfl, by rw [hframe]; rfl, by rw [hframe]; rfl, fun n hn => ?_,
      by rw [hframe]; exact hmode, by rw [hframe]; rfl, by rw [hframe]; rfl, fun n hslot => ?_, fun n hslot => ?_,
      by rw [hframe], by rw [hframe], by rw [hframe], by rw [hframe], by rw [hframe], by rw [hframe], by rw [hframe]; rfl,
      hwrite⟩
    · rw [hframe]
      exact get_formatSpaces hn s
    · rw [hslots, hslot, slotAt_addFormatSlot_same]
    · rw [hslots, slotAt_addFormatSlot_other hslot]
  case early => rw [exec_formatEmptying hheld, hrest]; rfl
  case empties =>
    refine ⟨formatEmpties s, by rw [exec_formatEmptying hheld, hrest]; rfl, formatEmpties_frame s, fun c hc sl hsl => ?_,
      fun n hn => ?_, fun h => ?_, fun g hfrom hto hg hleast => ?_⟩
    · rw [slotAt_formatEmpties, if_pos (List.mem_map_of_mem hc), hsl]
      rfl
    · rw [slotAt_formatEmpties, if_neg]
      rintro hmem
      obtain ⟨c, hc, rfl⟩ := List.mem_map.mp hmem
      exact hn c hc rfl
    · rw [formatEmpties_frame]
      exact answerCompacts_engine h .noGain
    · exact formatTake_of_next (formatNext_eq_some hfrom hto (mt (segState_formatEmpties g s).mp hg)
        fun i hi hlt => (segState_formatEmpties i s).mpr (hleast i hi hlt))

end Sys2Proof.Machine


/-! # The bytes of the link and the frame check (R173, R174, R198) -/

namespace Sys2Proof.Machine

theorem length_leBytes (n v : Nat) : (leBytes n v).length = n := by
  induction n generalizing v with
  | zero => rfl
  | succ n ih => rw [leBytes, List.length_cons, ih]

/-- A field read back is its first byte and 256 times the field of the rest (R198). -/
theorem leNat_leBytes (n v : Nat) : leNat (leBytes n v) = v % 256 ^ n := by
  induction n generalizing v with
  | zero => exact (Nat.mod_one v).symm
  | succ n ih =>
    have hbyte : (BitVec.ofNat 8 v).toNat = v % 256 := BitVec.toNat_ofNat v 8
    rw [leBytes, leNat, ih, hbyte, Nat.pow_succ', Nat.mod_mul]

/-- The check of a frame is no part of the bytes it covers (R173). -/
theorem RxFrame.checkPasses_make (type tag : Byte) (body : List Byte) :
    RxFrame.checkPasses (RxFrame.make type tag body) = true := by
  have hcheck : (RxFrame.make type tag body).check = frameCheck (RxFrame.covered (RxFrame.make type tag body)) := rfl
  rw [RxFrame.checkPasses, hcheck, beq_self_eq_true]

/-- The check of the nine digits 1 to 9, digit by digit (R198). -/
theorem frameCheck_nineDigits :
    frameCheck [0x31#8, 0x32#8, 0x33#8, 0x34#8, 0x35#8, 0x36#8, 0x37#8, 0x38#8, 0x39#8] = 0x29B1#16 := by
  have h1 : crcByte 0xFFFF#16 0x31#8 = 0xC782#16 := by decide
  have h2 : crcByte 0xC782#16 0x32#8 = 0x3DBA#16 := by decide
  have h3 : crcByte 0x3DBA#16 0x33#8 = 0x5BCE#16 := by decide
  have h4 : crcByte 0x5BCE#16 0x34#8 = 0x5349#16 := by decide
  have h5 : crcByte 0x5349#16 0x35#8 = 0x4560#16 := by decide
  have h6 : crcByte 0x4560#16 0x36#8 = 0x2EF4#16 := by decide
  have h7 : crcByte 0x2EF4#16 0x37#8 = 0x7718#16 := by decide
  have h8 : crcByte 0x7718#16 0x38#8 = 0xA12B#16 := by decide
  have h9 : crcByte 0xA12B#16 0x39#8 = 0x29B1#16 := by decide
  simp only [frameCheck, List.foldl, h1, h2, h3, h4, h5, h6, h7, h8, h9]

/-- Settles O9: the field by induction on its bytes, the check of the nine digits by computing it. -/
theorem linkBytesAndFrameCheck : Obligations.LinkBytesAndFrameCheck :=
  ⟨fun n v => ⟨length_leBytes n v, leNat_leBytes n v⟩, frameCheck_nineDigits, RxFrame.checkPasses_make⟩

end Sys2Proof.Machine


/-! # SEGMENT_INFO and SPACE_INFO (R125, R192, Table 9-4) -/

namespace Sys2Proof.Machine

namespace Takes

variable {n : Nat} {s : State}

theorem exec_segmentInfo {g : Nat} (h : Takes n (.segmentInfo g) s) :
    exec .segmentInfo s = .next (carrySegmentInfo n g (takenSlot n s)) := by
  obtain ⟨hheld, _, htaken⟩ := h
  simp [exec, execSegmentInfo, whileRunning, hheld, segmentInfoStep, htaken]

theorem exec_spaceInfo {space : Nat} (h : Takes n (.spaceInfo space) s) :
    exec .spaceInfo s = .next (carrySpaceInfo n space (takenSlot n s)) := by
  obtain ⟨hheld, _, htaken⟩ := h
  simp [exec, execSpaceInfo, whileRunning, hheld, spaceInfoStep, htaken]

/-- In the modes that serve, a SEGMENT_INFO is answered from the tables as they stand (R192). -/
theorem segmentInfo_carried {g : Nat} (h : Takes n (.segmentInfo g) s) (hserves : Serves s) {st : Status}
    {d : ReplyData} (hanswer : segmentAnswer g s = (st, d)) :
    exec .segmentInfo s = .next (settle (answeredIn n st d s)) := by
  have htaken : segmentAnswer g (takenSlot n s) = (st, d) := hanswer
  rw [h.exec_segmentInfo, carrySegmentInfo, afterChecks_single_passed (modeCheck_of_serves (takenSlot n s) hserves),
    htaken, answer_takenSlot h.engine_idle]

/-- A SPACE_INFO of a space of the part reports its record (R192). -/
theorem spaceInfo_carried {space : Nat} (h : Takes n (.spaceInfo space) s) (hserves : Serves s) (hspace : space < 16) :
    exec .spaceInfo s = .next (settle (answeredIn n .ok (.space (spaceAt space s)) s)) := by
  rw [h.exec_spaceInfo, carrySpaceInfo, afterChecks_passed (readChecks_pass (takenSlot n s) hserves hspace),
    answer_takenSlot h.engine_idle]
  rfl

end Takes

/-! ## The answer by the segment's number (R192) -/

theorem mirrorInfo_eq (m : Mirror) (s : State) : mirrorInfo m s =
    .mirror (s.cat.mirror m).eraseCount (s.cat.current == m)
      (if s.cat.current = m then s.cat.nextPage.getD 0 else 0) ((s.cat.mirror m).gen.getD 0) := by
  simp only [mirrorInfo, beq_iff_eq]

theorem segmentAnswer_data {g : Nat} {s : State} {r : SegRec} (hfrom : 2 ≤ g) (hto : g < 1024)
    (hr : segAt g s = some r) : segmentAnswer g s = (.ok, .segment r) := by
  have h0 : g ≠ 0 := by omega
  have h1 : g ≠ 1 := by omega
  simp [segmentAnswer, h0, h1, Config.segments, Nat.not_le.mpr hto, hr]

theorem segmentAnswer_beyond {g : Nat} (s : State) (h : 1024 ≤ g) : segmentAnswer g s = (.badRequest, .none) := by
  have h0 : g ≠ 0 := by omega
  have h1 : g ≠ 1 := by omega
  simp [segmentAnswer, h0, h1, Config.segments, h]

/-- Settles O30: the mode of both requests, SEGMENT_INFO by the segment's number, SPACE_INFO by the space's. -/
theorem infoRequestsReport : Obligations.InfoRequestsReport := by
  refine ⟨fun s n g h hmode => ?_, fun s n sp h hmode => ?_,
    fun s n g h hserves => ⟨fun hg => ?_, fun hg => ?_, fun hfrom hto r hr => ?_, fun hg => ?_⟩,
    fun s n sp h hserves => ⟨fun hsp => ?_, fun hsp r hr => ?_⟩⟩
  · exact h.refused h.exec_segmentInfo (by rw [modeCheck_unformatted (s := takenSlot n s) hmode]; rfl)
  · exact h.refused h.exec_spaceInfo (readChecks_unformatted (takenSlot n s) hmode sp)
  · subst hg
    exact h.segmentInfo_carried hserves (congrArg (Prod.mk Status.ok) (mirrorInfo_eq .a s))
  · subst hg
    exact h.segmentInfo_carried hserves (congrArg (Prod.mk Status.ok) (mirrorInfo_eq .b s))
  · exact h.segmentInfo_carried hserves (segmentAnswer_data hfrom hto hr)
  · exact h.segmentInfo_carried hserves (segmentAnswer_beyond s hg)
  · exact h.refused h.exec_spaceInfo (readChecks_badSpace (takenSlot n s) hserves hsp)
  · rw [h.spaceInfo_carried hserves hsp, spaceAt, hr]
    rfl

end Sys2Proof.Machine


/-! # SET_PARAM, and the segments that a lowered threshold queues (R87, R88, R112, R120, R193, Table 11-3) -/

namespace Sys2Proof.Machine

/-! ## Worst health and refresh reason of a record (R28, R29) -/

/-- The worst health and the refresh reason of a segment's record. -/
def refreshMarks (g : Nat) (s : State) : Option (Health × Option RefreshReason) :=
  (segAt g s).map (fun r => (r.worst, r.reason))

theorem refreshMarks_of_segAt {g : Nat} {s t : State} (h : segAt g t = segAt g s) :
    refreshMarks g t = refreshMarks g s := by
  rw [refreshMarks, refreshMarks, h]

/-- A change of records that keeps worst health and refresh reason. -/
theorem refreshMarks_modSeg {f : SegRec → SegRec} (hf : ∀ r, (f r).worst = r.worst ∧ (f r).reason = r.reason)
    (h g : Nat) (s : State) : refreshMarks h (modSeg g f s) = refreshMarks h s := by
  rw [refreshMarks, refreshMarks, segAt_modSeg]
  split
  · rw [Option.map_map]
    exact congrArg (Option.map · _) (funext fun r => Prod.ext (hf r).1 (hf r).2)
  · rfl

theorem refreshMarks_closeOpen (h : Nat) (id : StreamId) (s : State) :
    refreshMarks h (closeOpen id s) = refreshMarks h s := by
  unfold closeOpen
  split
  · rfl
  · exact (refreshMarks_modSeg (f := SegRec.filled) (fun _ => ⟨rfl, rfl⟩) h _ _).trans
      (refreshMarks_of_segAt (segAt_modStream ..))

theorem refreshMarks_advancePage (h : Nat) (id : StreamId) (g page : Nat) (final : Bool) (s : State) :
    refreshMarks h (advancePage id g page final s) = refreshMarks h s := by
  unfold advancePage
  split
  · exact refreshMarks_closeOpen ..
  · exact refreshMarks_modSeg (f := fun r => { r with nextPage := some (page + 1) }) (fun _ => ⟨rfl, rfl⟩) ..

theorem refreshMarks_commitCause (h : Nat) (id : StreamId) (s : State) :
    refreshMarks h (commitCause id s) = refreshMarks h s := by
  rcases commitCause_cases id s with e | e | ⟨g, p, hdest, _, e⟩
  · rw [e]
  · rw [e]; exact refreshMarks_of_segAt (segAt_modStream ..)
  · rw [e, commitNow_of_dest hdest, refreshMarks_of_segAt (segAt_claimProgram ..),
      refreshMarks_of_segAt (segAt_stopTimer ..), refreshMarks_advancePage, refreshMarks_of_segAt (segAt_modStream ..)]

/-- The close of an OPEN segment that gained a reason leaves the Refresh Queue and every record's worst health and reason
alone (R36, R55). -/
theorem closeForRefresh_keeps (g : Nat) (s : State) : (closeForRefresh g s).urgent = s.urgent ∧
    (closeForRefresh g s).ordinary = s.ordinary ∧ ∀ h, refreshMarks h (closeForRefresh g s) = refreshMarks h s := by
  unfold closeForRefresh
  split
  · exact ⟨rfl, rfl, fun _ => rfl⟩
  · next id _ =>
    split
    · refine ⟨?_, ?_, fun h => refreshMarks_closeOpen h id s⟩ <;> rw [(CommitTouches.closeOpen id s).frame]
    · have htouches := (CommitTouches.modStream id (fun st => { st with finalPage := true }) s).trans
        (CommitTouches.commitCause id _)
      refine ⟨?_, ?_, fun h => (refreshMarks_commitCause h id _).trans (refreshMarks_of_segAt (segAt_modStream ..))⟩ <;>
        rw [htouches.frame]

/-! ## A THRESHOLD arrival (R87, R88) -/

/-- A refresh reason arrives with effect for a segment in this state (R87). -/
def SegRec.refreshable (r : SegRec) : Bool := r.state == .opened || r.state == .full || r.state == .evacuating

theorem SegRec.refreshable_iff (r : SegRec) :
    r.refreshable = true ↔ r.state = .opened ∨ r.state = .full ∨ r.state = .evacuating := by
  simp [SegRec.refreshable, or_assoc]

/-- A refresh reason after THRESHOLD has arrived (R88). -/
def afterThreshold : Option RefreshReason → Option RefreshReason
  | none => some .threshold
  | some .wear => some .threshold
  | some q => some q

theorem afterThreshold_raised {q : Option RefreshReason} (h : q = none ∨ q = some .wear) :
    afterThreshold q = some .threshold := by
  rcases h with rfl | rfl <;> rfl

theorem afterThreshold_kept {q : Option RefreshReason} (hnone : q ≠ none) (hwear : q ≠ some .wear) :
    afterThreshold q = q := by
  match q with
  | none => exact absurd rfl hnone
  | some .wear => exact absurd rfl hwear
  | some .threshold | some .uncorrectable | some .programFault => rfl

/-- A THRESHOLD arrival for each segment of `gs` brings `s` to `t`: those without a reason join the ordinary part in that
order, the reasons rise, and no worst health and no urgent member changes (R87, R88, R112). -/
structure ThresholdArrives (gs : List Nat) (s t : State) : Prop where
  urgent : t.urgent = s.urgent
  ordinary : t.ordinary = s.ordinary ++ gs.filter (fun g => (segAt g s).bind SegRec.reason == none)
  marks : ∀ h, refreshMarks h t =
    if h ∈ gs then (refreshMarks h s).map (Prod.map id afterThreshold) else refreshMarks h s

theorem refreshMarks_setReason (h g : Nat) (q : RefreshReason) (s : State) : refreshMarks h (setReason g q s) =
    if h = g then (refreshMarks h s).map (fun m => (m.1, some q)) else refreshMarks h s := by
  rw [refreshMarks, refreshMarks, setReason, segAt_modSeg]
  split
  · rw [Option.map_map, Option.map_map]; rfl
  · rfl

section
variable {g : Nat} {s : State} {r : SegRec} (hr : segAt g s = some r)
include hr

/-- A segment without a reason joins the ordinary part (R87). -/
theorem ThresholdArrives.joined (hnone : r.reason = none) :
    ThresholdArrives [g] s (joinQueue g .threshold (setReason g .threshold s)) where
  urgent := by rw [joinQueue_eq]; rfl
  ordinary := by rw [joinQueue_eq]; simp [hr, hnone, setReason]
  marks h := by
    have hqueue : refreshMarks h (joinQueue g .threshold (setReason g .threshold s)) =
        refreshMarks h (setReason g .threshold s) := refreshMarks_of_segAt (by rw [joinQueue_eq]; rfl)
    rw [hqueue, refreshMarks_setReason]
    simp only [List.mem_singleton]
    split
    · next e => subst e; simp [refreshMarks, hr, hnone, afterThreshold]
    · rfl

/-- A member keeps its place; WEAR becomes THRESHOLD (R88). -/
theorem ThresholdArrives.member {old : RefreshReason} (hold : r.reason = some old) :
    ThresholdArrives [g] s (upgradeReason g old .threshold s) := by
  have hfilter : [g].filter (fun g => (segAt g s).bind SegRec.reason == none) = [] := by simp [hr, hold]
  by_cases hwear : old = .wear
  · have hset : upgradeReason g old .threshold s = setReason g .threshold s := by subst hwear; rfl
    rw [hset]
    refine ⟨rfl, by rw [hfilter, List.append_nil]; rfl, fun h => ?_⟩
    rw [refreshMarks_setReason]
    simp only [List.mem_singleton]
    split
    · next e => subst e; simp [refreshMarks, hr, hold, hwear, afterThreshold]
    · rfl
  · have hkept : upgradeReason g old .threshold s = s := by
      refine upgradeReason_keeps g s ?_
      cases old with
      | wear => exact absurd rfl hwear
      | threshold => exact .inr (.inr (.inr rfl))
      | uncorrectable => exact .inl rfl
      | programFault => exact .inr (.inl rfl)
    rw [hkept]
    refine ⟨rfl, by rw [hfilter, List.append_nil], fun h => ?_⟩
    simp only [List.mem_singleton]
    split
    · next e =>
      subst e
      have hsame : afterThreshold r.reason = r.reason :=
        afterThreshold_kept (by rw [hold]; exact nofun) (by rw [hold]; simpa using hwear)
      simp [refreshMarks, hr, hsame]
    · rfl

theorem ThresholdArrives.single (hstate : r.refreshable = true) :
    ThresholdArrives [g] s (refreshArrival g .threshold s) := by
  have hstate := r.refreshable_iff.mp hstate
  cases hreason : r.reason with
  | some old =>
    rw [refreshArrival_member hr .threshold hstate hreason]
    exact .member hr hreason
  | none =>
    have hjoined := ThresholdArrives.joined hr hreason
    rcases hstate with hopened | hfull | hevacuating
    · rw [refreshArrival_opened hr .threshold hopened hreason]
      obtain ⟨hurgent, hordinary, hmarks⟩ :=
        closeForRefresh_keeps g (joinQueue g .threshold (setReason g .threshold s))
      exact ⟨hurgent.trans hjoined.urgent, hordinary.trans hjoined.ordinary,
        fun h => (hmarks h).trans (hjoined.marks h)⟩
    · rw [refreshArrival_joins hr hfull hreason]
      exact hjoined
    · rw [refreshArrival_evacuating hr .threshold hevacuating hreason]
      exact hjoined

end

/-- The arrivals for a list of segments, each of which the earlier ones leave alone (R112). -/
theorem ThresholdArrives.fold {gs : List Nat} (hgs : gs.Nodup) {s : State}
    (hstates : ∀ g ∈ gs, ∃ r, segAt g s = some r ∧ r.refreshable = true) :
    ThresholdArrives gs s (gs.foldl (fun t g => refreshArrival g .threshold t) s) := by
  induction gs generalizing s with
  | nil => exact ⟨rfl, (List.append_nil _).symm, fun _ => (if_neg List.not_mem_nil).symm⟩
  | cons g gs ih =>
    obtain ⟨hnot, hrest⟩ := List.nodup_cons.mp hgs
    obtain ⟨r, hr, hstate⟩ := hstates g List.mem_cons_self
    have hfirst := ThresholdArrives.single hr hstate
    have hother {h : Nat} (hh : h ∈ gs) : segAt h (refreshArrival g .threshold s) = segAt h s :=
      (refreshArrival_touches g .threshold s).other h fun e => hnot (e ▸ hh)
    have hthen := ih hrest (s := refreshArrival g .threshold s) fun h hh => by
      rw [hother hh]; exact hstates h (List.mem_cons_of_mem g hh)
    refine ⟨hthen.urgent.trans hfirst.urgent, ?_, fun h => ?_⟩
    · have hsame : gs.filter (fun h => (segAt h (refreshArrival g .threshold s)).bind SegRec.reason == none) =
          gs.filter (fun h => (segAt h s).bind SegRec.reason == none) :=
        List.filter_congr fun h hh => by rw [hother hh]
      rw [List.foldl_cons, hthen.ordinary, hfirst.ordinary, hsame, List.append_assoc, ← List.filter_append]
      rfl
    · rw [List.foldl_cons, hthen.marks]
      by_cases hh : h ∈ gs
      · rw [if_pos hh, if_pos (List.mem_cons_of_mem g hh), refreshMarks_of_segAt (hother hh)]
      · rw [if_neg hh, hfirst.marks]
        simp only [List.mem_cons, List.not_mem_nil, hh, or_false]

/-! ## The segments at or above a threshold (R112) -/

/-- The worst health is a corrected count at or above `v`. -/
def SegRec.reaches (v : Nat) (r : SegRec) : Bool :=
  match r.worst with
  | .bits n => decide (v ≤ n)
  | .uncorrectable => false

theorem SegRec.reaches_iff (v : Nat) (r : SegRec) : r.reaches v = true ↔ ∃ k, r.worst = .bits k ∧ v ≤ k := by
  unfold SegRec.reaches
  cases r.worst <;> simp

/-- The segments for which a threshold of `v` brings an arrival with effect, in ascending order. -/
def thresholdHits (v : Nat) (s : State) : List Nat :=
  ((s.segs.filter (fun p => p.2.reaches v)).filter (fun p => p.2.refreshable)).map Prod.fst

section
variable {s : State} (hs : Store.Canonical s.segs)
include hs

theorem thresholdHits_ascending (v : Nat) : (thresholdHits v s).Pairwise (· < ·) :=
  Store.canonical_filter (Store.canonical_filter hs)

theorem mem_thresholdHits {v g : Nat} : g ∈ thresholdHits v s ↔
    ∃ r, segAt g s = some r ∧ r.refreshable = true ∧ r.reaches v = true := by
  simp only [thresholdHits, List.mem_map, List.mem_filter]
  constructor
  · rintro ⟨⟨h, r⟩, ⟨⟨hmem, hreaches⟩, hstate⟩, rfl⟩
    exact ⟨r, Store.get_of_mem hs hmem, hstate, hreaches⟩
  · rintro ⟨r, hr, hstate, hreaches⟩
    exact ⟨(g, r), ⟨⟨Store.mem_of_get hr, hreaches⟩, hstate⟩, rfl⟩

end

/-- Arrivals for listed records come to those of the records a reason can arrive for; the others have none (R87). -/
theorem foldl_refreshArrival_refreshable (q : RefreshReason) {l : List (Nat × SegRec)} (hl : Store.Canonical l)
    {s : State} (hrec : ∀ p ∈ l, segAt p.1 s = some p.2) :
    l.foldl (fun t p => refreshArrival p.1 q t) s =
      ((l.filter (fun p => p.2.refreshable)).map Prod.fst).foldl (fun t g => refreshArrival g q t) s := by
  induction l generalizing s with
  | nil => rfl
  | cons p l ih =>
    obtain ⟨hlt, hl⟩ := List.pairwise_cons.mp hl
    have hp := hrec p List.mem_cons_self
    have hthen := ih hl (s := refreshArrival p.1 q s) fun x hx => by
      have hne : x.1 ≠ p.1 := (Nat.ne_of_lt (hlt x.1 (List.mem_map_of_mem hx))).symm
      rw [(refreshArrival_touches p.1 q s).other x.1 hne]
      exact hrec x (List.mem_cons_of_mem p hx)
    rw [List.foldl_cons, hthen]
    by_cases hstate : p.2.refreshable = true
    · rw [List.filter_cons, if_pos hstate]
      rfl
    · have hnone := mt p.2.refreshable_iff.mpr hstate
      rw [List.filter_cons, if_neg hstate, refreshArrival_ignored hp q (fun e => hnone (.inl e))
        (fun e => hnone (.inr (.inl e))) (fun e => hnone (.inr (.inr e)))]

theorem thresholdLowered_eq (v : Nat) {s : State} (hs : Store.Canonical s.segs) :
    thresholdLowered v s = (thresholdHits v s).foldl (fun t g => refreshArrival g .threshold t) s := by
  refine Eq.trans (?_ : _ = (s.segs.filter (fun p => p.2.reaches v)).foldl _ s)
    (foldl_refreshArrival_refreshable .threshold (Store.canonical_filter hs) fun p hp => ?_)
  · rfl
  · exact Store.get_of_mem hs (List.mem_of_mem_filter hp)

theorem thresholdLowered_arrives (v : Nat) {s : State} (hs : Store.Canonical s.segs) :
    ThresholdArrives (thresholdHits v s) s (thresholdLowered v s) := by
  rw [thresholdLowered_eq v hs]
  refine .fold ((thresholdHits_ascending hs v).imp Nat.ne_of_lt) fun g hg => ?_
  obtain ⟨r, hr, hstate, _⟩ := (mem_thresholdHits hs).mp hg
  exact ⟨r, hr, hstate⟩

/-- A record after the arrivals: its worst health stays, and its reason rises if it was hit (R88, R112). -/
theorem ThresholdArrives.record {gs : List Nat} {s t : State} (h : ThresholdArrives gs s t) {g : Nat} {r : SegRec}
    (hr : segAt g s = some r) : ∃ r', segAt g t = some r' ∧ r'.worst = r.worst ∧
      r'.reason = if g ∈ gs then afterThreshold r.reason else r.reason := by
  have hmarks : refreshMarks g t = some (r.worst, if g ∈ gs then afterThreshold r.reason else r.reason) := by
    rw [h.marks, refreshMarks, hr]
    split <;> rfl
  obtain ⟨r', hr', hpair⟩ := Option.map_eq_some_iff.mp hmarks
  obtain ⟨hworst, hreason⟩ := Prod.mk.inj hpair
  exact ⟨r', hr', hworst, hreason⟩

/-! ## SET_PARAM is taken and carried out (R193, Table 11-3) -/

/-- The ranges of Table 11-3. -/
theorem paramAccepted_iff (code v : Nat) (p : Params) : paramAccepted code v p = true ↔
    (code = 1 ∧ v ≤ 50) ∨ (code = 2 ∧ (v = 0 ∨ 10 ≤ v ∧ v ≤ 10000)) ∨ (code = 3 ∧ 1 ≤ v ∧ v ≤ 12) ∨
      (code = 4 ∧ 6 ≤ v ∧ v ≤ 64 ∧ v + 2 ≤ p.compactStop) ∨ (code = 5 ∧ p.compactStart + 2 ≤ v ∧ v ≤ 96) := by
  match code with
  | 0 | 1 | 2 | 3 | 4 | 5 => simp [paramAccepted, and_assoc]
  | c + 6 => simp [paramAccepted]

namespace Takes

variable {n code v : Nat} {s : State}

theorem exec_setParam (h : Takes n (.setParam code v) s) :
    exec .setParam s = .next (carrySetParam n code v (takenSlot n s)) := by
  obtain ⟨hheld, _, htaken⟩ := h
  simp [exec, execSetParam, whileRunning, hheld, setParamStep, htaken]

theorem setParam_accepted (h : Takes n (.setParam code v) s) (hserves : Serves s)
    (haccepted : paramAccepted code v s.params = true) : exec .setParam s = .next (settle (answer n .ok .none
      (paramTakesEffect code v s.params.threshold
        (takenSlot n { s with params := Params.set code v s.params })))) := by
  have htaken : paramAccepted code v (takenSlot n s).params = true := haccepted
  rw [h.exec_setParam, carrySetParam, afterChecks_single_passed (modeCheck_of_serves (takenSlot n s) hserves), setParam,
    if_pos htaken]
  rfl

/-- An accepted value whose effect is `u` is answered OK (R193). -/
theorem setParam_answered (h : Takes n (.setParam code v) s) (hserves : Serves s)
    (haccepted : paramAccepted code v s.params = true) {u : State} (hengine : u.engine = s.engine)
    (heffect : paramTakesEffect code v s.params.threshold
      (takenSlot n { s with params := Params.set code v s.params }) = takenSlot n u) :
    exec .setParam s = .next (settle (answeredIn n .ok .none u)) := by
  have hidle : u.engine.active = none := by rw [hengine]; exact h.engine_idle
  rw [h.setParam_accepted hserves haccepted, heffect, answer_takenSlot hidle]

theorem setParam_refused (h : Takes n (.setParam code v) s) (hserves : Serves s)
    (hrefused : ¬ paramAccepted code v s.params = true) :
    exec .setParam s = .next (settle (answeredIn n .badParam .none s)) := by
  have htaken : ¬ paramAccepted code v (takenSlot n s).params = true := hrefused
  rw [h.exec_setParam, carrySetParam, afterChecks_single_passed (modeCheck_of_serves (takenSlot n s) hserves), setParam,
    if_neg htaken, answer_takenSlot h.engine_idle]

end Takes

/-- Settles O31: the mode, the arrivals of a lowered threshold, and the value by the rows of Table 11-3. -/
theorem setParamByItsTable : Obligations.SetParamByItsTable := by
  refine ⟨fun s n code v h hmode => ?_, fun v s hs => ?_, fun s n code v h hserves => ?_⟩
  · exact h.refused h.exec_setParam (by rw [modeCheck_unformatted (s := takenSlot n s) hmode]; rfl)
  · intro t hit
    have hmem (g : Nat) : g ∈ thresholdHits v s ↔ hit g := by
      simp only [mem_thresholdHits hs, SegRec.refreshable_iff, SegRec.reaches_iff, hit]
      exact ⟨fun ⟨r, hr, hstate, k, hk⟩ => ⟨r, k, hr, hstate, hk⟩, fun ⟨r, k, hr, hstate, hk⟩ => ⟨r, hr, hstate, k, hk⟩⟩
    have harrives := thresholdLowered_arrives v hs
    have hascending := thresholdHits_ascending hs v
    refine ⟨⟨thresholdHits v s, hascending, hmem, thresholdLowered_eq v hs⟩, harrives.urgent,
      ⟨_, harrives.ordinary, hascending.filter _, fun g => ?_⟩, fun g r hr => ?_⟩
    · rw [List.mem_filter, hmem, beq_iff_eq]
    · obtain ⟨r', hr', hworst, hreason⟩ := harrives.record hr
      refine ⟨r', hr', hworst, fun hhit hlow => ?_, fun hkept => ?_⟩
      · rw [hreason, if_pos ((hmem g).mpr hhit), afterThreshold_raised hlow]
      · rw [hreason]
        split
        · next hg =>
          obtain ⟨hnone, hwear⟩ := hkept.resolve_left (not_not.mpr ((hmem g).mp hg))
          exact afterThreshold_kept hnone hwear
        · rfl
  · intro p q
    have haccepts := paramAccepted_iff code v p
    refine ⟨?_, ?_, ?_, ?_, ?_, ?_, fun h1 h2 h3 h4 h5 => h.setParam_refused hserves fun hok => ?_⟩
    · rintro rfl hv
      exact h.setParam_answered hserves (haccepts.mpr (.inl ⟨rfl, hv⟩)) rfl rfl
    · rintro rfl hv
      exact h.setParam_answered hserves (haccepts.mpr (.inr (.inl ⟨rfl, hv⟩))) rfl rfl
    · rintro rfl hv hkept
      exact h.setParam_answered hserves (haccepts.mpr (.inr (.inr (.inl ⟨rfl, hv⟩)))) rfl (if_neg (Nat.not_lt.mpr hkept))
    · rintro rfl hv hlowered
      rw [h.setParam_accepted hserves (haccepts.mpr (.inr (.inr (.inl ⟨rfl, hv⟩)))), paramTakesEffect, if_pos hlowered]
      rfl
    · rintro rfl hv
      exact h.setParam_answered hserves (haccepts.mpr (.inr (.inr (.inr (.inl ⟨rfl, hv⟩))))) rfl rfl
    · rintro rfl hv
      exact h.setParam_answered hserves (haccepts.mpr (.inr (.inr (.inr (.inr ⟨rfl, hv⟩))))) rfl rfl
    · rcases haccepts.mp hok with hrow | hrow | hrow | hrow | hrow
      exacts [h1 hrow, h2 hrow, h3 hrow, h4 hrow, h5 hrow]

end Sys2Proof.Machine


/-! # The parameters change only at SET_PARAM and at power-on and RST (R158, R193) -/

namespace Sys2Proof.Machine

/-- No basic change of the streams, the engines, mount and FORMAT touches the parameters (R193). -/
theorem params_building (p : Params) : Building (fun t => t.params = p) where
  work _ _ h _ x := by unfold SameButWork at h; rw [h]; exact x
  slots _ _ _ x := x
  notice _ _ x := x
  segs _ _ _ x := x
  index _ _ _ x := x
  counts _ _ _ x := x
  readOnly _ _ _ x := x
  pendingCause _ _ _ x := x
  formatFails _ _ _ x := x
  sequence _ _ _ x := x
  marks _ _ x := x
  startup _ _ _ x := x
  spaces _ _ _ x := x

/-! ## The end of a change -/

theorem SettleKeeps.params {s t : State} (h : SettleKeeps s t) : t.params = s.params := by rw [h.frame]

@[simp] theorem params_settle (s : State) : (settle s).params = s.params := (SettleKeeps.settleWith false s).params

@[simp] theorem params_settleAfterOp (s : State) : (settleAfterOp s).params = s.params :=
  (SettleKeeps.settleWith true s).params

@[simp] theorem params_calm (s : State) : (calm s).params = s.params := (SettleKeeps.calm s).params

@[simp] theorem params_finish (s : State) : (finish s).params = s.params :=
  ((SettleKeeps.refl s).sends (finish_sendsOnly s)).params

@[simp] theorem params_commitCause (id : StreamId) (s : State) : (commitCause id s).params = s.params :=
  (params_building s.params).keeps_commitCause id rfl

@[simp] theorem params_storeFor (n : Nat) (k : Key) (v : Option (List Byte)) (s : State) :
    (storeFor n k v s).params = s.params := (params_building s.params).keeps_storeFor n k v rfl

@[simp] theorem params_suspendNext (fuel : Nat) (s : State) : (suspendNext fuel s).params = s.params :=
  (params_building s.params).keeps_suspendNext fuel rfl

/-! ## The Host Link -/

@[simp] theorem params_refuseFrame (f : RxFrame) (st : Status) (s : State) : (refuseFrame f st s).params = s.params := by
  unfold refuseFrame; split <;> rfl

@[simp] theorem params_queueFrame (f : RxFrame) (r : Request) (s : State) : (queueFrame f r s).params = s.params := by
  unfold queueFrame takeSlot
  split
  · exact params_refuseFrame ..
  · split
    · exact params_refuseFrame ..
    · split
      · exact params_refuseFrame ..
      · rfl

theorem params_cancelEffect (target : Byte) (s : State) : (cancelEffect target s).2.params = s.params := by
  unfold cancelEffect
  split
  · rfl
  · split
    case h_3 => split <;> rfl
    all_goals rfl

theorem params_doImmediate (f : RxFrame) (i : Immediate) (s : State) : (doImmediate f i s).params = s.params := by
  cases i with
  | reset => exact (params_settle _).trans (params_commitCause ..)
  | identify => rw [doImmediate, params_calm]; split <;> rfl
  | status => rw [doImmediate, params_calm]; split <;> rfl
  | cancel target =>
    rw [doImmediate, params_calm]
    split
    · exact params_cancelEffect target s
    · rfl

theorem params_dispose (f : RxFrame) (s : State) : (dispose f s).params = s.params := by
  unfold dispose
  split
  · rfl
  · split
    · simp
    · split
      · exact params_doImmediate ..
      · simp
      · simp

theorem params_frameEnds (f : RxFrame) (s : State) : (frameEnds f s).params = s.params := by
  unfold frameEnds
  split
  · rfl
  · split
    · rfl
    · split
      · exact params_dispose f (hunt s)
      · rfl

theorem params_insideFrame {f : State → State} {s : State} (hf : (f s).params = s.params) :
    (insideFrame f s).params = s.params :=
  Whole.keeps_insideFrame (P := fun t => t.params = s.params) (fun _ => hf) rfl

theorem params_resetReplyStep (s : State) : (resetReplyStep s).params = s.params := by
  unfold resetReplyStep
  split
  · rfl
  · split
    · exact params_finish _
    · rfl

theorem params_frameSentStep (s : State) : (frameSentStep s).params = s.params := by
  unfold frameSentStep
  split
  · rfl
  · exact params_calm _

/-! ## The Request Engine -/

@[simp] theorem params_deleteKey (n : Nat) (k : Key) (s : State) : (deleteKey n k s).params = s.params := by
  unfold deleteKey
  split
  · exact params_storeFor ..
  · rfl

@[simp] theorem params_syncSlot (n : Nat) (s : State) : (syncSlot n s).params = s.params := by
  unfold syncSlot
  split
  · rfl
  · split
    · exact params_commitCause ..
    · rfl

@[simp] theorem params_getKey (n : Nat) (k : Key) (s : State) : (getKey n k s).params = s.params := by
  unfold getKey; split <;> rfl

@[simp] theorem params_compactSlot (n : Nat) (target : Option Nat) (s : State) :
    (compactSlot n target s).params = s.params := by
  unfold compactSlot; dsimp only; split <;> rfl

@[simp] theorem params_freezeSpace (n space : Nat) (s : State) : (freezeSpace n space s).params = s.params := rfl

@[simp] theorem params_setPolicy (n space policy pin : Nat) (s : State) :
    (setPolicy n space policy pin s).params = s.params := rfl

@[simp] theorem params_setQuota (n space quota : Nat) (s : State) : (setQuota n space quota s).params = s.params := rfl

@[simp] theorem params_clearSpace (n space : Nat) (s : State) : (clearSpace n space s).params = s.params :=
  foldl_keeps (P := fun t : State => t.params = s.params)
    (fun _ k => (params_building s.params).keeps_changeEntry k none) _ rfl

@[simp] theorem params_formatBegins (n : Nat) (s : State) : (formatBegins n s).params = s.params :=
  (params_building s.params).keeps_formatBegins n rfl

/-- A taken request is refused or carried out (R131). -/
theorem params_afterChecks {n : Nat} {checks : List (Option (Status × ReplyData))} {go : State → State} {s : State}
    (hgo : (go s).params = s.params) : (afterChecks n checks go s).params = s.params := by
  unfold afterChecks
  split
  · exact params_settle _
  · exact (params_settle _).trans hgo

/-- The command is a change that only a running part makes, and that leaves the parameters alone. -/
def LeavesParams (c : Instr) : Prop :=
  ∃ f : State → State, (∀ s, exec c s = .next (whileRunning f s)) ∧ ∀ s, (f s).params = s.params

/-- No request but a SET_PARAM changes the parameters by being taken: what carries it out leaves them alone (R181). -/
theorem leavesParams_of_taking {c : Instr} (hc : isTaking c = true) (hnot : c ≠ .setParam) : LeavesParams c := by
  cases c <;> cases hc
  case setParam => exact absurd rfl hnot
  all_goals
    refine ⟨_, fun _ => rfl, fun s => ?_⟩
    simp only [putStep, deleteStep, getStep, listStep, syncStep, compactStep, segmentInfoStep, spaceInfoStep, freezeStep,
      setPolicyStep, setQuotaStep, clearSpaceStep, formatStep]
    split
    · exact params_afterChecks (by simp)
    · rfl

/-! ## Array operations that end -/

theorem params_scanFrom (g : Nat) (s : State) : (scanFrom g s).params = s.params := by
  unfold scanFrom
  split
  · rfl
  · unfold mountStates
    split
    · rfl
    · next m _ => exact (params_building s.params).keeps_eraseNext ((params_building s.params).keeps_buildIndex m rfl)

theorem params_catalogueRead (s : State) : (catalogueRead s).params = s.params := by
  unfold catalogueRead
  split
  · rfl
  · split
    · rfl
    · split
      · rfl
      · exact params_scanFrom ..

theorem params_scanHeader (g : Nat) (o : ReadOutcome) (s : State) : (scanHeader g o s).params = s.params := by
  unfold scanHeader
  dsimp only
  split
  · exact params_scanFrom ..
  · rfl

theorem params_scanPage (g page : Nat) (o : ReadOutcome) (s : State) : (scanPage g page o s).params = s.params := by
  unfold scanPage
  dsimp only
  split
  · exact params_scanFrom ..
  · split
    · rfl
    · exact params_scanFrom ..

/-- The reads of mount use the health threshold and leave it as it is (R158, R162). -/
theorem params_mountRead (g page : Nat) (o : ReadOutcome) (m : Mount) (s : State) :
    (mountRead g page o m s).params = s.params := by
  unfold mountRead
  split
  · unfold catalogueNext
    split
    · rfl
    · split
      · rfl
      · exact params_catalogueRead _
  · split
    · exact params_scanHeader ..
    · exact params_scanPage ..
  · rfl

theorem params_readOriginator (run : ReadRun) (o : ReadOutcome) (s : State) :
    (readOriginator run o s).params = s.params := by
  have hP := params_building s.params
  unfold readOriginator
  split
  · split
    · exact hP.keeps_answerGet _ _ rfl
    · rfl
  · unfold startupReadEnded
    split
    · exact params_mountRead ..
    · exact hP.keeps_formatRead _ _ rfl
    · rfl
  · exact hP.keeps_engineRead _ _ _ rfl
  all_goals rfl

@[simp] theorem params_readEnds (run : ReadRun) (o : ReadOutcome) (s : State) : (readEnds run o s).params = s.params := by
  rw [readEnds, params_settleAfterOp, params_suspendNext, params_readOriginator]
  exact (params_building s.params).keeps_healthHandles run o rfl

@[simp] theorem params_programEnds (o : Originator) (g p : Nat) (d : PageData) (ok : Bool) (s : State) :
    (programEnds o g p d ok s).params = s.params := by
  have hP := params_building s.params
  have hset : (setPage g p d (programQuality ok) (startOp none s)).params = s.params := rfl
  rw [programEnds, params_settleAfterOp]
  unfold programOriginator
  split
  · split
    · exact hP.keeps_pageProgrammed _ hset
    · exact hP.keeps_pageFailed _ hset
  · split
    · exact hP.keeps_pageProgrammed _ hset
    · exact hP.keeps_pageFailed _ hset
  · exact hP.keeps_engineHeader _ hset
  · exact hP.keeps_writerProgrammed _ hset
  · exact hP.keeps_startupHeader _ hset
  all_goals exact hset

@[simp] theorem params_eraseEnds (e : EraseRun) (ok : Bool) (s : State) : (eraseEnds e ok s).params = s.params := by
  have hP := params_building s.params
  have hleaves : (eraseLeaves ok e.seg (startOp none s)).params = s.params := by rw [eraseLeaves_frame]; rfl
  rw [eraseEnds, params_settleAfterOp]
  unfold eraseOriginator
  split
  · exact hP.keeps_engineErased _ hleaves
  · exact hP.keeps_writerErased _ hleaves
  · exact hP.keeps_startupErased _ hleaves
  all_goals exact hleaves

/-- A command by which an array operation ends or is suspended. -/
def endsOperation : Instr → Bool
  | .readCompletion _ => true
  | .programCompletion _ => true
  | .eraseCompletion _ => true
  | .arrayOperationTimeout => true
  | .eraseSuspendTimeout => true
  | .eraseSuspended => true
  | _ => false

theorem leavesParams_of_endsOperation {c : Instr} (hc : endsOperation c = true) : LeavesParams c := by
  cases c <;> cases hc
  all_goals
    refine ⟨_, fun _ => rfl, fun s => ?_⟩
    simp only [readCompletionStep, programCompletionStep, eraseCompletionStep, timeoutStep, suspendTimeoutStep,
      eraseSuspendedStep, suspendErase]
    repeat' split
    all_goals simp

/-! ## PFW, the timers and the part's own steps -/

theorem params_pfwAssertedStep (s : State) : (pfwAssertedStep s).params = s.params := by
  unfold pfwAssertedStep
  split
  · rfl
  · split
    · rfl
    · exact (params_settle _).trans (params_commitCause ..)

theorem params_pfwDeassertedStep (s : State) : (pfwDeassertedStep s).params = s.params := by
  unfold pfwDeassertedStep
  split
  · split
    · rfl
    · exact params_settle _
  · rfl

theorem params_commitWindowStep (s : State) : (commitWindowStep s).params = s.params := by
  unfold commitWindowStep
  split
  · exact (params_settle _).trans (params_commitCause ..)
  · rfl

theorem params_patrolStep (s : State) : (patrolStep s).params = s.params := by
  have hclaim : (patrolClaim s).params = s.params := by unfold patrolClaim; split <;> rfl
  unfold patrolStep
  split
  · exact (params_settle _).trans hclaim
  · rfl

theorem params_formatEmptyingStep (s : State) : (formatEmptyingStep s).params = s.params := by
  have hP := params_building s.params
  unfold formatEmptyingStep
  split
  · exact (params_settle _).trans (hP.keeps_formatTake _ (hP.keeps_formatEmpties rfl))
  · rfl

theorem params_placeWaiting (w : WaitingEntry) (s : State) : (placeWaiting w s).params = s.params := by
  have hP := params_building s.params
  cases w with
  | host n k v => exact params_storeFor n k v (clearWaiting .host s)
  | copy e src =>
    have hhanded : (handCopy e src (clearWaiting .relocate s)).state.params = s.params := hP.keeps_handCopy e src rfl
    rw [placeWaiting]
    unfold resumeCopying
    split
    · next u e => rw [e] at hhanded; exact hP.keeps_copyLoop _ hhanded
    · next u e => rw [e] at hhanded; exact hhanded
    · next u e => rw [e] at hhanded; exact hhanded

theorem params_waitingPlacedStep (id : StreamId) (s : State) : (waitingPlacedStep id s).params = s.params := by
  unfold waitingPlacedStep
  split
  · rfl
  · split
    · exact (params_settle _).trans (params_placeWaiting ..)
    · rfl

theorem params_proceed (n : Nat) (r : Request) (s : State) : (proceed n r s).params = s.params := by
  unfold proceed
  split
  · exact params_storeFor ..
  · exact params_storeFor ..
  · rfl

theorem params_heldProceedsStep (s : State) : (heldProceedsStep s).params = s.params := by
  unfold heldProceedsStep
  split
  · rfl
  · split
    · rfl
    · split
      · exact (params_settle _).trans (params_proceed ..)
      · rfl

theorem params_evacuationEndStep (s : State) : (evacuationEndStep s).params = s.params := by
  unfold evacuationEndStep
  split
  · rfl
  · split
    · exact (params_settle _).trans ((params_building s.params).keeps_decideFate _ rfl)
    · rfl

/-! ## The obligation -/

/-- Every command of a running part but SET_PARAM leaves the parameters alone (R193). -/
theorem leavesParams {c : Instr} (hline : isLineCommand c = false) (hnot : c ≠ .setParam) : LeavesParams c := by
  cases c
  case powerOn | powerLoss | rstAsserted | rstDeasserted | wpChanged | pfwAsserted | pfwDeasserted => cases hline
  case setParam => exact absurd rfl hnot
  case put | delete | get | list | sync | compact | segmentInfo | spaceInfo | freeze | setPolicy | setQuota | clearSpace |
    format => exact leavesParams_of_taking rfl hnot
  case readCompletion | programCompletion | eraseCompletion | arrayOperationTimeout | eraseSuspendTimeout |
    eraseSuspended => exact leavesParams_of_endsOperation rfl
  case frameReceived | identify | status | cancel | reset =>
    exact ⟨_, fun _ => rfl, fun s => params_insideFrame (params_frameEnds ..)⟩
  case lengthError | frameCheckFailed | receiverTimeout =>
    exact ⟨_, fun _ => rfl, fun s => params_insideFrame rfl⟩
  case frameStartMarker => exact ⟨_, fun _ => rfl, fun _ => rfl⟩
  case resetReplyBuilt => exact ⟨_, fun _ => rfl, params_resetReplyStep⟩
  case frameSent => exact ⟨_, fun _ => rfl, params_frameSentStep⟩
  case formatEmptying => exact ⟨_, fun _ => rfl, params_formatEmptyingStep⟩
  case commitWindowExpiry => exact ⟨_, fun _ => rfl, params_commitWindowStep⟩
  case patrolTimerExpiry => exact ⟨_, fun _ => rfl, params_patrolStep⟩
  case waitingEntryPlaced id => exact ⟨_, fun _ => rfl, params_waitingPlacedStep id⟩
  case heldRequestProceeds => exact ⟨_, fun _ => rfl, params_heldProceedsStep⟩
  case evacuationEnd => exact ⟨_, fun _ => rfl, params_evacuationEndStep⟩

theorem params_powerOnStep (s : State) : (powerOnStep s).params = Params.default := by
  unfold powerOnStep
  dsimp only
  split
  · rfl
  · exact params_settle _

/-- Settles O58, by the command: a level of a line, a change of a running part, or a reset. -/
theorem parametersChangeOnlyBySetParam : Obligations.ParametersChangeOnlyBySetParam := by
  refine fun c s t h => ⟨fun hreset hnot => ?_, ?_⟩
  · have after {u : State} (hu : u.params = s.params) (e : (Host.Outcome.next u : Result) = .next t) :
        t.params = s.params := next_of (P := fun x : State => x.params = s.params) hu e
    by_cases hline : isLineCommand c = false
    · obtain ⟨f, hexec, hf⟩ := leavesParams hline hnot
      refine after (Whole.keeps_whileRunning (P := fun x : State => x.params = s.params) (fun _ => hf s) rfl) ?_
      rw [← hexec, h]
    · cases c
      case wpChanged b => exact after (u := { s with wp := b }) rfl h
      case pfwAsserted => exact after (params_pfwAssertedStep s) h
      case pfwDeasserted => exact after (params_pfwDeassertedStep s) h
      case powerOn | powerLoss | rstAsserted | rstDeasserted => cases hreset
      all_goals exact absurd rfl hline
  · have after {u : State} (hu : u.params = Params.default) (e : (Host.Outcome.next u : Result) = .next t) :
        t.params = Params.default := next_of (P := fun x : State => x.params = Params.default) hu e
    rintro (rfl | rfl | rfl)
    · exact after (u := { discardAll s with rst := true }) rfl h
    · exact after (params_powerOnStep s) h
    · exact after (u := { discardAll s with powered := false }) rfl h

end Sys2Proof.Machine


/-! # A step takes the command at the front of the queue -/

namespace Sys2Proof.Machine

/-- A queue that is not empty: the command at its front runs, and finds only the rest in the queue. -/
theorem step_of_pending_cons {c : Instr} {rest : List Instr} {s : State} (h : s.pending = c :: rest) :
    step s = exec c { s with pending := rest } := by
  rw [step, h]

/-- An empty queue: the part idles (assumption 10). -/
theorem step_of_pending_nil {s : State} (h : s.pending = []) : step s = .next s := by
  rw [step, h]

@[simp] theorem pending_enqueueFront (c : Instr) (s : State) : (s.enqueueFront c).pending = c :: s.pending := rfl

/-- Taking the command out of the queue again gives back the state it was put into. -/
theorem enqueueFront_dequeued (c : Instr) (s : State) : { s.enqueueFront c with pending := s.pending } = s := rfl

theorem step_enqueueFront (c : Instr) (s : State) : step (s.enqueueFront c) = exec c s := by
  rw [step_of_pending_cons (pending_enqueueFront c s), enqueueFront_dequeued]

/-- Settles O1, by the queue: the command put at its front, or no command. -/
theorem stepRunsFrontCommand : Obligations.StepRunsFrontCommand :=
  ⟨step_enqueueFront, fun _ => step_of_pending_nil⟩

end Sys2Proof.Machine


/-! # What the Host Link keeps while the rest of the part works (R177 to R179, R185, R186)

`Whole.keeps_exec` asks that the marks of the scan are listed in order, since mount makes the segment records from them.
A property of the Host Link does not look at those records, so here it is kept whatever the tables of the part hold. -/

namespace Sys2Proof.Machine

/-- A property of the Host Link and of the starvation guard count alone, kept by a change of what a slot waits for
and by a producer's notice. -/
structure LinkProp (P : State → Prop) : Prop where
  reads : ∀ s t, t.link = s.link → (s.arr.guardCount ≤ 4 → t.arr.guardCount ≤ 4) → P s → P t
  slots : ∀ s l, l.map slotId = s.link.slots.map slotId → P s → P { s with link := { s.link with slots := l } }
  notice : ∀ x s, P s → P (queueNotice x s)

/-- `LinkProp`, kept by the transmitter's choice as well. -/
structure SendingProp (P : State → Prop) : Prop extends LinkProp P where
  finish : ∀ s, P s → P (finish s)

namespace LinkProp

variable {P : State → Prop} {s t : State}

/-- A change of neither the Host Link nor the array. -/
theorem same (hP : LinkProp P) (h : P s) (hlink : t.link = s.link) (harr : t.arr = s.arr) : P t :=
  hP.reads s t hlink (fun x => harr ▸ x) h

theorem building (hP : LinkProp P) : Building P where
  work s t h hg x := hP.reads s t (by unfold SameButWork at h; rw [h]) hg x
  slots := hP.slots
  notice := hP.notice
  segs _ _ _ x := hP.same x rfl rfl
  index _ _ _ x := hP.same x rfl rfl
  counts _ _ _ x := hP.same x rfl rfl
  readOnly _ _ _ x := hP.same x rfl rfl
  pendingCause _ _ _ x := hP.same x rfl rfl
  formatFails _ _ _ x := hP.same x rfl rfl
  sequence _ _ _ x := hP.same x rfl rfl
  marks _ _ x := hP.same x rfl rfl
  startup _ _ _ x := hP.same x rfl rfl
  spaces _ _ _ x := hP.same x rfl rfl

/-- With the basic changes of the Host Link it is a property of `Whole`. -/
theorem whole (hP : LinkProp P) (hlink : ∀ s l, LinkStep s.link l → P s → P { s with link := l }) : Whole P where
  toBuilding := hP.building
  link := hlink
  params _ _ x := hP.same x rfl rfl
  patrol _ _ x := hP.same x rfl rfl
  lines _ _ _ x := hP.same x rfl rfl
  flash _ _ _ x := hP.same x rfl rfl

/-! ## The reads of mount -/

theorem keeps_scanFrom (hP : LinkProp P) (g : Nat) (h : P s) : P (scanFrom g s) := by
  unfold scanFrom
  split
  · exact hP.building.keeps_startupRead _ _ (hP.same h rfl rfl)
  · unfold mountStates
    split
    · exact h
    · next m _ => exact hP.building.keeps_eraseNext (hP.same (hP.building.keeps_buildIndex m h) rfl rfl)

theorem keeps_catalogueRead (hP : LinkProp P) (h : P s) : P (catalogueRead s) := by
  unfold catalogueRead
  split
  · exact h
  · split
    · exact hP.building.keeps_mountUnformatted _ h
    · split
      · exact h
      · exact hP.keeps_scanFrom _ (hP.same h rfl rfl)

theorem keeps_scanHeader (hP : LinkProp P) (g : Nat) (o : ReadOutcome) (h : P s) : P (scanHeader g o s) := by
  unfold scanHeader
  dsimp only
  split
  · exact hP.keeps_scanFrom _ (hP.same h rfl rfl)
  · exact hP.building.keeps_startupRead _ _ (hP.same h rfl rfl)

theorem keeps_scanPage (hP : LinkProp P) (g page : Nat) (o : ReadOutcome) (h : P s) : P (scanPage g page o s) := by
  unfold scanPage
  dsimp only
  split
  · exact hP.keeps_scanFrom _ (hP.same h rfl rfl)
  · split
    · exact hP.building.keeps_startupRead _ _ (hP.same h rfl rfl)
    · exact hP.keeps_scanFrom _ (hP.same h rfl rfl)

theorem keeps_mountRead (hP : LinkProp P) (g page : Nat) (o : ReadOutcome) (m : Mount) (h : P s) :
    P (mountRead g page o m s) := by
  have hmirror : P (takeMirrorPage g page o s) := hP.same h rfl rfl
  unfold mountRead
  split
  · unfold catalogueNext
    split
    · exact hP.building.keeps_startupRead _ _ (hP.same hmirror rfl rfl)
    · split
      · exact hP.building.keeps_startupRead _ _ (hP.same hmirror rfl rfl)
      · exact hP.keeps_catalogueRead hmirror
  · split
    · exact hP.keeps_scanHeader g o h
    · exact hP.keeps_scanPage g page o h
  · exact h

/-! ## The originators of reads, programs and erases (R80) -/

theorem keeps_readOriginator (hP : LinkProp P) (run : ReadRun) (o : ReadOutcome) (h : P s) :
    P (readOriginator run o s) := by
  unfold readOriginator
  split
  · split
    · exact hP.building.keeps_answerGet _ _ h
    · exact h
  · unfold startupReadEnded
    split
    · exact hP.keeps_mountRead _ _ _ _ h
    · exact hP.building.keeps_formatRead _ _ h
    · exact h
  · exact hP.building.keeps_engineRead _ _ _ h
  all_goals exact h

theorem keeps_programOriginator (hP : LinkProp P) (origin : Originator) (ok : Bool) (h : P s) :
    P (programOriginator origin ok s) := by
  have hb := hP.building
  unfold programOriginator
  split
  · split
    · exact hb.keeps_pageProgrammed _ h
    · exact hb.keeps_pageFailed _ h
  · split
    · exact hb.keeps_pageProgrammed _ h
    · exact hb.keeps_pageFailed _ h
  · exact hb.keeps_engineHeader _ h
  · exact hb.keeps_writerProgrammed _ h
  · exact hb.keeps_startupHeader _ h
  all_goals exact h

theorem keeps_eraseOriginator (hP : LinkProp P) (origin : Originator) (ok : Bool) (h : P s) :
    P (eraseOriginator origin ok s) := by
  unfold eraseOriginator
  split
  · exact hP.building.keeps_engineErased _ h
  · exact hP.building.keeps_writerErased _ h
  · exact hP.building.keeps_startupErased _ h
  all_goals exact h

/-! ## What carries out a taken request (R181) -/

theorem keeps_takenSlot (hP : LinkProp P) (n : Nat) (h : P s) : P (takenSlot n s) :=
  hP.same (hP.building.keeps_modSlot n (f := fun sl => { sl with state := .active }) (fun _ _ => rfl) h) rfl rfl

theorem keeps_setSlotState (hP : LinkProp P) (n : Nat) (st : SlotState) (h : P s) : P (setSlotState n st s) :=
  hP.building.keeps_modSlot n (fun _ _ => rfl) h

theorem keeps_awaitCatalogue (hP : LinkProp P) (n : Nat) (h : P s) : P (awaitCatalogue n s) :=
  hP.building.keeps_addWaiter _ (hP.keeps_setSlotState _ _ h)

theorem keeps_deleteKey (hP : LinkProp P) (n : Nat) (k : Key) (h : P s) : P (deleteKey n k s) := by
  unfold deleteKey
  split
  · exact hP.building.keeps_storeFor _ _ _ h
  · exact hP.building.keeps_answer _ _ _ h

theorem keeps_syncSlot (hP : LinkProp P) (n : Nat) (h : P s) : P (syncSlot n s) := by
  unfold syncSlot
  split
  · exact hP.building.keeps_answer _ _ _ h
  · split
    · refine hP.building.keeps_commitCause _ (hP.same (hP.keeps_setSlotState n .awaitingCommit ?_) rfl rfl)
      exact hP.building.marks s _ h
    · exact hP.building.keeps_answer _ _ _ h

theorem keeps_getKey (hP : LinkProp P) (n : Nat) (k : Key) (h : P s) : P (getKey n k s) := by
  unfold getKey
  split
  · exact hP.building.keeps_answer _ _ _ h
  · exact hP.building.keeps_makeClaim _ _ _ h

theorem keeps_setParam (hP : LinkProp P) (n code value : Nat) (h : P s) : P (setParam n code value s) := by
  have hset : P { s with params := Params.set code value s.params } := hP.same h rfl rfl
  unfold setParam
  split
  · refine hP.building.keeps_answer _ _ _ ?_
    unfold paramTakesEffect
    split
    · exact hP.same hset rfl rfl
    · split
      · exact hP.building.keeps_thresholdLowered _ hset
      · exact hset
    · exact hset
  · exact hP.building.keeps_answer _ _ _ h

theorem keeps_compactSlot (hP : LinkProp P) (n : Nat) (target : Option Nat) (h : P s) : P (compactSlot n target s) := by
  unfold compactSlot
  dsimp only
  split
  · exact hP.building.keeps_answer _ _ _ h
  · refine hP.same (hP.keeps_setSlotState n .awaitingCompaction ?_) rfl rfl
    exact hP.building.keeps_modComp (fun c => { c with compacts := c.compacts ++ [_] }) h

theorem keeps_clearSpace (hP : LinkProp P) (n space : Nat) (h : P s) : P (clearSpace n space s) := by
  refine hP.keeps_awaitCatalogue n (hP.same (s := removeSpace space s) ?_ rfl rfl)
  exact foldl_keeps (fun _ k => hP.building.keeps_changeEntry k none) _ h

theorem keeps_proceed (hP : LinkProp P) (n : Nat) (r : Request) (h : P s) : P (proceed n r s) := by
  unfold proceed
  split
  · exact hP.building.keeps_storeFor _ _ _ (hP.keeps_setSlotState _ _ h)
  · exact hP.building.keeps_storeFor _ _ _ (hP.keeps_setSlotState _ _ h)
  · exact h

theorem keeps_placeWaiting (hP : LinkProp P) (w : WaitingEntry) (h : P s) : P (placeWaiting w s) := by
  have hb := hP.building
  have hclear (id : StreamId) : P (clearWaiting id s) := hb.keeps_modStream id _ h
  cases w with
  | host n k v => exact hb.keeps_storeFor n k v (hclear .host)
  | copy e src =>
    have hhanded := hb.keeps_handCopy e src (hclear .relocate)
    rw [placeWaiting]
    unfold resumeCopying
    split
    · next u e => rw [e] at hhanded; exact hb.keeps_copyLoop _ hhanded
    · next u e => rw [e] at hhanded; exact hhanded
    · next u e => rw [e] at hhanded; exact hhanded

end LinkProp

namespace SendingProp

variable {P : State → Prop} {s t : State}

/-! ## The end of a change -/

theorem keeps_settleWith (hP : SendingProp P) (ended : Bool) (h : P s) : P (settleWith ended s) :=
  have hb := hP.building
  hP.finish _ (hb.keeps_settleRound ended (hb.keeps_settleRound ended h))

theorem keeps_settle (hP : SendingProp P) (h : P s) : P (settle s) := hP.keeps_settleWith false h

/-! ## The Request Engine -/

/-- A taken request is refused or carried out (R131). -/
theorem keeps_afterChecks (hP : SendingProp P) (n : Nat) (checks : List (Option (Status × ReplyData)))
    {go : State → State} (hgo : P s → P (go s)) (h : P s) : P (afterChecks n checks go s) := by
  unfold afterChecks
  split
  · exact hP.keeps_settle (hP.building.keeps_answer _ _ _ h)
  · exact hP.keeps_settle (hgo h)

/-- A command by which the engine takes a request. -/
theorem keeps_taking (hP : SendingProp P) {c : Instr} (h : P s) (e : exec c s = .next t)
    (hc : isTaking c = true) : P t := by
  have hb := hP.building
  have htaken (n : Nat) : P (takenSlot n s) := hP.keeps_takenSlot n h
  have running (f : State → State) (hexec : exec c s = .next (whileRunning f s)) (hf : P (f s)) : P t :=
    next_of (Whole.keeps_whileRunning (fun _ => hf) h) (hexec.symm.trans e)
  cases c <;> cases hc
  case put =>
    refine running putStep rfl ?_
    unfold putStep
    split
    exacts [hP.keeps_afterChecks _ _ (hb.keeps_storeFor _ _ _) (htaken _), h]
  case delete =>
    refine running deleteStep rfl ?_
    unfold deleteStep
    split
    exacts [hP.keeps_afterChecks _ _ (hP.keeps_deleteKey _ _) (htaken _), h]
  case get =>
    refine running getStep rfl ?_
    unfold getStep
    split
    exacts [hP.keeps_afterChecks _ _ (hP.keeps_getKey _ _) (htaken _), h]
  case list =>
    refine running listStep rfl ?_
    unfold listStep
    split
    exacts [hP.keeps_afterChecks _ _ (hb.keeps_answer _ _ _) (htaken _), h]
  case sync =>
    refine running syncStep rfl ?_
    unfold syncStep
    split
    exacts [hP.keeps_afterChecks _ _ (hP.keeps_syncSlot _) (htaken _), h]
  case compact =>
    refine running compactStep rfl ?_
    unfold compactStep
    split
    exacts [hP.keeps_afterChecks _ _ (hP.keeps_compactSlot _ _) (htaken _), h]
  case segmentInfo =>
    refine running segmentInfoStep rfl ?_
    unfold segmentInfoStep
    split
    exacts [hP.keeps_afterChecks _ _ (hb.keeps_answer _ _ _) (htaken _), h]
  case spaceInfo =>
    refine running spaceInfoStep rfl ?_
    unfold spaceInfoStep
    split
    exacts [hP.keeps_afterChecks _ _ (hb.keeps_answer _ _ _) (htaken _), h]
  case setParam =>
    refine running setParamStep rfl ?_
    unfold setParamStep
    split
    exacts [hP.keeps_afterChecks _ _ (hP.keeps_setParam _ _ _) (htaken _), h]
  case freeze =>
    refine running freezeStep rfl ?_
    unfold freezeStep
    split
    exacts [hP.keeps_afterChecks _ _ (fun x => hb.keeps_answer _ _ _ (hP.same x rfl rfl)) (htaken _), h]
  case setPolicy =>
    refine running setPolicyStep rfl ?_
    unfold setPolicyStep
    split
    exacts [hP.keeps_afterChecks _ _ (fun x => hP.keeps_awaitCatalogue _ (hP.same x rfl rfl)) (htaken _), h]
  case setQuota =>
    refine running setQuotaStep rfl ?_
    unfold setQuotaStep
    split
    exacts [hP.keeps_afterChecks _ _ (fun x => hP.keeps_awaitCatalogue _ (hP.same x rfl rfl)) (htaken _), h]
  case clearSpace =>
    refine running clearSpaceStep rfl ?_
    unfold clearSpaceStep
    split
    exacts [hP.keeps_afterChecks _ _ (hP.keeps_clearSpace _ _) (htaken _), h]
  case format =>
    refine running formatStep rfl ?_
    unfold formatStep
    split
    exacts [hP.keeps_afterChecks _ _ (hb.keeps_formatBegins _) (htaken _), h]

/-! ## Array operations that end -/

theorem keeps_readEnds (hP : SendingProp P) (run : ReadRun) (o : ReadOutcome) (h : P s) : P (readEnds run o s) :=
  have hb := hP.building
  hP.keeps_settleWith true (hb.keeps_suspendNext 2 (hP.keeps_readOriginator run o
    (hb.keeps_healthHandles run o (hb.keeps_startOp none h))))

theorem keeps_programEnds (hP : SendingProp P) (origin : Originator) (g p : Nat) (d : PageData) (ok : Bool) (h : P s) :
    P (programEnds origin g p d ok s) := by
  refine hP.keeps_settleWith true (hP.keeps_programOriginator origin ok ?_)
  exact hP.same (hP.building.keeps_startOp none h) rfl rfl

theorem keeps_eraseEnds (hP : SendingProp P) (e : EraseRun) (ok : Bool) (h : P s) : P (eraseEnds e ok s) := by
  refine hP.keeps_settleWith true (hP.keeps_eraseOriginator e.origin ok ?_)
  refine hP.same (hP.building.keeps_startOp none h) ?_ ?_
  · rw [eraseLeaves_frame]
  · rw [eraseLeaves_frame]

/-- A command by which an array operation ends or is suspended. -/
theorem keeps_endsOperation (hP : SendingProp P) {c : Instr} (h : P s) (e : exec c s = .next t)
    (hc : endsOperation c = true) : P t := by
  have running (f : State → State) (hexec : exec c s = .next (whileRunning f s)) (hf : P (f s)) : P t :=
    next_of (Whole.keeps_whileRunning (fun _ => hf) h) (hexec.symm.trans e)
  cases c <;> cases hc
  case readCompletion report =>
    refine running (readCompletionStep report) rfl ?_
    unfold readCompletionStep
    split
    · split
      exacts [hP.keeps_readEnds _ _ h, h]
    · exact h
  case programCompletion ok =>
    refine running (programCompletionStep ok) rfl ?_
    unfold programCompletionStep
    split
    exacts [hP.keeps_programEnds _ _ _ _ _ h, h]
  case eraseCompletion ok =>
    refine running (eraseCompletionStep ok) rfl ?_
    unfold eraseCompletionStep
    split
    exacts [hP.keeps_eraseEnds _ _ h, h]
  case arrayOperationTimeout =>
    refine running timeoutStep rfl ?_
    unfold timeoutStep
    split
    exacts [hP.keeps_readEnds _ _ h, hP.keeps_programEnds _ _ _ _ _ h, hP.keeps_eraseEnds _ _ h, h]
  case eraseSuspendTimeout =>
    refine running suspendTimeoutStep rfl ?_
    unfold suspendTimeoutStep
    split
    · split
      exacts [hP.keeps_eraseEnds _ _ h, h]
    · exact h
  case eraseSuspended =>
    refine running eraseSuspendedStep rfl ?_
    unfold eraseSuspendedStep
    split
    · split
      · exact hP.keeps_settle (hP.building.keeps_suspendNext 2 (hP.building.work s _ rfl (fun x => x) h))
      · exact h
    · exact h

/-! ## PFW, the timers and the part's own steps -/

theorem keeps_pfwAssertedStep (hP : SendingProp P) (h : P s) : P (pfwAssertedStep s) := by
  have hb := hP.building
  unfold pfwAssertedStep
  split
  · exact h
  · split
    · exact hP.same h rfl rfl
    · refine hP.keeps_settle (hb.keeps_withdrawPatrol (hb.keeps_withdrawEngineWork (hb.keeps_commitCause .host ?_)))
      exact hP.same h rfl rfl

theorem keeps_pfwDeassertedStep (hP : SendingProp P) (h : P s) : P (pfwDeassertedStep s) := by
  have hclear : P (setPfw false s) := hP.same h rfl rfl
  unfold pfwDeassertedStep
  split
  · split
    · exact hclear
    · exact hP.keeps_settle hclear
  · exact h

theorem keeps_commitWindowStep (hP : SendingProp P) (h : P s) : P (commitWindowStep s) := by
  unfold commitWindowStep
  split
  · exact hP.keeps_settle (hP.building.keeps_commitCause .host (hP.same h rfl rfl))
  · exact h

theorem keeps_patrolStep (hP : SendingProp P) (h : P s) : P (patrolStep s) := by
  unfold patrolStep
  split
  · refine hP.keeps_settle ?_
    unfold patrolClaim
    split
    · exact h
    · exact hP.building.keeps_makeClaim _ _ _ (hP.same h rfl rfl)
  · exact h

theorem keeps_formatEmptyingStep (hP : SendingProp P) (h : P s) : P (formatEmptyingStep s) := by
  unfold formatEmptyingStep
  split
  · exact hP.keeps_settle (hP.building.keeps_formatTake _ (hP.building.keeps_formatEmpties h))
  · exact h

theorem keeps_waitingPlacedStep (hP : SendingProp P) (id : StreamId) (h : P s) : P (waitingPlacedStep id s) := by
  unfold waitingPlacedStep
  split
  · exact h
  · split
    · exact hP.keeps_settle (hP.keeps_placeWaiting _ h)
    · exact h

theorem keeps_heldProceedsStep (hP : SendingProp P) (h : P s) : P (heldProceedsStep s) := by
  unfold heldProceedsStep
  split
  · exact h
  · split
    · exact h
    · split
      · exact hP.keeps_settle (hP.keeps_proceed _ _ h)
      · exact h

theorem keeps_evacuationEndStep (hP : SendingProp P) (h : P s) : P (evacuationEndStep s) := by
  unfold evacuationEndStep
  split
  · exact h
  · split
    · exact hP.keeps_settle (hP.building.keeps_decideFate _ h)
    · exact h

end SendingProp

/-- The commands by which the Host Link itself moves: a frame starts, ends or is sent, or the RESET reply is built. -/
def isLinkCommand : Instr → Bool
  | .frameStartMarker => true
  | .lengthError => true
  | .frameCheckFailed => true
  | .receiverTimeout => true
  | .frameReceived _ => true
  | .identify _ => true
  | .status _ => true
  | .cancel _ _ => true
  | .reset _ => true
  | .resetReplyBuilt => true
  | .frameSent => true
  | _ => false

/-- A command of neither the Host Link nor the supply keeps a property of the Host Link, whatever the tables of the part
hold. -/
theorem SendingProp.keeps_exec {P : State → Prop} (hP : SendingProp P) {c : Instr} {s t : State}
    (hreset : isResetCommand c = false) (hlink : isLinkCommand c = false) (h : P s) (e : exec c s = .next t) : P t := by
  have running {f : State → State} (hf : P (f s)) : P (whileRunning f s) := Whole.keeps_whileRunning (fun _ => hf) h
  cases c
  case powerOn | powerLoss | rstAsserted | rstDeasserted => cases hreset
  case frameStartMarker | lengthError | frameCheckFailed | receiverTimeout | frameReceived | identify | status |
    cancel | reset | resetReplyBuilt | frameSent => cases hlink
  case put | delete | get | list | sync | compact | segmentInfo | spaceInfo | setParam | freeze | setPolicy | setQuota |
    clearSpace | format =>
    exact hP.keeps_taking h e rfl
  case readCompletion | programCompletion | eraseCompletion | arrayOperationTimeout | eraseSuspendTimeout |
    eraseSuspended =>
    exact hP.keeps_endsOperation h e rfl
  case wpChanged b => exact next_of (a := { s with wp := b }) (hP.same h rfl rfl) e
  case pfwAsserted => exact next_of (hP.keeps_pfwAssertedStep h) e
  case pfwDeasserted => exact next_of (hP.keeps_pfwDeassertedStep h) e
  case commitWindowExpiry => exact next_of (running (hP.keeps_commitWindowStep h)) e
  case patrolTimerExpiry => exact next_of (running (hP.keeps_patrolStep h)) e
  case formatEmptying => exact next_of (running (hP.keeps_formatEmptyingStep h)) e
  case waitingEntryPlaced id => exact next_of (running (hP.keeps_waitingPlacedStep id h)) e
  case heldRequestProceeds => exact next_of (running (hP.keeps_heldProceedsStep h)) e
  case evacuationEnd => exact next_of (running (hP.keeps_evacuationEndStep h)) e

/-- A command of the Host Link keeps a property of `Whole`, whatever the tables of the part hold. -/
theorem Whole.keeps_linkCommand {P : State → Prop} (hP : Whole P) {c : Instr} {s t : State} (h : P s)
    (e : exec c s = .next t) (hc : isLinkCommand c = true) : P t := by
  have running {f : State → State} (hf : P s → P (f s)) : P (whileRunning f s) := Whole.keeps_whileRunning hf h
  cases c <;> cases hc
  case frameStartMarker => exact next_of (running (hP.link s _ (.marks s.link _ _ _ _ _))) e
  case lengthError => exact next_of (running (Whole.keeps_insideFrame hP.keeps_discardLength)) e
  case frameCheckFailed => exact next_of (running (Whole.keeps_insideFrame hP.keeps_discardCheck)) e
  case receiverTimeout => exact next_of (running (Whole.keeps_insideFrame hP.keeps_discardTimeout)) e
  case frameReceived | identify | status | cancel | reset => exact next_of (hP.keeps_receive _ h) e
  case resetReplyBuilt => exact next_of (running hP.keeps_resetReplyStep) e
  case frameSent => exact next_of (running hP.keeps_frameSentStep) e

/-- A command of the supply or RST keeps a property of `Whole` that the held part has. -/
theorem Whole.keeps_resetCommand {P : State → Prop} (hP : Whole P) {c : Instr} {s t : State} (h : P s)
    (hheld : ∀ w r, P { discardAll s with powered := w, rst := r }) (hrst : P { s with rst := false })
    (e : exec c s = .next t) (hc : isResetCommand c = true) : P t := by
  have hboot (v : State) (x : P v) : P (boot v) := hP.keeps_settle (hP.keeps_mountBegins x)
  cases c <;> cases hc
  case powerOn =>
    refine next_of ?_ e
    unfold powerOnStep
    dsimp only
    split
    exacts [hheld true _, hboot _ (hheld true _)]
  case powerLoss => exact next_of (hheld false _) e
  case rstAsserted => exact next_of (hheld _ true) e
  case rstDeasserted =>
    refine next_of ?_ e
    unfold rstDeassertedStep
    split
    · split
      exacts [hboot _ hrst, hrst]
    · exact h

/-- A property of the Host Link that each basic change of it keeps, and that the held part has, is kept by every
step. -/
theorem LinkProp.keeps_step {P : State → Prop} (hP : LinkProp P)
    (hlink : ∀ s l, LinkStep s.link l → P s → P { s with link := l })
    (hheld : ∀ s, s.link = Link.empty → s.arr = ArrayCtl.idle → P s) {s t : State} (h : P s)
    (e : step s = .next t) : P t := by
  have hW := hP.whole hlink
  have hsends : SendingProp P := { toLinkProp := hP, finish := fun _ => hW.keeps_finish }
  unfold step at e
  split at e
  · exact next_of h e
  · next c rest _ =>
    have hrest : P { s with pending := rest } := hP.same h rfl rfl
    by_cases hc : isLinkCommand c = true
    · exact hW.keeps_linkCommand hrest e hc
    · by_cases hr : isResetCommand c = true
      · exact hW.keeps_resetCommand hrest (fun _ _ => hheld _ rfl rfl) (hP.same hrest rfl rfl) e hr
      · exact hsends.keeps_exec (Bool.eq_false_of_not_eq_true hr) (Bool.eq_false_of_not_eq_true hc) hrest e

end Sys2Proof.Machine


/-! # The Notice Queue (R186) -/

namespace Sys2Proof.Machine

theorem any_isOverflow_eq_false {q : List Notice} :
    q.any Notice.isOverflow = false ↔ ∀ x ∈ q, x.isOverflow = false := by
  simp

/-- An OVERFLOW notice is counted up where it stands, and no other notice changes (R186(3)). -/
theorem isOverflow_countLost (x : Notice) : x.countLost.isOverflow = x.isOverflow := by cases x <;> rfl

theorem countLost_of_not_overflow {x : Notice} (h : x.isOverflow = false) : x.countLost = x := by
  cases x with
  | overflow => cases h
  | _ => rfl

/-! ## A producer's notice -/

theorem pushNotice_of_room {q : List Notice} (hnone : ∀ y ∈ q, y.isOverflow = false) (h : q.length ≤ 10) (x : Notice) :
    pushNotice x q = q ++ [x] := by
  rw [pushNotice, any_isOverflow_eq_false.mpr hnone, if_neg Bool.false_ne_true, if_pos h]

theorem pushNotice_of_full {q : List Notice} (hnone : ∀ y ∈ q, y.isOverflow = false) (h : q.length = 11) (x : Notice) :
    pushNotice x q = q ++ [.overflow 1] := by
  rw [pushNotice, any_isOverflow_eq_false.mpr hnone, if_neg Bool.false_ne_true, if_neg (by omega)]

/-- A notice lost behind a waiting OVERFLOW is counted in it (R186(3)). -/
theorem pushNotice_of_overflow {front : List Notice} (hnone : ∀ y ∈ front, y.isOverflow = false) (c : Nat)
    (x : Notice) :
    pushNotice x (front ++ [.overflow c]) = front ++ [.overflow (min (c + 1) 65535)] := by
  have hfront : front.map Notice.countLost = front := by
    conv_rhs => rw [← List.map_id front]
    exact List.map_congr_left fun y hy => countLost_of_not_overflow (hnone y hy)
  rw [pushNotice, if_pos (by simp [Notice.isOverflow]), List.map_append, hfront]
  rfl

/-- Settles O17, by the notices that wait. -/
theorem noticeQueueRule : Obligations.NoticeQueueRule := by
  refine fun x s => ⟨pushNotice x s.link.notices, rfl, fun hnone hroom => pushNotice_of_room hnone hroom x,
    fun hnone hfull => pushNotice_of_full hnone hfull x, fun front c hnone hq => ?_⟩
  rw [hq]
  exact pushNotice_of_overflow hnone c x

/-! ## The OVERFLOW is the newest -/

/-- Of a queue that ends with `x`, only `x` may be an OVERFLOW. -/
theorem overflowNewest_concat (q : List Notice) (x : Notice) :
    overflowNewest (q ++ [x]) = true ↔ ∀ y ∈ q, y.isOverflow = false := by
  induction q with
  | nil => simp [overflowNewest]
  | cons y q ih =>
    cases q with
    | nil => simp [overflowNewest]
    | cons z q =>
      rw [List.forall_mem_cons, ← ih]
      simp [overflowNewest]

/-- Counting a lost notice leaves the place of the OVERFLOW as it is. -/
theorem overflowNewest_countLost (q : List Notice) : overflowNewest (q.map Notice.countLost) = overflowNewest q := by
  induction q with
  | nil => rfl
  | cons x q ih =>
    cases q with
    | nil => rfl
    | cons y q =>
      simp only [List.map_cons, overflowNewest, isOverflow_countLost] at ih ⊢
      rw [ih]

theorem overflowNewest_tail {x : Notice} {q : List Notice} (h : overflowNewest (x :: q) = true) :
    overflowNewest q = true := by
  cases q with
  | nil => rfl
  | cons y q => simp only [overflowNewest, Bool.and_eq_true] at h; exact h.2

namespace NoticesBounded

variable {q : List Notice}

/-- A producer's notice keeps the queue's bounds (R186(1) to (3)). -/
theorem pushNotice (x : Notice) (h : NoticesBounded q) : NoticesBounded (pushNotice x q) := by
  obtain ⟨hlen, hroom, hnewest⟩ := h
  by_cases hover : q.any Notice.isOverflow = true
  · rw [Machine.pushNotice, if_pos hover]
    refine ⟨by rwa [List.length_map], fun hnone => ?_, by rwa [overflowNewest_countLost]⟩
    rw [List.any_map, show Notice.isOverflow ∘ Notice.countLost = Notice.isOverflow from funext isOverflow_countLost,
      hover] at hnone
    cases hnone
  · have hnone := any_isOverflow_eq_false.mp (Bool.eq_false_of_not_eq_true hover)
    have hlen11 := hroom (Bool.eq_false_of_not_eq_true hover)
    by_cases hfree : q.length ≤ 10
    · have hlonger : (q ++ [x]).length ≤ 11 := by rw [List.length_append, List.length_singleton]; omega
      rw [pushNotice_of_room hnone hfree]
      exact ⟨by omega, fun _ => hlonger, (overflowNewest_concat q x).mpr hnone⟩
    · have hlonger : (q ++ [Notice.overflow 1]).length ≤ 12 := by rw [List.length_append, List.length_singleton]; omega
      rw [pushNotice_of_full hnone (by omega)]
      refine ⟨hlonger, fun h => ?_, (overflowNewest_concat q _).mpr hnone⟩
      simp [Notice.isOverflow] at h

/-- The oldest notice leaves the queue. -/
theorem tail {x : Notice} (h : NoticesBounded (x :: q)) : NoticesBounded q := by
  obtain ⟨hlen, -, hnewest⟩ := h
  rw [List.length_cons] at hlen
  exact ⟨by omega, fun _ => by omega, overflowNewest_tail hnewest⟩

theorem nil : NoticesBounded [] := ⟨Nat.zero_le _, fun _ => Nat.zero_le _, rfl⟩

theorem linkProp : LinkProp (fun s => NoticesBounded s.link.notices) where
  reads _ _ hlink _ h := hlink ▸ h
  slots _ _ _ h := h
  notice x _ h := h.pushNotice x

/-- No change of the Host Link but the sending of a notice and the RESET reply touches the queue. -/
theorem linkStep {l m : Link} (h : LinkStep l m) (hq : NoticesBounded l.notices) : NoticesBounded m.notices := by
  cases h with
  | noticeLeaves x rest e => exact tail (e ▸ hq)
  | emptied => exact nil
  | _ => exact hq

end NoticesBounded

/-- Settles O51, by the basic changes of the Host Link: a notice enters by R186 or the oldest leaves. -/
theorem everyStepKeepsNoticesBounded : Obligations.EveryStepKeepsNoticesBounded := fun _ _ h e =>
  NoticesBounded.linkProp.keeps_step (fun _ _ => NoticesBounded.linkStep)
    (fun _ hempty _ => by rw [hempty]; exact NoticesBounded.nil) h e

end Sys2Proof.Machine


/-! # Counts that stay in range (R79, R175, R177, R185) -/

namespace Sys2Proof.Machine

theorem countUp_le (n : Nat) : countUp n ≤ Config.countCap := Nat.min_le_right _ _

/-- A link counter that stays or rises by one stays in range (R175). -/
theorem counter_le {x y : Nat} (h : y = x ∨ y = countUp x) (hx : x ≤ Config.countCap) : y ≤ Config.countCap := by
  rcases h with rfl | rfl
  · exact hx
  · exact countUp_le x

namespace CountsBounded

theorem linkProp : LinkProp CountsBounded where
  reads s t hlink hguard := fun ⟨hroom, hnotice, hstarve, hcounters⟩ => by
    unfold CountsBounded
    rw [hlink]
    exact ⟨hroom, hnotice, hguard hstarve, hcounters⟩
  slots _ _ _ h := h
  notice _ _ h := h

theorem linkStep {s : State} {l : Link} (h : LinkStep s.link l) (hs : CountsBounded s) :
    CountsBounded { s with link := l } := by
  obtain ⟨hroom, hnotice, hstarve, hcheck, hlength, htimeout, hdropped⟩ := hs
  cases h with
  | counters c h1 h2 h3 h4 =>
    exact ⟨hroom, hnotice, hstarve, counter_le h1 hcheck, counter_le h2 hlength, counter_le h3 htimeout,
      counter_le h4 hdropped⟩
  | answerLeaves a rest e =>
    rw [e, List.length_cons] at hroom
    exact ⟨Nat.le_of_succ_le hroom, hnotice, hstarve, hcheck, hlength, htimeout, hdropped⟩
  | answerEnters a hfree =>
    refine ⟨?_, hnotice, hstarve, hcheck, hlength, htimeout, hdropped⟩
    rw [List.length_append, List.length_singleton]
    exact hfree
  | guard n hn =>
    refine ⟨hroom, ?_, hstarve, hcheck, hlength, htimeout, hdropped⟩
    rcases hn with rfl | hn
    exacts [hnotice, hn]
  | emptied =>
    exact ⟨Nat.zero_le _, Nat.zero_le _, hstarve, Nat.zero_le _, Nat.zero_le _, Nat.zero_le _, Nat.zero_le _⟩
  | _ => exact ⟨hroom, hnotice, hstarve, hcheck, hlength, htimeout, hdropped⟩

theorem held {s : State} (hlink : s.link = Link.empty) (harr : s.arr = ArrayCtl.idle) : CountsBounded s := by
  unfold CountsBounded
  rw [hlink, harr]
  decide

end CountsBounded

/-- Settles O53, by the basic changes of the Host Link, and by the guard count of the array, which every other change of
the part keeps in range. -/
theorem everyStepKeepsCountsBounded : Obligations.EveryStepKeepsCountsBounded := fun _ _ h e =>
  CountsBounded.linkProp.keeps_step (fun _ _ => CountsBounded.linkStep) (fun _ => CountsBounded.held) h e

end Sys2Proof.Machine


/-! # The Request Table (R178) -/

namespace Sys2Proof.Machine

/-- What the soundness of the Request Table is about: the numbers, tags and arrival numbers of its slots. -/
theorem RequestTableSound.of_ids {l m : List (Nat × Slot)} (h : m.map slotId = l.map slotId)
    (hl : RequestTableSound l) : RequestTableSound m := by
  obtain ⟨hcanonical, hslots, htags, hnodup, hrange⟩ := hl
  have htag : m.map (fun p => p.2.tag) = l.map (fun p => p.2.tag) := by
    simpa [Function.comp_def, slotId] using congrArg (List.map (fun i => i.2.1)) h
  have harrival : m.map (fun p => p.2.arrival) = l.map (fun p => p.2.arrival) := by
    simpa [Function.comp_def, slotId] using congrArg (List.map (fun i => i.2.2.2)) h
  have hlength : m.length = l.length := by simpa using congrArg List.length h
  have hmem {p : Nat × Slot} (hp : p ∈ m) : ∃ q ∈ l, slotId q = slotId p :=
    List.mem_map.mp (h ▸ List.mem_map_of_mem hp)
  refine ⟨canonical_of_keys (keys_of_slotIds h) hcanonical, fun p hp => ?_, htag ▸ htags, harrival ▸ hnodup,
    fun p hp => ?_⟩
  · obtain ⟨q, hq, hid⟩ := hmem hp
    simp only [slotId, Prod.mk.injEq] at hid
    obtain ⟨hnumber, hqtag, -, -⟩ := hid
    rw [← hnumber, ← hqtag]
    exact hslots q hq
  · obtain ⟨q, hq, hid⟩ := hmem hp
    simp only [slotId, Prod.mk.injEq] at hid
    obtain ⟨-, -, -, hqarrival⟩ := hid
    rw [← hqarrival, hlength]
    exact hrange q hq

/-! ## A slot is taken -/

theorem Store.perm_put {α : Type} {k : Nat} {l : List (Nat × α)} (h : Store.get k l = none) (v : α) :
    (Store.put k v l).Perm ((k, v) :: l) := by
  induction l with
  | nil => exact .refl _
  | cons p l ih =>
    obtain ⟨j, w⟩ := p
    by_cases hj : j = k
    · simp [Store.get, hj] at h
    · rw [Store.get, if_neg hj] at h
      rw [Store.put, if_neg hj]
      split
      · exact .refl _
      · exact ((ih h).cons _).trans (.swap _ _ _)

/-- The lowest free slot taken as the newest (R176, R178). -/
theorem RequestTableSound.occupy {n : Nat} {tag : Byte} {l : List (Nat × Slot)} (r : Request)
    (htag : tag ≠ 0#8) (hunused : ∀ p ∈ l, p.2.tag ≠ tag) (hfree : Store.get n l = none) (hn : n < Config.slots)
    (h : RequestTableSound l) : RequestTableSound (occupy n tag r l) := by
  obtain ⟨hcanonical, hslots, htags, hnodup, hrange⟩ := h
  have hperm : (Machine.occupy n tag r l).Perm ((n, ⟨tag, r, l.length + 1, .queued, none, none⟩) :: l) :=
    Store.perm_put hfree _
  refine ⟨Store.canonical_put hcanonical, fun p hp => ?_, ?_, ?_, fun p hp => ?_⟩
  · rcases List.mem_cons.mp (hperm.mem_iff.mp hp) with rfl | hp
    exacts [⟨hn, htag⟩, hslots p hp]
  · rw [(hperm.map _).nodup_iff, List.map_cons, List.nodup_cons]
    refine ⟨fun hmem => ?_, htags⟩
    obtain ⟨p, hp, e⟩ := List.mem_map.mp hmem
    exact hunused p hp e
  · rw [(hperm.map _).nodup_iff, List.map_cons, List.nodup_cons]
    refine ⟨fun hmem => ?_, hnodup⟩
    obtain ⟨p, hp, e⟩ := List.mem_map.mp hmem
    have hle := (hrange p hp).2
    simp only at e
    omega
  · rw [hperm.length_eq, List.length_cons]
    rcases List.mem_cons.mp (hperm.mem_iff.mp hp) with rfl | hp
    · exact ⟨Nat.le_add_left _ _, Nat.le_refl _⟩
    · have hle := hrange p hp
      omega

/-! ## A slot is freed -/

theorem Store.perm_del {α : Type} {k : Nat} {v : α} {l : List (Nat × α)} (h : Store.get k l = some v) :
    l.Perm ((k, v) :: Store.del k l) := by
  induction l with
  | nil => cases h
  | cons p l ih =>
    obtain ⟨j, w⟩ := p
    by_cases hj : j = k
    · subst hj
      rw [Store.get, if_pos rfl] at h
      cases h
      rw [Store.del, if_pos rfl]
    · rw [Store.get, if_neg hj] at h
      rw [Store.del, if_neg hj]
      exact ((ih h).cons _).trans (.swap _ _ _)

/-- A slot after the one with arrival number `gone` is freed: a younger one moves up by one (R178). -/
def Slot.movedUp (gone : Nat) (sl : Slot) : Slot :=
  if gone < sl.arrival then { sl with arrival := sl.arrival - 1 } else sl

theorem Slot.tag_movedUp (gone : Nat) (sl : Slot) : (sl.movedUp gone).tag = sl.tag := by
  unfold Slot.movedUp; split <;> rfl

theorem Slot.arrival_movedUp (gone : Nat) (sl : Slot) :
    (sl.movedUp gone).arrival = if gone < sl.arrival then sl.arrival - 1 else sl.arrival := by
  unfold Slot.movedUp; split <;> rfl

theorem freeSlot_of_some {n : Nat} {gone : Slot} {l : List (Nat × Slot)} (h : Store.get n l = some gone) :
    freeSlot n l = Store.mapVals (fun _ => Slot.movedUp gone.arrival) (Store.del n l) := by
  rw [freeSlot, h]; rfl

theorem freeSlot_of_none {n : Nat} {l : List (Nat × Slot)} (h : Store.get n l = none) : freeSlot n l = l := by
  rw [freeSlot, h]

/-- A slot leaves, and the arrival numbers close up (R178). -/
theorem RequestTableSound.freeSlot (n : Nat) {l : List (Nat × Slot)} (h : RequestTableSound l) :
    RequestTableSound (freeSlot n l) := by
  cases hn : Store.get n l with
  | none => rw [freeSlot_of_none hn]; exact h
  | some gone =>
    obtain ⟨hcanonical, hslots, htags, hnodup, hrange⟩ := h
    have hperm := Store.perm_del hn
    have hmem {p : Nat × Slot} (hp : p ∈ Store.del n l) : p ∈ l := (Store.del_sublist n l).subset hp
    have hlength : l.length = (Store.del n l).length + 1 := hperm.length_eq
    rw [(hperm.map _).nodup_iff, List.map_cons, List.nodup_cons] at htags hnodup
    obtain ⟨hgone, hrest⟩ := hnodup
    have hother {p : Nat × Slot} (hp : p ∈ Store.del n l) : p.2.arrival ≠ gone.arrival := fun e =>
      hgone (e ▸ List.mem_map_of_mem (f := fun p : Nat × Slot => p.2.arrival) hp)
    have hgonerange := hrange (n, gone) (Store.mem_of_get hn)
    rw [freeSlot_of_some hn]
    refine ⟨Store.canonical_mapVals (Store.canonical_del hcanonical), fun p hp => ?_, ?_, ?_, fun p hp => ?_⟩
    · obtain ⟨q, hq, rfl⟩ := List.mem_map.mp hp
      rw [Slot.tag_movedUp]
      exact hslots q (hmem hq)
    · simpa [Store.mapVals, Function.comp_def, Slot.tag_movedUp] using htags.2
    · rw [Store.mapVals, List.map_map]
      refine List.Nodup.of_map (fun a => if gone.arrival ≤ a then a + 1 else a) ?_
      rw [List.map_map]
      convert hrest using 1
      refine List.map_congr_left fun p hp => ?_
      have hne := hother hp
      simp only [Function.comp_apply, Slot.arrival_movedUp]
      split <;> split <;> omega
    · obtain ⟨q, hq, rfl⟩ := List.mem_map.mp hp
      have hqrange := hrange q (hmem hq)
      have hne := hother hq
      rw [Store.mapVals, List.length_map, Slot.arrival_movedUp]
      simp only at hgonerange
      split <;> omega

/-! ## A soft reset -/

theorem RequestTableSound.nil : RequestTableSound [] := by simp [RequestTableSound, Store.Canonical]

/-- Numbers that rise strictly hold `n` at most once. -/
theorem Store.length_filter_number {α : Type} (n : Nat) {l : List (Nat × α)} (h : Store.Canonical l) :
    (l.filter (fun p => p.1 == n)).length ≤ 1 := by
  have hnodup : (l.map Prod.fst).Nodup := h.imp Nat.ne_of_lt
  have hcount := List.nodup_iff_count_le_one.mp hnodup n
  rwa [List.count, List.countP_map, List.countP_eq_length_filter] at hcount

/-- The slot whose reply is being sent stays, alone (R184(1), assumption 30). -/
theorem RequestTableSound.kept (n : Nat) {l : List (Nat × Slot)} (h : RequestTableSound l) :
    RequestTableSound ((l.filter (fun p => p.1 == n)).map (fun p => (p.1, { p.2 with arrival := 1 }))) := by
  obtain ⟨hcanonical, hslots, -, -, -⟩ := h
  have hlength := Store.length_filter_number n hcanonical
  have hmem {p : Nat × Slot} (hp : p ∈ l.filter (fun p => p.1 == n)) : p ∈ l := List.mem_of_mem_filter hp
  generalize l.filter (fun p => p.1 == n) = kept at hlength hmem
  cases kept with
  | nil => exact .nil
  | cons p rest =>
    obtain rfl : rest = [] := List.eq_nil_of_length_eq_zero (by rw [List.length_cons] at hlength; omega)
    obtain ⟨hnumber, htag⟩ := hslots p (hmem (List.mem_singleton_self p))
    simp [RequestTableSound, Store.Canonical, hnumber, htag]

theorem RequestTableSound.linkStep {l m : Link} (h : LinkStep l m) (hl : RequestTableSound l.slots) :
    RequestTableSound m.slots := by
  cases h with
  | freed n => exact hl.freeSlot n
  | occupied n tag r htag hunused hfree hn => exact hl.occupy r htag hunused hfree hn
  | kept n => exact hl.kept n
  | noneKept => exact .nil
  | _ => exact hl

theorem RequestTableSound.linkProp : LinkProp (fun s => RequestTableSound s.link.slots) where
  reads _ _ hlink _ h := hlink ▸ h
  slots _ _ hids h := h.of_ids hids
  notice _ _ h := h

/-- Settles O52, by the basic changes of the Host Link: a slot is taken as the newest, or leaves and the younger ones
move up. -/
theorem everyStepKeepsRequestTableSound : Obligations.EveryStepKeepsRequestTableSound := fun _ _ h e =>
  RequestTableSound.linkProp.keeps_step (fun _ _ => RequestTableSound.linkStep)
    (fun _ hempty _ => by rw [hempty]; exact .nil) h e

end Sys2Proof.Machine


/-! # The receiver and the link counters (R174, R175) -/

namespace Sys2Proof.Machine

/-! ## The end of a frame -/

/-- A change of a running part that is inside a frame. -/
theorem whileRunning_insideFrame {s : State} (hheld : isHeld s = false) (hinside : s.link.inside = true)
    (f : State → State) : whileRunning (insideFrame f) s = f s := by
  simp [whileRunning, insideFrame, hheld, hinside]

theorem receive_inside {s : State} (hheld : isHeld s = false) (hinside : s.link.inside = true) (f : RxFrame) :
    receive f s = frameEnds f s := whileRunning_insideFrame hheld hinside _

theorem frameEnds_tooLong {f : RxFrame} (h : Config.maxBody < f.length.toNat) (s : State) :
    frameEnds f s = discardLength s := if_pos h

/-- A frame of the stated length ends: its check decides whether it is disposed of or discarded (R174(3)). -/
theorem frameEnds_ofLength {f : RxFrame} (hlength : f.length.toNat ≤ Config.maxBody)
    (hbody : f.body.length = f.length.toNat) (s : State) :
    frameEnds f s = if RxFrame.checkPasses f then dispose f (hunt s) else discardCheck s := by
  rw [frameEnds, if_neg (Nat.not_lt.mpr hlength), if_neg (not_not_intro hbody)]

theorem EndsWhole.exec_frameReceived {f : RxFrame} {s : State} (h : EndsWhole f s) :
    exec (.frameReceived f) s = .next (dispose f (hunt s)) := by
  obtain ⟨hheld, hinside, hlength, hbody, hcheck⟩ := h
  rw [exec, execFrameReceived, receive_inside hheld hinside, frameEnds_ofLength hlength hbody, if_pos hcheck]

/-- Settles O7, by the part that is running and inside a frame. -/
theorem receiverTakesAndDiscardsFrames : Obligations.ReceiverTakesAndDiscardsFrames := by
  refine ⟨fun s hheld => ?_, fun s hheld hinside => ⟨?_, ?_, ?_, fun f hlong => ?_, fun f hlength hbody hcheck => ?_⟩⟩
  · rw [exec, execFrameStartMarker, whileRunning, hheld]; rfl
  · rw [exec, execLengthError, whileRunning_insideFrame hheld hinside]; rfl
  · rw [exec, execFrameCheckFailed, whileRunning_insideFrame hheld hinside]; rfl
  · rw [exec, execReceiverTimeout, whileRunning_insideFrame hheld hinside]; rfl
  · rw [exec, execFrameReceived, receive_inside hheld hinside, frameEnds_tooLong hlong]; rfl
  · have hfails : RxFrame.checkPasses f = false := beq_eq_false_iff_ne.mpr hcheck
    rw [exec, execFrameReceived, receive_inside hheld hinside, frameEnds_ofLength hlength hbody, hfails]; rfl

/-! ## The link counters over a command (R175) -/

/-- Each link counter stays, or rises by one up to 65,535. -/
def Counters.Rise (c d : Counters) : Prop :=
  (d.checkErrors = c.checkErrors ∨ d.checkErrors = countUp c.checkErrors) ∧
    (d.lengthErrors = c.lengthErrors ∨ d.lengthErrors = countUp c.lengthErrors) ∧
    (d.timeouts = c.timeouts ∨ d.timeouts = countUp c.timeouts) ∧
    (d.refusalsDropped = c.refusalsDropped ∨ d.refusalsDropped = countUp c.refusalsDropped)

theorem Counters.Rise.refl (c : Counters) : c.Rise c := ⟨.inl rfl, .inl rfl, .inl rfl, .inl rfl⟩

theorem SettleKeeps.counters {s t : State} (h : SettleKeeps s t) : t.link.counters = s.link.counters := by rw [h.frame]

theorem SendsOnly.counters {s t : State} (h : SendsOnly s t) : t.link.counters = s.link.counters := by
  unfold SendsOnly at h; rw [h]

@[simp] theorem counters_settle (s : State) : (settle s).link.counters = s.link.counters :=
  (SettleKeeps.settleWith false s).counters

@[simp] theorem counters_calm (s : State) : (calm s).link.counters = s.link.counters := (SettleKeeps.calm s).counters

/-- What the part does beside the Host Link leaves the link counters alone. -/
theorem counters_sendingProp (c : Counters) : SendingProp (fun s => s.link.counters = c) where
  reads _ _ hlink _ h := hlink ▸ h
  slots _ _ _ h := h
  notice _ _ h := h
  finish s h := (finish_sendsOnly s).counters.trans h

theorem counters_cancelEffect (target : Byte) (s : State) :
    (cancelEffect target s).2.link.counters = s.link.counters := by
  unfold cancelEffect
  split
  · rfl
  · split
    case h_3 => split <;> rfl
    all_goals rfl

theorem counters_resetBegins (tag : Byte) (s : State) : (resetBegins tag s).link.counters = s.link.counters :=
  (counters_sendingProp s.link.counters).building.keeps_commitCause .host rfl

namespace Counters.Rise

/-- An answer that finds no room is counted as dropped (R177). -/
theorem dropAnswer (s : State) : s.link.counters.Rise (dropAnswer s).link.counters :=
  ⟨.inl rfl, .inl rfl, .inl rfl, .inr rfl⟩

theorem refuseFrame (f : RxFrame) (st : Status) (s : State) :
    s.link.counters.Rise (refuseFrame f st s).link.counters := by
  unfold Machine.refuseFrame
  split
  · exact refl _
  · exact dropAnswer s

theorem queueFrame (f : RxFrame) (r : Request) (s : State) :
    s.link.counters.Rise (queueFrame f r s).link.counters := by
  unfold Machine.queueFrame takeSlot
  split
  · exact refuseFrame ..
  · split
    · exact refuseFrame ..
    · split
      · exact refuseFrame ..
      · exact refl _

theorem doImmediate (f : RxFrame) (i : Immediate) (s : State) :
    s.link.counters.Rise (doImmediate f i s).link.counters := by
  cases i with
  | reset => rw [Machine.doImmediate, counters_settle, counters_resetBegins]; exact refl _
  | identify =>
    rw [Machine.doImmediate, counters_calm]
    split
    exacts [refl _, dropAnswer s]
  | status =>
    rw [Machine.doImmediate, counters_calm]
    split
    exacts [refl _, dropAnswer s]
  | cancel target =>
    rw [Machine.doImmediate, counters_calm]
    split
    · rw [pushAnswer, modLink_link, counters_cancelEffect]; exact refl _
    · exact dropAnswer s

theorem dispose (f : RxFrame) (s : State) : s.link.counters.Rise (dispose f s).link.counters := by
  unfold Machine.dispose
  split
  · exact refl _
  · split
    · rw [counters_calm]; exact refuseFrame ..
    · split
      · exact doImmediate ..
      · rw [counters_calm]; exact queueFrame ..
      · rw [counters_calm]; exact refuseFrame ..

theorem frameEnds (f : RxFrame) (s : State) : s.link.counters.Rise (frameEnds f s).link.counters := by
  unfold Machine.frameEnds
  split
  · exact ⟨.inl rfl, .inr rfl, .inl rfl, .inl rfl⟩
  · split
    · exact refl _
    · split
      · exact dispose f (hunt s)
      · exact ⟨.inr rfl, .inl rfl, .inl rfl, .inl rfl⟩

/-- A command of the Host Link but RESET_REPLY_BUILT counts at most one event. -/
theorem linkCommand {c : Instr} {s t : State} (hc : isLinkCommand c = true) (hbuilt : c ≠ .resetReplyBuilt)
    (e : exec c s = .next t) : s.link.counters.Rise t.link.counters := by
  have running {f : State → State} (hf : s.link.counters.Rise (f s).link.counters) :
      s.link.counters.Rise (whileRunning f s).link.counters :=
    Whole.keeps_whileRunning (P := fun u => s.link.counters.Rise u.link.counters) (fun _ => hf) (refl _)
  have received {f : State → State} (hf : s.link.counters.Rise (f s).link.counters) :
      s.link.counters.Rise (whileRunning (insideFrame f) s).link.counters :=
    running (Whole.keeps_insideFrame (P := fun u => s.link.counters.Rise u.link.counters) (fun _ => hf) (refl _))
  have after {u : State} (hu : s.link.counters.Rise u.link.counters) (e : (Host.Outcome.next u : Result) = .next t) :
      s.link.counters.Rise t.link.counters := next_of (P := fun v => s.link.counters.Rise v.link.counters) hu e
  cases c <;> cases hc
  case frameStartMarker => exact after (running (refl _)) e
  case lengthError => exact after (received ⟨.inl rfl, .inr rfl, .inl rfl, .inl rfl⟩) e
  case frameCheckFailed => exact after (received ⟨.inr rfl, .inl rfl, .inl rfl, .inl rfl⟩) e
  case receiverTimeout => exact after (received ⟨.inl rfl, .inl rfl, .inr rfl, .inl rfl⟩) e
  case frameReceived | identify | status | cancel | reset => exact after (received (frameEnds _ s)) e
  case resetReplyBuilt => exact absurd rfl hbuilt
  case frameSent =>
    refine after (running ?_) e
    unfold frameSentStep
    split
    · exact refl _
    · rw [counters_calm]; exact refl _

end Counters.Rise

/-- The link counters stay, or all four become 0. -/
def Counters.KeptOrZero (c d : Counters) : Prop := d = c ∨ d = ⟨0, 0, 0, 0⟩

theorem Counters.KeptOrZero.rise_or {c d : Counters} (h : c.KeptOrZero d) : c.Rise d ∨ d = ⟨0, 0, 0, 0⟩ :=
  h.imp_left fun e => by rw [e]; exact .refl c

/-- The building of the RESET reply zeroes the counters, when it is due (R184(4)). -/
theorem counters_resetReplyStep (s : State) : s.link.counters.KeptOrZero (resetReplyStep s).link.counters := by
  unfold resetReplyStep
  split
  · exact .inl rfl
  · split
    · exact .inr (finish_sendsOnly _).counters
    · exact .inl rfl

theorem counters_resetReplyBuilt {s t : State} (e : exec .resetReplyBuilt s = .next t) :
    s.link.counters.KeptOrZero t.link.counters := by
  have hrun : s.link.counters.KeptOrZero (whileRunning resetReplyStep s).link.counters :=
    Whole.keeps_whileRunning (P := fun u => s.link.counters.KeptOrZero u.link.counters)
      (fun _ => counters_resetReplyStep s) (.inl rfl)
  exact next_of (P := fun u => s.link.counters.KeptOrZero u.link.counters) hrun e

theorem counters_boot (s : State) : (boot s).link.counters = s.link.counters := counters_settle _

/-- Power-on and RST zero the counters or leave them as they are (R158). -/
theorem counters_resetCommand {c : Instr} {s t : State} (hc : isResetCommand c = true) (e : exec c s = .next t) :
    s.link.counters.KeptOrZero t.link.counters := by
  have after {u : State} (hu : s.link.counters.KeptOrZero u.link.counters)
      (e : (Host.Outcome.next u : Result) = .next t) : s.link.counters.KeptOrZero t.link.counters :=
    next_of (P := fun v => s.link.counters.KeptOrZero v.link.counters) hu e
  cases c <;> cases hc
  case powerOn =>
    refine after (.inr ?_) e
    unfold powerOnStep
    dsimp only
    split
    · rfl
    · exact counters_boot _
  case powerLoss => exact after (u := { discardAll s with powered := false }) (.inr rfl) e
  case rstAsserted => exact after (u := { discardAll s with rst := true }) (.inr rfl) e
  case rstDeasserted =>
    refine after (.inl ?_) e
    unfold rstDeassertedStep
    split
    · split
      · exact counters_boot _
      · rfl
    · rfl

/-- Settles O8, by the command: of the Host Link, of the supply, or neither. -/
theorem linkCountersRule : Obligations.LinkCountersRule := by
  intro c s t e
  show s.link.counters.Rise t.link.counters ∨ _
  by_cases hbuilt : c = .resetReplyBuilt
  · subst hbuilt
    exact (counters_resetReplyBuilt e).rise_or.imp_right fun h => ⟨h, .inr rfl⟩
  · by_cases hlink : isLinkCommand c = true
    · exact .inl (.linkCommand hlink hbuilt e)
    · by_cases hreset : isResetCommand c = true
      · exact (counters_resetCommand hreset e).rise_or.imp_right fun h => ⟨h, .inl hreset⟩
      · have hkept := (counters_sendingProp s.link.counters).keeps_exec (Bool.eq_false_of_not_eq_true hreset)
          (Bool.eq_false_of_not_eq_true hlink) rfl e
        rw [hkept]
        exact .inl (.refl _)

end Sys2Proof.Machine


/-! # Received frames are disposed of (Table 10-1, R176, R177) -/

namespace Sys2Proof.Machine

/-! ## The immediate reply list (R177) -/

theorem immediateRoom_of_hasRoom {s : State} (h : HasRoom s) : immediateRoom s = true := decide_eq_true h

theorem immediateRoom_of_not_hasRoom {s : State} (h : ¬ HasRoom s) : immediateRoom s = false := decide_eq_false h

theorem refuseFrame_of_hasRoom {s : State} (h : HasRoom s) (f : RxFrame) (st : Status) :
    refuseFrame f st s = pushAnswer ⟨replyType f.type, f.tag, st, .none, false⟩ s :=
  if_pos (immediateRoom_of_hasRoom h)

theorem refuseFrame_of_not_hasRoom {s : State} (h : ¬ HasRoom s) (f : RxFrame) (st : Status) :
    refuseFrame f st s = dropAnswer s := by
  rw [refuseFrame, immediateRoom_of_not_hasRoom h, if_neg Bool.false_ne_true]

/-! ## The tests that ask for a slot (R176 tests 4, 5 and 8) -/

theorem isSome_slotOfTag (tag : Byte) (s : State) :
    (slotOfTag tag s).isSome = s.link.slots.any (fun p => p.2.tag == tag) := by
  rw [Bool.eq_iff_iff, slotOfTag, List.find?_isSome, List.any_eq_true]

theorem lowestFree_eq_some {n : Nat} {s : State} (hn : n < Config.slots) (hfree : slotAt n s = none)
    (hlower : ∀ m, m < n → (slotAt m s).isSome) : lowestFree s = some n := by
  refine Store.firstFrom_eq_some ?_ (Nat.zero_le n) (by omega) fun m _ hm => ?_
  · exact Option.isNone_iff_eq_none.mpr hfree
  · exact Option.isNone_eq_false_iff.mpr (hlower m hm)

/-- No slot is free exactly when each of the eight is occupied. -/
theorem lowestFree_eq_none {s : State} :
    lowestFree s = none ↔ (List.range Config.slots).all (fun n => (slotAt n s).isSome) = true := by
  rw [List.all_eq_true]
  constructor
  · intro h n hn
    have hoccupied := Store.firstFrom_none h n (Nat.zero_le n) (by rw [List.mem_range] at hn; omega)
    exact Option.isNone_eq_false_iff.mp hoccupied
  · intro h
    refine Store.firstFrom_eq_none fun n _ hn => ?_
    exact Option.isNone_eq_false_iff.mpr (h n (List.mem_range.mpr (by omega)))

/-! ## The tests of a frame outside a soft reset -/

theorem type_of_immediate {type : Byte} {body : List Byte} {i : Immediate} (h : parseImmediate type body = some i) :
    type = 1#8 ∨ type = 2#8 ∨ type = 3#8 ∨ type = 4#8 := by
  unfold parseImmediate at h
  split at h
  case h_5 => cases h
  all_goals bv_omega

/-- No type is both an immediate request and a request that takes a slot (Table 11-6). -/
theorem parseQueued_of_immediate {type : Byte} {body : List Byte} {i : Immediate}
    (h : parseImmediate type body = some i) : parseQueued type body = none := by
  rcases type_of_immediate h with rfl | rfl | rfl | rfl <;> rfl

section
variable {f : RxFrame} {s : State} (hsoft : s.link.softReset = none)
include hsoft

theorem dispose_badTag (htag : f.tag = 0#8) : dispose f s = calm (refuseFrame f .badTag s) := by
  simp [dispose, hsoft, htag]

theorem dispose_immediate (htag : f.tag ≠ 0#8) {i : Immediate} (h : parseImmediate f.type f.body = some i) :
    dispose f s = doImmediate f i s := by
  simp [dispose, hsoft, htag, h]

theorem dispose_queued (htag : f.tag ≠ 0#8) {r : Request} (h : parseQueued f.type f.body = some r) :
    dispose f s = calm (queueFrame f r s) := by
  have hnot : parseImmediate f.type f.body = none := by
    refine Option.eq_none_iff_forall_ne_some.mpr fun i hi => ?_
    rw [parseQueued_of_immediate hi] at h
    cases h
  simp [dispose, hsoft, htag, hnot, h]

theorem dispose_badRequest (htag : f.tag ≠ 0#8) (himmediate : parseImmediate f.type f.body = none)
    (hqueued : parseQueued f.type f.body = none) : dispose f s = calm (refuseFrame f .badRequest s) := by
  simp [dispose, hsoft, htag, himmediate, hqueued]

/-- The first test of Table 10-1 that applies answers the frame at once (R176). -/
theorem dispose_refused {st : Status} (h : arrivalRefusal f s = some st) : dispose f s = calm (refuseFrame f st s) := by
  unfold arrivalRefusal at h
  split at h
  case isTrue htag => cases h; exact dispose_badTag hsoft htag
  case isFalse htag =>
    split at h
    case isTrue hnone =>
      cases h
      exact dispose_badRequest hsoft htag (Option.isNone_iff_eq_none.mp hnone.1) (Option.isNone_iff_eq_none.mp hnone.2)
    case isFalse hnone =>
      split at h
      case isTrue => cases h
      case isFalse himmediate =>
        obtain ⟨r, hr⟩ : ∃ r, parseQueued f.type f.body = some r := by
          refine Option.ne_none_iff_exists'.mp fun hqueued => hnone ⟨?_, by rw [hqueued]; rfl⟩
          exact Option.not_isSome_iff_eq_none.mp himmediate ▸ rfl
        rw [dispose_queued hsoft htag hr]
        refine congrArg calm ?_
        rw [queueFrame, isSome_slotOfTag]
        split at h
        case isTrue hmounting => cases h; rw [if_pos hmounting]
        case isFalse hmounting =>
          rw [if_neg hmounting]
          split at h
          case isTrue hused => cases h; rw [if_pos hused]
          case isFalse hused =>
            rw [if_neg hused]
            split at h
            case isTrue hfull => cases h; rw [takeSlot, lowestFree_eq_none.mpr hfull]
            case isFalse => cases h

/-- A frame that no test of Table 10-1 refuses takes the lowest free slot (R176, R178). -/
theorem dispose_takesSlot {r : Request} {n : Nat} (hr : parseQueued f.type f.body = some r)
    (h : arrivalRefusal f s = none) (hn : lowestFree s = some n) :
    dispose f s = calm (modLink (fun l => { l with slots := occupy n f.tag r l.slots }) s) := by
  have hnot : ¬ (parseImmediate f.type f.body).isSome = true := fun himmediate => by
    obtain ⟨i, hi⟩ := Option.isSome_iff_exists.mp himmediate
    rw [parseQueued_of_immediate hi] at hr
    cases hr
  unfold arrivalRefusal at h
  split at h
  case isTrue => cases h
  case isFalse htag =>
    rw [if_neg (fun hnone => by rw [hr] at hnone; cases hnone.2)] at h
    rw [dispose_queued hsoft htag hr, queueFrame, isSome_slotOfTag]
    split at h
    case isTrue => cases h
    case isFalse hmounting =>
      split at h
      case isTrue => cases h
      case isFalse hused => rw [if_neg hmounting, if_neg hused, takeSlot, hn]

end

theorem dispose_softReset {f : RxFrame} {s : State} (h : s.link.softReset.isSome) : dispose f s = s := if_pos h

/-- Settles O10, by the tests of Table 10-1 on the part whose receiver hunts again. -/
theorem framesAreDisposedByTheTable : Obligations.FramesAreDisposedByTheTable := by
  refine ⟨fun f s st hends hsoft href => ?_, fun f r s n hends hsoft hr href hn hfree hlower => ?_,
    fun f s hends hsoft => ?_⟩
  · have hrefused : dispose f (hunt s) = calm (refuseFrame f st (hunt s)) := dispose_refused (s := hunt s) hsoft href
    rw [hends.exec_frameReceived, hrefused]
    refine ⟨fun hroom => ?_, fun hfull => ?_⟩
    · rw [refuseFrame_of_hasRoom (s := hunt s) hroom]; rfl
    · rw [refuseFrame_of_not_hasRoom (s := hunt s) hfull]; rfl
  · have htaken := dispose_takesSlot (s := hunt s) hsoft hr href (lowestFree_eq_some hn hfree hlower)
    rw [hends.exec_frameReceived, htaken]
    rfl
  · rw [hends.exec_frameReceived, dispose_softReset (s := hunt s) hsoft]
    rfl

end Sys2Proof.Machine


/-! # IDENTIFY, STATUS and CANCEL (R177, R182, R183, R195, R196) -/

namespace Sys2Proof.Machine

/-! ## A short frame arrives -/

theorem Arrives.endsWhole {tag : Byte} {s : State} (h : Arrives tag s) (type : Byte) {body : List Byte}
    (hbody : body.length ≤ Config.maxBody) : EndsWhole (RxFrame.make type tag body) s := by
  obtain ⟨hheld, hinside, -, -⟩ := h
  have hlength : (RxFrame.make type tag body).length.toNat = body.length :=
    Nat.mod_eq_of_lt (hbody.trans_lt (by decide))
  exact ⟨hheld, hinside, hlength ▸ hbody, hlength.symm, RxFrame.checkPasses_make type tag body⟩

/-- An immediate request that arrives is carried out (R176 test 3). -/
theorem Arrives.exec_immediate {tag : Byte} {s : State} (h : Arrives tag s) (type : Byte) {body : List Byte}
    {i : Immediate} (hbody : body.length ≤ Config.maxBody) (hi : parseImmediate type body = some i) :
    exec (.frameReceived (RxFrame.make type tag body)) s =
      .next (doImmediate (RxFrame.make type tag body) i (hunt s)) := by
  obtain ⟨-, -, hsoft, htag⟩ := id h
  rw [(h.endsWhole type hbody).exec_frameReceived, dispose_immediate (s := hunt s) hsoft htag hi]

theorem Arrives.exec_identify {tag : Byte} {s : State} (h : Arrives tag s) :
    exec (.identify tag) s = .next (doImmediate (RxFrame.make 0x01#8 tag []) .identify (hunt s)) :=
  h.exec_immediate 0x01#8 (body := []) (Nat.zero_le _) rfl

theorem Arrives.exec_status {tag : Byte} {s : State} (h : Arrives tag s) :
    exec (.status tag) s = .next (doImmediate (RxFrame.make 0x02#8 tag []) .status (hunt s)) :=
  h.exec_immediate 0x02#8 (body := []) (Nat.zero_le _) rfl

theorem Arrives.exec_cancel {tag target : Byte} {s : State} (h : Arrives tag s) (htarget : target ≠ 0#8) :
    exec (.cancel tag target) s = .next (doImmediate (RxFrame.make 0x03#8 tag [target]) (.cancel target) (hunt s)) :=
  h.exec_immediate 0x03#8 (body := [target]) (Nat.le_of_ble_eq_true rfl) (if_neg htarget)

theorem Arrives.exec_reset {tag : Byte} {s : State} (h : Arrives tag s) :
    exec (.reset tag) s = .next (settle (resetBegins tag (hunt s))) :=
  h.exec_immediate 0x04#8 (body := []) (i := .reset) (Nat.zero_le _) rfl

/-! ## IDENTIFY and STATUS -/

theorem bytes_identity : ReplyData.bytes .identity =
    [0x4F#8, 0x16#8, 0x2C#8, 0x01#8, 0x00#8, 0x04#8, 0x30#8, 0x00#8, 0x40#8, 0x10#8, 0x08#8, 0x10#8, 0x04#8, 0xF0#8,
      0x03#8, 0x60#8] := by decide

/-- Settles O11, by the room in the immediate reply list. -/
theorem identifyAndStatusAreAnswered : Obligations.IdentifyAndStatusAreAnswered := by
  refine ⟨fun tag s h => ?_, bytes_identity, fun tag s => ?_⟩
  · rw [h.exec_identify, h.exec_status]
    refine ⟨fun hroom => ?_, fun hfull => ?_⟩
    · have hanswer : immediateRoom (hunt s) = true := immediateRoom_of_hasRoom (s := hunt s) hroom
      simp only [doImmediate, hanswer, if_true]
      exact ⟨rfl, rfl⟩
    · have hanswer : immediateRoom (hunt s) = false := immediateRoom_of_not_hasRoom (s := hunt s) hfull
      simp only [doImmediate, hanswer, Bool.false_eq_true, if_false]
      exact ⟨rfl, rfl⟩
  · refine ⟨statusData s, rfl, rfl, rfl, rfl, rfl, rfl, rfl, rfl, List.any_eq_true, fun hmounted => ⟨?_, ?_⟩⟩
    · rw [statusData, if_neg hmounted]
    · simp only [statusData, segCount, if_neg hmounted]

/-! ## CANCEL (Table 10-3) -/

theorem doImmediate_cancel_of_hasRoom {s : State} (h : HasRoom s) (f : RxFrame) (target : Byte) :
    doImmediate f (.cancel target) s = calm (pushAnswer
      ⟨replyType f.type, f.tag, (cancelEffect target s).1, .none, false⟩ (cancelEffect target s).2) := by
  rw [doImmediate, immediateRoom_of_hasRoom h, if_pos rfl]

theorem doImmediate_cancel_of_not_hasRoom {s : State} (h : ¬ HasRoom s) (f : RxFrame) (target : Byte) :
    doImmediate f (.cancel target) s = calm (dropAnswer s) := by
  rw [doImmediate, immediateRoom_of_not_hasRoom h, if_neg Bool.false_ne_true]

section
variable {target : Byte} {s : State} {n : Nat} {sl : Slot} (hslot : slotOfTag target s = some (n, sl))
include hslot

theorem cancelEffect_of_queued_or_held (h : sl.state = .queued ∨ sl.state = .held) :
    cancelEffect target s = (.ok, answer n .cancelled .none s) := by
  rcases h with h | h <;> simp [cancelEffect, hslot, h]

theorem cancelEffect_of_active_get (h : sl.state = .active) {k : Key} (hk : sl.request = .get k) :
    cancelEffect target s = (.ok, cancelGet n s) := by
  simp [cancelEffect, hslot, h, hk, Request.isGet]

theorem cancelEffect_of_active (h : sl.state = .active) (hnot : ∀ k, sl.request ≠ .get k) :
    cancelEffect target s = (.tooLate, s) := by
  have hget : Request.isGet sl.request = false := by
    unfold Request.isGet
    split
    · next k hk => exact absurd hk (hnot k)
    · rfl
  simp [cancelEffect, hslot, h, hget]

theorem cancelEffect_of_awaitingCompaction (h : sl.state = .awaitingCompaction) :
    cancelEffect target s = (.ok, cancelCompact n s) := by
  simp [cancelEffect, hslot, h]

theorem cancelEffect_of_awaitingPage (h : sl.state = .awaitingCommit ∨ sl.state = .awaitingCatalogue) :
    cancelEffect target s = (.tooLate, s) := by
  rcases h with h | h <;> simp [cancelEffect, hslot, h]

theorem cancelEffect_of_replyReady (h : sl.state = .replyReady) : cancelEffect target s = (.unknownTag, s) := by
  simp [cancelEffect, hslot, h]

end

theorem cancelEffect_of_noSlot {target : Byte} {s : State} (h : slotOfTag target s = none) :
    cancelEffect target s = (.unknownTag, s) := by
  rw [cancelEffect, h]

/-- Settles O12, by the state of the target's slot. -/
theorem cancelFollowsTable103 : Obligations.CancelFollowsTable103 := by
  intro tag target s h htarget
  have hexec := h.exec_cancel htarget
  refine ⟨fun hfull => ?_, fun hroom hnone => ?_, fun hroom n sl hslot => ?_⟩
  · rw [hexec, doImmediate_cancel_of_not_hasRoom (s := hunt s) hfull]; rfl
  · rw [hexec, doImmediate_cancel_of_hasRoom (s := hunt s) hroom, cancelEffect_of_noSlot (s := hunt s) hnone]; rfl
  · have hslot' : slotOfTag target (hunt s) = some (n, sl) := hslot
    rw [hexec, doImmediate_cancel_of_hasRoom (s := hunt s) hroom]
    refine ⟨fun hstate => ?_, fun hstate k hk => ?_, fun hstate hnot => ?_, fun hstate => ?_, fun hstate => ?_,
      fun hstate => ?_⟩
    · rw [cancelEffect_of_queued_or_held hslot' hstate]; rfl
    · rw [cancelEffect_of_active_get hslot' hstate hk]; rfl
    · rw [cancelEffect_of_active hslot' hstate hnot]; rfl
    · rw [cancelEffect_of_awaitingCompaction hslot' hstate]; rfl
    · rw [cancelEffect_of_awaitingPage hslot' hstate]; rfl
    · rw [cancelEffect_of_replyReady hslot' hstate]; rfl

end Sys2Proof.Machine


/-! # The soft reset (R67, R110, R154, R172, R184) -/

namespace Sys2Proof.Machine

/-! ## What a RESET frees and keeps (R184(1)) -/

/-- Only the slot whose reply is being sent stays (assumption 30). -/
theorem get_keptSlots (n : Nat) (s : State) : Store.get n (keptSlots s) = none ∨ sendingSlot s = some n := by
  unfold keptSlots
  split
  · exact .inl rfl
  · next m hm =>
    by_cases hn : n = m
    · exact .inr (hn ▸ hm)
    · refine .inl ((Store.get_mapVals n (fun _ (sl : Slot) => ({ sl with arrival := 1 } : Slot)) _).trans ?_)
      rw [Store.get_filter n (fun i => i == m), if_neg (by simpa using hn)]
      rfl

/-- A GET that awaits its read leaves the discard mark behind (R181). -/
theorem resetEngine_discards {n : Nat} {sl : Slot} {k : Key} {s : State} (hactive : s.engine.active = some n)
    (hslot : slotAt n s = some sl) (hget : sl.request = .get k) (hstate : sl.state = .active) :
    (resetEngine s).discard = true := by
  simp [resetEngine, hactive, hslot, hget, hstate, Request.isGet]

/-- Settles O13: the RESET that arrives empties the Host Link and leaves the commit cause to the HOST stream. -/
theorem resetBeginsSoftReset : Obligations.ResetBeginsSoftReset := by
  intro tag s h
  refine ⟨_, h.exec_reset, rfl, fun n => get_keptSlots n (hunt s), rfl, rfl, rfl, rfl, rfl,
    fun n sl k hactive hslot hget hstate => ?_, rfl, rfl, rfl, rfl, rfl, rfl, rfl, rfl, rfl, rfl, rfl, rfl, rfl, rfl⟩
  exact resetEngine_discards (s := hunt s) hactive hslot hget hstate

/-! ## The RESET reply (R184(3), (4)) -/

theorem hostDrained_iff (s : State) :
    hostDrained s = true ↔ s.host.stranded = true ∨ s.host.inFlight = none ∧ s.host.buffer = [] := by
  simp [hostDrained]

theorem snapshotEnded_iff (r : SoftReset) (s : State) :
    snapshotEnded r s = true ↔ r.snapshot = none ∨ s.cat.write.map (fun w => w.snap.gen) ≠ r.snapshot := by
  unfold snapshotEnded
  split
  · next hnone => simp [hnone]
  · next gen hgen => rw [hgen, bne_iff_ne]; simp

/-- Settles O14, by the two conditions of R184(3). -/
theorem resetReplyEmptiesTheLink : Obligations.ResetReplyEmptiesTheLink := by
  intro s r hheld hsoft
  have hexec : exec .resetReplyBuilt s =
      .next (if hostDrained s && snapshotEnded r s then buildResetReply r s else s) := by
    simp only [exec, execResetReplyBuilt, whileRunning, hheld, Bool.false_eq_true, if_false, resetReplyStep, hsoft]
  dsimp only
  rw [hexec, ← hostDrained_iff, ← snapshotEnded_iff, ← Bool.and_eq_true]
  exact ⟨fun hdue => by rw [if_pos hdue]; rfl, fun hnot => by rw [if_neg hnot]⟩

end Sys2Proof.Machine


/-! # The transmitter (R179, R180, R184, R185, R199) -/

namespace Sys2Proof.Machine

/-! ## A frame has been sent (R178, R179) -/

theorem get_freeSlot_same {n : Nat} {l : List (Nat × Slot)} (hl : Store.Canonical l) :
    Store.get n (freeSlot n l) = none := by
  cases h : Store.get n l with
  | none => rw [freeSlot_of_none h, h]
  | some gone => rw [freeSlot_of_some h, Store.get_mapVals, Store.get_del_same hl]; rfl

/-- Another slot moves up when it is younger (R178). -/
theorem get_freeSlot_other {n m : Nat} {gone : Slot} {l : List (Nat × Slot)} (h : Store.get n l = some gone)
    (hm : m ≠ n) : Store.get m (freeSlot n l) = (Store.get m l).map (Slot.movedUp gone.arrival) := by
  rw [freeSlot_of_some h, Store.get_mapVals, Store.get_del_other hm]

theorem exec_frameSent {s : State} (hheld : isHeld s = false) : exec .frameSent s = .next (frameSentStep s) := by
  rw [exec, execFrameSent, whileRunning, hheld, if_neg Bool.false_ne_true]

/-- The slots after a frame is sent: its own slot is freed, when it is the reply of one. -/
theorem slots_frameLeaves (f : TxFrame) (s : State) : (frameLeaves f s).link.slots =
    match TxFrame.slot? f with
    | some n => freeSlot n s.link.slots
    | none => s.link.slots := by
  unfold frameLeaves; cases TxFrame.slot? f <;> rfl

/-- Settles O15, by the slot whose reply was sent. -/
theorem frameSentFreesTheSlot : Obligations.FrameSentFreesTheSlot := by
  refine ⟨fun s hheld hidle => ?_, fun s f hheld hcanonical hsending => ?_⟩
  · rw [exec_frameSent hheld, frameSentStep, hidle]
  · refine ⟨frameLeaves f s, ?_, rfl, fun hnone => ?_, fun n gone hslot hgone => ?_⟩
    · rw [exec_frameSent hheld, frameSentStep, hsending]
    · rw [slots_frameLeaves, hnone]
    · have hfreed : (frameLeaves f s).link.slots = freeSlot n s.link.slots := by rw [slots_frameLeaves, hslot]
      rw [slotAt, hfreed]
      refine ⟨get_freeSlot_same hcanonical, fun m hm => ?_⟩
      rw [slotAt, hfreed]
      exact get_freeSlot_other hgone hm

/-! ## The choice of an idle transmitter (R184, R185) -/

section
variable {s : State} (hidle : s.link.sending = none) (hsoft : s.link.softReset = none)
include hidle hsoft

theorem transmit_resetReply {f : TxFrame} {rest : List TxFrame} (h : s.link.resetReplies = f :: rest) :
    transmit s = { s with link := { s.link with sending := some f, resetReplies := rest } } := by
  rw [transmit, hidle, hsoft, h]; rfl

theorem transmit_chooses (h : s.link.resetReplies = []) : transmit s = chooseFrame s := by
  rw [transmit, hidle, hsoft, h]

end

theorem transmit_busy {s : State} {f : TxFrame} (h : s.link.sending = some f) : transmit s = s := by
  rw [transmit, h]

theorem transmit_softReset {s : State} (hidle : s.link.sending = none) (h : s.link.softReset.isSome) :
    transmit s = s := by
  obtain ⟨r, hr⟩ := Option.isSome_iff_exists.mp h
  rw [transmit, hidle, hr]

theorem chooseFrame_answer {a : Answer} {rest : List Answer} {s : State} (h : s.link.immediate = a :: rest) :
    chooseFrame s = { s with link := { s.link with sending := some (answerFrame a s), immediate := rest } } := by
  rw [chooseFrame, h]; rfl

section
variable {s : State} (hanswers : s.link.immediate = [])
include hanswers

/-- A notice goes first when the guard count is 4, and when no slot's reply waits (R185(2), (4)). -/
theorem chooseFrame_notice {x : Notice} {rest : List Notice} (hnotices : s.link.notices = x :: rest)
    (hturn : s.link.noticeGuard = 4 ∨ s.link.replyOrder = []) :
    chooseFrame s =
      { s with link := { s.link with sending := some (.notice x), notices := rest, noticeGuard := 0 } } := by
  have hsend : sendNotice s =
      { s with link := { s.link with sending := some (.notice x), notices := rest, noticeGuard := 0 } } := by
    rw [sendNotice, hnotices]; rfl
  rw [chooseFrame, hanswers]
  dsimp only
  split
  · exact hsend
  · next hguard =>
    have horder : s.link.replyOrder = [] :=
      hturn.resolve_left fun hfour => hguard ⟨hfour, by rw [hnotices]; exact nofun⟩
    rw [if_neg (not_not_intro horder)]
    exact hsend

/-- The first slot of the reply order goes when no notice has its turn (R185(3)). -/
theorem chooseFrame_slot {n : Nat} {rest : List Nat} {sl : Slot} (hturn : s.link.noticeGuard ≠ 4 ∨ s.link.notices = [])
    (horder : s.link.replyOrder = n :: rest) (hslot : slotAt n s = some sl) :
    chooseFrame s = { s with link := { s.link with
      sending := some (slotFrame n sl s), replyOrder := rest
      noticeGuard := if s.link.notices = [] then s.link.noticeGuard else min (s.link.noticeGuard + 1) 4 } } := by
  have hguard : ¬ (s.link.noticeGuard = 4 ∧ s.link.notices ≠ []) := fun ⟨hfour, hwaits⟩ =>
    hturn.elim (fun h => h hfour) hwaits
  rw [chooseFrame, hanswers]
  dsimp only
  rw [if_neg hguard, if_pos (by rw [horder]; exact nofun), sendSlot, horder]
  dsimp only
  rw [hslot]
  rfl

theorem chooseFrame_nothing (hnotices : s.link.notices = []) (horder : s.link.replyOrder = []) : chooseFrame s = s := by
  simp [chooseFrame, hanswers, hnotices, horder, sendNotice]

end

/-! ## The frame of a reply (R180, R199) -/

theorem slotFrame_of_reply {sl : Slot} {st : Status} {data : ReplyData} (h : sl.reply = some (st, data)) (n : Nat)
    (s : State) : slotFrame n sl s =
      .reply (replyType (Request.type sl.request)) sl.tag st (freeSlots s + 1) data (some n) := by
  rw [slotFrame, h]

theorem answerFrame_of_data {a : Answer} (h : a.now = false) (s : State) :
    answerFrame a s = .reply a.type a.tag a.status (freeSlots s) a.data none := by
  rw [answerFrame, h]; rfl

/-! ## How answered slots enter the reply order (R179) -/

theorem unordered_iff (s : State) (n : Nat) (sl : Slot) : unordered s n sl = true ↔
    sl.state = .replyReady ∧ n ∉ s.link.replyOrder ∧ sendingSlot s ≠ some n := by
  simp [unordered, and_assoc]

theorem mem_newlyReady {s : State} {n : Nat} : n ∈ newlyReady s ↔ ∃ sl, (n, sl) ∈ s.link.slots ∧
    sl.state = .replyReady ∧ n ∉ s.link.replyOrder ∧ sendingSlot s ≠ some n := by
  simp only [newlyReady, List.mem_map, Store.mem_sortBy, List.mem_filter, unordered_iff]
  constructor
  · rintro ⟨⟨m, sl⟩, ⟨hmem, hready⟩, rfl⟩
    exact ⟨sl, hmem, hready⟩
  · rintro ⟨sl, hmem, hready⟩
    exact ⟨(n, sl), ⟨hmem, hready⟩, rfl⟩

theorem Store.perm_insertBy {α : Type} (rank : α → Nat) (x : α) (l : List α) :
    (Store.insertBy rank x l).Perm (x :: l) := by
  induction l with
  | nil => exact .refl _
  | cons y l ih =>
    unfold Store.insertBy
    split
    · exact .refl _
    · exact (ih.cons y).trans (.swap x y l)

theorem Store.perm_sortBy {α : Type} (rank : α → Nat) (l : List α) : (Store.sortBy rank l).Perm l := by
  have hfold (acc : List α) : (l.foldl (fun acc x => Store.insertBy rank x acc) acc).Perm (l ++ acc) := by
    induction l generalizing acc with
    | nil => exact .refl _
    | cons x l ih =>
      refine (ih _).trans (((Store.perm_insertBy rank x acc).append_left l).trans ?_)
      exact List.perm_middle
  simpa [Store.sortBy] using hfold []

theorem nodup_newlyReady {s : State} (h : Store.Canonical s.link.slots) : (newlyReady s).Nodup := by
  have hkept : Store.Canonical (s.link.slots.filter (fun p => unordered s p.1 p.2)) := Store.canonical_filter h
  exact ((Store.perm_sortBy _ _).map Prod.fst).nodup_iff.mpr (hkept.imp Nat.ne_of_lt)

/-- The slots answered in one change stand in ascending arrival number. -/
theorem newlyReady_byArrival {s : State} (h : Store.Canonical s.link.slots) :
    (newlyReady s).Pairwise (fun a b => ∀ x y, slotAt a s = some x → slotAt b s = some y → x.arrival ≤ y.arrival) := by
  rw [newlyReady, List.pairwise_map]
  refine (Store.pairwise_sortBy _ _).imp_of_mem fun {p q} hp hq hle x y hx hy => ?_
  rw [Store.mem_sortBy, List.mem_filter] at hp hq
  rw [slotAt, Store.get_of_mem h hp.1] at hx
  rw [slotAt, Store.get_of_mem h hq.1] at hy
  cases hx
  cases hy
  exact hle

/-- Settles O16, by the sources of the transmitter in their order. -/
theorem transmitterChoice : Obligations.TransmitterChoice := by
  refine ⟨fun s => ⟨fun _ => transmit_busy, transmit_softReset, fun hidle hsoft _ _ => transmit_resetReply hidle hsoft,
    fun hidle hsoft hnone => ?_⟩, ⟨fun s n sl st data hreply => ?_, fun s a hnow => answerFrame_of_data hnow s⟩,
    fun s => ⟨rfl, newlyReady s, rfl, fun n => mem_newlyReady, fun hcanonical =>
      ⟨nodup_newlyReady hcanonical, newlyReady_byArrival hcanonical⟩⟩⟩
  · rw [transmit_chooses hidle hsoft hnone]
    exact ⟨fun _ _ => chooseFrame_answer, fun _ _ hanswers => chooseFrame_notice hanswers,
      fun _ _ _ hanswers => chooseFrame_slot hanswers, chooseFrame_nothing⟩
  · rw [slotFrame_of_reply hreply]
    cases sl.request <;> rfl

end Sys2Proof.Machine


/-! # The oldest QUEUED request is taken (R181) -/

namespace Sys2Proof.Machine

/-! ## The oldest QUEUED slot -/

theorem oldestQueued_cons_of_queued {p : Nat × Slot} (h : p.2.state = .queued) (rest : List (Nat × Slot)) :
    oldestQueued (p :: rest) = some (((oldestQueued rest).map (olderSlot p)).getD p) := by
  rw [oldestQueued, h]
  cases oldestQueued rest <;> rfl

theorem oldestQueued_cons_of_not_queued {p : Nat × Slot} (h : p.2.state ≠ .queued) (rest : List (Nat × Slot)) :
    oldestQueued (p :: rest) = oldestQueued rest := by
  rw [oldestQueued]
  split
  · next hq _ => exact absurd hq h
  · next hq _ => exact absurd hq h
  · rfl

theorem olderSlot_spec (p q : Nat × Slot) : (olderSlot p q = p ∨ olderSlot p q = q) ∧
    (olderSlot p q).2.arrival ≤ p.2.arrival ∧ (olderSlot p q).2.arrival ≤ q.2.arrival := by
  unfold olderSlot
  split
  · exact ⟨.inr rfl, by omega, Nat.le_refl _⟩
  · exact ⟨.inl rfl, Nat.le_refl _, by omega⟩

/-- Nothing is found exactly when no slot is QUEUED. -/
theorem oldestQueued_eq_none {l : List (Nat × Slot)} : oldestQueued l = none ↔ ∀ p ∈ l, p.2.state ≠ .queued := by
  induction l with
  | nil => simp [oldestQueued]
  | cons p rest ih =>
    by_cases hp : p.2.state = .queued
    · simp [oldestQueued_cons_of_queued hp, hp]
    · simp [oldestQueued_cons_of_not_queued hp, hp, ih]

/-- What is found is QUEUED, and no QUEUED slot is older. -/
theorem oldestQueued_spec {l : List (Nat × Slot)} {q : Nat × Slot} (h : oldestQueued l = some q) :
    q.2.state = .queued ∧ ∀ p ∈ l, p.2.state = .queued → q.2.arrival ≤ p.2.arrival := by
  induction l generalizing q with
  | nil => cases h
  | cons p rest ih =>
    by_cases hp : p.2.state = .queued
    · rw [oldestQueued_cons_of_queued hp] at h
      cases hrest : oldestQueued rest with
      | none =>
        rw [hrest] at h
        cases h
        refine ⟨hp, fun x hx hxq => ?_⟩
        rcases List.mem_cons.mp hx with rfl | hx
        · exact Nat.le_refl _
        · exact absurd hxq (oldestQueued_eq_none.mp hrest x hx)
      | some o =>
        rw [hrest] at h
        cases h
        obtain ⟨hqueued, hleast⟩ := ih hrest
        obtain ⟨heither, hlep, hleo⟩ := olderSlot_spec p o
        refine ⟨?_, fun x hx hxq => ?_⟩
        · show (olderSlot p o).2.state = .queued
          rcases heither with e | e <;> rw [e]
          exacts [hp, hqueued]
        · rcases List.mem_cons.mp hx with rfl | hx
          · exact hlep
          · exact hleo.trans (hleast x hx hxq)
    · rw [oldestQueued_cons_of_not_queued hp] at h
      obtain ⟨hqueued, hleast⟩ := ih h
      refine ⟨hqueued, fun x hx hxq => ?_⟩
      rcases List.mem_cons.mp hx with rfl | hx
      · exact absurd hxq hp
      · exact hleast x hx hxq

/-! ## The engine's choice -/

theorem engineFree_iff (s : State) : engineFree s = true ↔
    s.engine.active = none ∧ s.engine.discard = false ∧ s.startup.mode ≠ .formatting := by
  simp [engineFree, and_assoc]

theorem nextTaken_eq_some {n : Nat} {r : Request} {s : State} : nextTaken s = some (n, r) ↔
    engineFree s = true ∧ ∃ sl, oldestQueued s.link.slots = some (n, sl) ∧ sl.request = r := by
  unfold nextTaken
  split
  · next hfree =>
    rw [Option.map_eq_some_iff]
    constructor
    · rintro ⟨⟨m, sl⟩, hsl, e⟩
      cases e
      exact ⟨hfree, sl, hsl, rfl⟩
    · rintro ⟨-, sl, hsl, rfl⟩
      exact ⟨(n, sl), hsl, rfl⟩
  · next hbusy => exact ⟨nofun, fun h => absurd h.1 hbusy⟩

/-- A command for a request that the engine does not take next changes nothing (assumption 4). -/
theorem exec_of_not_taken {c : Instr} {s : State} (hc : isTaking c = true)
    (hnot : ∀ n r, nextTaken s = some (n, r) → requestCommand r ≠ c) : exec c s = .next s := by
  have idle {step : State → State} (hexec : exec c s = .next (whileRunning step s)) (hstep : step s = s) :
      exec c s = .next s := by
    rw [hexec]
    exact congrArg Host.Outcome.next (Whole.keeps_whileRunning (P := fun t => t = s) (fun _ => hstep) rfl)
  cases c <;> cases hc
  all_goals
    refine idle rfl ?_
    simp only [putStep, deleteStep, getStep, listStep, syncStep, compactStep, segmentInfoStep, spaceInfoStep,
      setParamStep, freezeStep, setPolicyStep, setQuotaStep, clearSpaceStep, formatStep]
    split
    · next h => exact absurd rfl (hnot _ _ h)
    · rfl

/-- Settles O18, by the oldest of the QUEUED slots. -/
theorem oldestQueuedIsTakenAlone : Obligations.OldestQueuedIsTakenAlone := by
  refine ⟨fun s n r h => ?_, fun s hactive hdiscard hmode hqueued => ?_, fun c s => exec_of_not_taken⟩
  · obtain ⟨hfree, sl, hsl, hr⟩ := nextTaken_eq_some.mp h
    obtain ⟨hactive, hdiscard, hmode⟩ := (engineFree_iff s).mp hfree
    obtain ⟨hqueued, hleast⟩ := oldestQueued_spec hsl
    exact ⟨hactive, hdiscard, hmode, sl, mem_of_oldestQueued hsl, hqueued, hr, hleast⟩
  · obtain ⟨p, hp, hstate⟩ := hqueued
    obtain ⟨⟨n, sl⟩, hsl⟩ := Option.ne_none_iff_exists'.mp fun hnone => oldestQueued_eq_none.mp hnone p hp hstate
    exact ⟨n, sl.request, nextTaken_eq_some.mpr ⟨(engineFree_iff s).mpr ⟨hactive, hdiscard, hmode⟩, sl, hsl, rfl⟩⟩

end Sys2Proof.Machine
